-- ==== Sys2Proof/Word.lean ====
section
/-! DEFINITION. The machine's word types (R5, R6): registers are 64 bits wide, memory is byte-addressed and
little-endian. Everything that computes on them stands under Machine/. -/

namespace Sys2Proof

/-- A 64-bit register or scalar word (R6, R52). -/
abbrev Word := BitVec 64

/-- One byte of Hall, Lower Hall, instruction memory or a tile register. -/
abbrev Byte := BitVec 8

/-- One 32-bit lane or accumulator cell (R102, R148). -/
abbrev Lane := BitVec 32

end Sys2Proof
end

