-- ==== Sys2Proof/Syntax.lean ====
section
/-! DEFINITION. The commands of the cluster: one constructor of `Instr` per row of opcode_table.json, those without
operands last.
Each row is one whole and indivisible step of the part (95_what_each_step_holds.md). An operand says which
instance of the step is meant (a thread, an array, a stream context), or what the surroundings deliver with it
(a written value, a packet, a measured event). -/

namespace Sys2Proof

/-- Who performs a register write (R72): the management port, or a store of Usher thread `t`
(thread 15 is the firmware thread). -/
inductive Originator where
  | mgmt
  | thread (t : Fin 16)
deriving DecidableEq, Repr

/-- The node, die and cluster of a cluster (FAB_ID, R198, R270). -/
structure Identity where
  node : BitVec 16
  die : BitVec 3
  cluster : BitVec 4
deriving DecidableEq, Repr

/-- One bank of Hall (R199) or one bond channel of Lower Hall (R200). -/
inductive LineBank where
  | hall (b : Fin 96)
  | channel (c : Fin 16)
deriving DecidableEq, Repr

/-- The two SRAM tiers with a page of their own (HALL, LHALL). -/
inductive Tier where
  | hall
  | lower
deriving DecidableEq, Repr

/-- A counter advance asked of a destination (R237): its unit (packets or bytes) and its sync object. -/
structure Advance where
  packets : Bool
  counter : BitVec 13
deriving DecidableEq, Repr

/-- The operations of an atomic (R283, R401). -/
inductive AtomOp where
  | add | max | min | and | or | swap | cas | qput
deriving DecidableEq, Repr

/-- The scopes of R282. -/
inductive Scope where
  | cl | dy | pk | fb
deriving DecidableEq, Repr

/-- The codes of an error response (R263). -/
inductive ErrCode where
  | window | uncorr | transport | unsupported | off
deriving DecidableEq, Repr

/-- What the header of every flit holds (R246, R248): whether its CRC holds, and its sequence number. -/
structure FlitHdr where
  crcOk : Bool
  seq : Nat
deriving DecidableEq, Repr

/-- The header of an answer: that of every flit, and the sequence number of the flit it answers (R246). -/
structure AnswerHdr where
  hdr : FlitHdr
  of_ : Nat
deriving DecidableEq, Repr

/-- What an atomic request on the fabric asks for: its operation, and whether it is a home atomic (R283, R288). -/
structure AtomForm where
  op : AtomOp
  home : Bool
deriving DecidableEq, Repr

/-- A VC 0 write flit as a Gallery delivers it (R246, R249, R251): its header, its destination address in this cluster, the
tile markers, how many bytes of its tile it carries less one (assumption 11), its 256 data bytes, and the counter advance
of its tile. -/
structure WriteFlit where
  hdr : FlitHdr
  addr : BitVec 32
  first : Bool
  last : Bool
  lenM1 : BitVec 8
  data : BitVec 2048
  dcnt : Option Advance
deriving DecidableEq, Repr

/-- What a link settles in when its training ends (R349). -/
inductive TrainResult where
  | up (modules : Fin 5) (repaired : BitVec 16)
  | absent
  | down
  | failed
deriving DecidableEq, Repr

/-- A Gallery, or the fabric port. -/
inductive LinkPort where
  | gal (g : Fin 4)
  | fab
deriving DecidableEq, Repr

/-- What a pass-through cluster forwards (R256): a flit, or a capability word. -/
inductive PassItem where
  | flit (f : BitVec 2176)
  | capWord (w : BitVec 64)
deriving DecidableEq, Repr

/-- What the 4,096 bits shifted into the fuse shadow say (R342): the raw bits, the fields that this manual's
"fuse" resets name, and what the per-word code reported. -/
structure FuseImage where
  raw : BitVec 4096
  fmaxOp : BitVec 3
  pcapMax : BitVec 10
  honour : BitVec 64
  stepping : BitVec 8
  hard : BitVec 16
  passThru : Bool
  corrected : Bool
  bad : Bool
deriving DecidableEq, Repr

/-- The result of a march of R343: the array classes with a failing row and no spare, and the spares it used. -/
structure MarchResult where
  fail : BitVec 5
  spares : BitVec 32
deriving DecidableEq, Repr

/-- Network credits of FAB_TXCR (R354). -/
inductive FabCredit where
  | request | write | response
deriving DecidableEq, Repr

inductive Instr where
  -- Usher scalar instructions (R400, R401): the next instruction of thread `t`
  | add (t : Fin 16) | sub (t : Fin 16) | and (t : Fin 16) | or (t : Fin 16) | xor (t : Fin 16)
  | shl (t : Fin 16) | shr (t : Fin 16) | sra (t : Fin 16) | slt (t : Fin 16) | sltu (t : Fin 16)
  | min (t : Fin 16) | max (t : Fin 16) | mul (t : Fin 16) | mulhu (t : Fin 16)
  | addi (t : Fin 16) | andi (t : Fin 16) | ori (t : Fin 16) | xori (t : Fin 16) | shi (t : Fin 16)
  | slti (t : Fin 16) | movz (t : Fin 16) | movk (t : Fin 16)
  | ldB (t : Fin 16) | ldBu (t : Fin 16) | ldH (t : Fin 16) | ldHu (t : Fin 16) | ldW (t : Fin 16)
  | ldWu (t : Fin 16) | ldD (t : Fin 16)
  | stB (t : Fin 16) | stH (t : Fin 16) | stW (t : Fin 16) | stD (t : Fin 16)
  | beq (t : Fin 16) | bne (t : Fin 16) | blt (t : Fin 16) | bge (t : Fin 16) | bltu (t : Fin 16)
  | bgeu (t : Fin 16) | j (t : Fin 16) | jal (t : Fin 16) | jr (t : Fin 16)
  | enqI (t : Fin 16) | enqR (t : Fin 16) | enqH (t : Fin 16)
  | stepWait (t : Fin 16) | stepEnd (t : Fin 16)
  | syncWait (t : Fin 16) | syncAdd (t : Fin 16) | syncSet (t : Fin 16) | syncRd (t : Fin 16)
  | queCfg (t : Fin 16) | quePut (t : Fin 16) | queGet (t : Fin 16)
  | atomAdd (t : Fin 16) | atomMax (t : Fin 16) | atomMin (t : Fin 16) | atomAnd (t : Fin 16)
  | atomOr (t : Fin 16) | atomSwap (t : Fin 16) | atomCas (t : Fin 16) | atomQput (t : Fin 16)
  | atomHAdd (t : Fin 16) | atomHSwap (t : Fin 16) | atomHCas (t : Fin 16)
  | taskEnd (t : Fin 16) | fwRet (t : Fin 16)
  -- Usher events
  | owedPush (t : Fin 16) | stepWaitExpire (t : Fin 16) | releaseFenceClear (t : Fin 16)
  | cmdX (t : Fin 16)
  -- the arrays
  | opx (a : Fin 2) | opaClr (a : Fin 2) | bankReadoutPoint (a b : Fin 2)
  | opaResume (o : Originator) (a : Fin 2) (v : BitVec 64)
  -- the tile unit
  | tileLineLand (b : Fin 64)
  | tilePauseWrite (o : Originator) (v : BitVec 64) | tileResume (o : Originator) (v : BitVec 64)
  | tileDiscard (o : Originator) (v : BitVec 64)
  -- the vector engine: the next command of queue 3
  | vecRetry (o : Originator) (v : BitVec 64) | vecDiscard (o : Originator) (v : BitVec 64)
  -- Flights
  | treadProgramLoaded (slot : Fin 64)
  -- streams: engine n, context c
  | strmCfg (n : Fin 4) | strmArm (n : Fin 4) | strmCancel (n : Fin 4) | cancelComplete (n c : Fin 4)
  | descBlockUsable (n c : Fin 4) | descCopy (n c : Fin 4) | descGather (n c : Fin 4)
  | descScatter (n c : Fin 4) | descNop (n c : Fin 4) | descJump (n c : Fin 4)
  | streamTileComplete (n c : Fin 4)
  | strmResume (o : Originator) (n : Fin 4) (v : BitVec 64)
  | strmDiscard (o : Originator) (n : Fin 4) (v : BitVec 64)
  -- the fabric port
  | fabRdReq (src : Identity) (tag : Nat) (addr : BitVec 64) (len : Nat)
  | fabRdRsp (tag : Fin 512) (data : List (BitVec 1024))
  | fabWr (src : Identity) (tag : Nat) (addr : BitVec 64) (data : List (BitVec 8)) (adv : Option Advance)
  | fabWrAck (tag : Fin 512)
  | fabAtomReq (src : Identity) (tag : Nat) (addr : BitVec 64) (op : AtomForm) (b c : BitVec 64)
  | fabAtomRsp (tag : Fin 512) (value : BitVec 64)
  | fabErrRsp (tag : Fin 512) (code : ErrCode)
  -- the Galleries
  | galWriteFlit (g : Fin 4) (f : WriteFlit)
  | galReadRequest (g : Fin 4) (crcOk : Bool) (seq : Nat) (addr : BitVec 32) (len : Nat)
  | galReadResponse (g : Fin 4) (h : FlitHdr) (of_ : Nat) (data : List (BitVec 1024))
  | galAck (g : Fin 4) (h : AnswerHdr)
  | galErrorResponse (g : Fin 4) (h : AnswerHdr) (code : ErrCode)
  | galCreditReturn (g : Fin 4) (vc : Fin 3)
  -- `h` tells whether the request's CRC holds, and the flit from which to replay
  | galReplayRequest (g : Fin 4) (h : FlitHdr)
  | relayForward (g : Fin 4)
  | passThroughForward (g : Fin 4) (x : PassItem)
  | galCapWord (p : LinkPort) (w : BitVec 64)
  | linkTrained (p : LinkPort) (r : TrainResult)
  | galRecalPeriod (g : Fin 4)
  | moduleRecalDone (g : Fin 4) (ok : Bool) (repaired : BitVec 4)
  | galRetrain (o : Originator) (g : Fin 4) (v : BitVec 64)
  | fabRetrain (o : Originator) (v : BitVec 64)
  | galRelayWrite (o : Originator) (g : Fin 4) (e : Fin 16) (delta : Bool) (v : BitVec 64)
  | fabIdWrite (o : Originator) (v : BitVec 64)
  | fabWheelWrite (o : Originator) (v : BitVec 64)
  | winCtlWrite (o : Originator) (w : Fin 64) (v : BitVec 64)
  | winFieldWrite (o : Originator) (w : Fin 64) (field : Fin 3) (v : BitVec 64)
  -- Hall, Lower Hall, Landings
  | hallAccessGrant (b : LineBank) (inner : Nat) (flagged : BitVec 10)
  | hallReadDataUsable (id : Nat) | hallWriteComplete (id : Nat)
  | outerCodeReread (id : Nat) (flagged : BitVec 10) | outerCodeWriteback (id : Nat)
  | hallScrubStart (o : Originator) (tier : Tier) (v : BitVec 64) | scrubPassDone (tier : Tier)
  | hallPwrWrite (o : Originator) (tier : Tier) (v : BitVec 64)
  | powerWakeDone (tier : Tier) (g : Fin 32)
  | landCfgWrite (o : Originator) (l : Fin 64) (v : BitVec 64)
  | landOvfWrite (o : Originator) (l : Fin 64) (v : BitVec 64)
  | landTagset (o : Originator) (v : BitVec 64)
  | landingSpillStart (l : Fin 64) | landingSpillReadDone (l : Fin 64) | landingSpillAck (l : Fin 64)
  | landingRefillStart (l : Fin 64) | landingRefillDone (l : Fin 64)
  | syncValWrite (o : Originator) (v : BitVec 64)
  -- the step unit
  | stepMarkNormal (capIn : BitVec 10) (opIn : BitVec 3)
  | stepCfgWrite (o : Originator) (v : BitVec 64) | stepLenWrite (o : Originator) (v : BitVec 64)
  | stepSlackWrite (o : Originator) (v : BitVec 64) | stepGuardWrite (o : Originator) (v : BitVec 64)
  | latSelWrite (o : Originator) (v : BitVec 64)
  -- Usher control
  | ushRunSet (o : Originator) (v : BitVec 64) | ushRunClear (o : Originator) (v : BitVec 64)
  | ushImemSplitWrite (o : Originator) (v : BitVec 64) | ushTaskWrite (o : Originator) (v : BitVec 64)
  | threadStart (o : Originator) (t : Fin 16) (v : BitVec 64)
  | threadStop (o : Originator) (t : Fin 16) (v : BitVec 64)
  | wdogKick (o : Originator) (v : BitVec 64) | wdogCtlWrite (o : Originator) (v : BitVec 64)
  -- power
  | pwrCapWrite (o : Originator) (v : BitVec 64) | pwrWinWrite (o : Originator) (v : BitVec 64)
  | pwrDroopWrite (o : Originator) (v : BitVec 64)
  | powerInputSample (capIn : BitVec 10) (opIn : BitVec 3)
  | droopCrossing (microvolts : Nat)
  | thermConversion (k : Fin 16) (reading : Int)
  -- events, registers, management
  | evtClear (o : Originator) (v : BitVec 64)
  | pageEvtClear (o : Originator) (slot : Fin 64) (v : BitVec 64)
  | registerWrite (o : Originator) (addr : BitVec 32) (v : BitVec 64)
  | mgmtMemRead (addr : BitVec 29) (flagged : BitVec 10)
  | mgmtMemWrite (addr : BitVec 29) (v : BitVec 64) (flagged : BitVec 10)
  | mgmtReqHdrWrite (o : Originator) (v : BitVec 64) | mgmtRspHdrWrite (o : Originator) (v : BitVec 64)
  -- inspection access: a write of TEST_IACC
  | testReadThreadReg (o : Originator) (unit : BitVec 8) (index : BitVec 32)
  | testWriteThreadReg (o : Originator) (unit : BitVec 8) (index : BitVec 32)
  | testReadVreg (o : Originator) (unit : BitVec 8) (index : BitVec 32)
  | testWriteVreg (o : Originator) (unit : BitVec 8) (index : BitVec 32)
  | testReadMask (o : Originator) (unit : BitVec 8) (index : BitVec 32)
  | testWriteMask (o : Originator) (unit : BitVec 8) (index : BitVec 32)
  | testReadTile (o : Originator) (unit : BitVec 8) (index : BitVec 32)
  | testWriteTile (o : Originator) (unit : BitVec 8) (index : BitVec 32)
  | testReadAcc (o : Originator) (unit : BitVec 8) (index : BitVec 32)
  | testWriteAcc (o : Originator) (unit : BitVec 8) (index : BitVec 32)
  -- reset and start-up
  | clusterReset (o : Originator) (v : BitVec 64)
  | fuseLoadDone (img : FuseImage)
  | selftestDone (exhausted : Option (Fin 5)) (spares : BitVec 32)
  | hashStart (o : Originator) (v : BitVec 64)
  | cluModeWrite (o : Originator) (v : BitVec 64) | cluFwidWrite (o : Originator) (v : BitVec 64)
  | mgmtRegisterRead (addr : BitVec 29)
  | galPeerLost (g : Fin 4) | ucieModuleFailure (g : Fin 4) (k : Fin 4)
  | fabCreditReturn (kind : FabCredit) | mbistMarchDone (r : MarchResult)
  -- Usher events: commands without operands
  | syncWake | taskEnded
  -- the tile unit: commands without operands
  | tcfg | trel | tileCfgTakeEffect | tld | tst
  -- the vector engine: commands without operands
  | vadd | vsub | vmul | vfma | vmin | vmax | vabs | vneg | vaddI | vsubI | vmulI | vminI | vmaxI | vand
  | vor | vxor | vnot | vshl | vshr | vsra | vcmp | vmov | vsel | vsplat | kand | kor | kxor | knot | vcvt
  | vrcp | vrsqrt | vexp2 | vlog2 | vscan | vred | vperm | vbcast | vcompress | vexpand | vld | vst | vldMx
  | vstMx | vldx | vstx | vaccRd | vcfg
  -- Flights: commands without operands
  | fltStg | fltAdr | fltGo | flightComplete | trdLoad
  -- the fabric port: commands without operands
  | fabTransferIssue | fabLinkLoss
  -- the step unit: commands without operands
  | stepMarkStop | opChangeClockRestart | stepReadyRise | stepLateLimit | stepOverrun
  -- Usher control: commands without operands
  | wdogExpired | usherRestart
  -- power: commands without operands
  | balustradeInterval | banisterHoldExpire | coolStop
  -- events, registers, management: commands without operands
  | mgmtPing | mgmtTaskStart | mgmtEvtSweep | mgmtThreadRestart
  -- test ports: commands without operands
  | tapIdcode | tapFuseread | tapMbistRun | tapMbistResult | tapBypass | wsBypass | wsExtest | wsIntest
  | wsBondtest | wsUcieloop | testReset
  -- reset and start-up: commands without operands
  | powerOnReset | resetRelease | clockLocked | clockLockFail | hashDone
deriving DecidableEq, Repr

end Sys2Proof
end

