-- ==== Sys2Proof/Decode.lean ====
section
/-! DEFINITION. The word a command is spelled by. The table gives no row any bits: the cluster's commands are events at
its ports and inside its units, and no word of the part spells one. The encodings the part itself has, the Usher
instruction word and the engine commands, are read in Machine/Operands.lean. -/

namespace Sys2Proof

/-- The command that the bits `w` of a table row spell: none, since no row of the table has bits. -/
def decodeTableWord (_nbits _w : Nat) : Option Instr := none

end Sys2Proof
end

