-- ==== Sys2Proof/Config.lean ====
section
/-! DEFINITION. What one implementation fixes: the latency manifest of version 1 (R37), the sizes of the cluster, and
the values this manual leaves open, as opaque constants without a body. -/

namespace Sys2Proof.Config

/-! ## Latency manifest version 1 (R37), in cluster cycles -/

def hallLtu : Nat := 7
def hallWr : Nat := 7
/-- LHALL.LTU and LHALL.WR: 16, or 18 with -T2. -/
def lhallLat (tiers2 : Bool) : Nat := if tiers2 then 18 else 16
def ushPush : Nat := 3
def tileCfg : Nat := 2
def opaIssue : Nat := 1
def opaCommit : Nat := 38
def opaReady : Nat := 6
def vecAlu : Nat := 4
def vecTrans : Nat := 8
/-- VEC.SCAN: 12; 11 at V512; 13 at V2048. -/
def vecScan (lanes : Fin 3) : Nat := 11 + lanes.val
def vecPerm : Nat := 6
def vecAccrd : Nat := 32
def fltDepth : Nat := 12
def syncLocal : Nat := 4
def stepWake : Nat := 2
def strmArm : Nat := 6
def strmDesc : Nat := 12
/-- HALL.REPLAY (R46, R204). -/
def hallReplay : Nat := 12

/-! ## Sizes -/

def hallSize : Nat := 0x01800000
def lhallBase : Nat := 0x08000000
def tierSize : Nat := 0x08000000
def imemBase : Nat := 0x20000000
def imemSize : Nat := 0x00040000
def pageBase : Nat := 0x30000000
def pageSpace : Nat := 0x00040000
def syncBase : Nat := 0x40000000
def queBase : Nat := 0x40010000
def lineBytes : Nat := 128
def rangeEntries : Nat := 64
def queueDepth : Nat := 16
def fabTags : Nat := 512
def strmOut : Nat := 128
def landOut : Nat := 8
def atomOut : Nat := 16
def inboundOut : Nat := 64
def landBuf : Nat := 512

/-! ## Values the manual leaves open

Each is a constant with no body: nothing in a proof can depend on which value it is. -/

/-- Which of the grid points within the stated units in the last place a transcendental (0 to 3) or an activation (4 to 7)
returns for a flushed input (R94, R183: the value inside the bound is not stated). Assumption 5. -/
opaque freeUlp : Nat → BitVec 32 → Nat

/-- What adds energy (R317): a beat with its formats and gated cube steps, a line grant by requester (coded as PAGE_ERR_LOG.UNIT)
and tier, a lane pass by opcode and function bits, a Flight value by source and its format, an Usher issue, a flit, a line on the fabric
port, a clocked cycle. -/
inductive Act where
  | beat (fmtA fmtB gated : Nat)
  | grant (unit : Nat) (lower : Bool)
  | pass (opc fn : Nat)
  | value (fmt : Nat)
  | issue | flit | fabLine | clock
deriving DecidableEq, Repr

/-- The fixed weight of an act in femtojoules, under the fuse image (R317: fuse-programmed per stepping, and not given).
Assumption 7. -/
opaque freeWeight : BitVec 4096 → Act → Nat

/-- The partition that holds the clock tree: R311 names none. Assumption 7. -/
opaque freeClockPart : Fin 5

/-- The leakage estimate of R317 at a point, from the sensor readings: n / (d + 1) watts. Assumption 7. -/
opaque freeLeak : BitVec 3 → Vector (BitVec 12) 16 → Nat × Nat

/-- A value that the manual calls undefined or does not state, drawn by number from `State.freeIx`. -/
opaque freeBits : Nat → BitVec 64

end Sys2Proof.Config
end

