-- ==== Sys2Proof/Machine/State.lean ====
section
/-! DEFINITION. The whole state of the cluster as plain data, and `State.reset`. One structure per block, in the
order of the page directory (R372). Commands, descriptors, Flight stages and Tread images are held as the raw bits
the hardware holds; Machine/Operands.lean reads their fields. Times are cluster cycles on the scale of `State.now`. -/

namespace Sys2Proof.Machine

/-- A sparse store: what an unlisted key reads as, and the listed cells. Canonical form: keys strictly rising, no cell
equal to the default (`SMap.wf`). -/
structure SMap (w : Nat) where
  dflt : BitVec w
  cells : List (Nat × BitVec w)
deriving DecidableEq, Repr

/-- A register page (R372), in directory order. -/
inductive Page where
  | clu | ush | step | lat | opa0 | opa1 | tile | vec | flt | hall | lhall | land
  | strm0 | strm1 | strm2 | strm3 | galN | galE | galS | galW | fab | win | sync | que
  | pwr | therm | evt | mgmt | test | fuse
deriving DecidableEq, Repr

/-- The stored part of a page's common header (R373, R338). -/
structure PageHdr where
  tag : BitVec 16
  evt : BitVec 32
  mask : BitVec 32
  log : BitVec 64
  seq : BitVec 32
  logSeq : BitVec 32
deriving DecidableEq, Repr

/-- Build options (R365): fixed when the block is built; no step changes them. -/
structure Build where
  /-- VEC PAGE_CAP.LANES: 0 V512, 1 V1024, 2 V2048. -/
  lanes : Fin 3
  /-- Two Lower Hall tiers (-T2). -/
  tiers2 : Bool
  /-- Cross-die option of each Gallery, N E S W. -/
  crossDie : Vector Bool 4
deriving DecidableEq, Repr

/-! ## Memory accesses in flight (R15, R61 to R64, R201 to R206) -/

/-- A requester of a line access, as PAGE_ERR_LOG.UNIT names it (R219). -/
inductive MemUnit where
  | mgmt | vec | tile | strm (n : Fin 4) | gallery | landing | usher | inbound | scrub
deriving DecidableEq, Repr

/-- An entry of the in-flight range table (R61, R62): the bytes `lo` to `hi`, and the slot of a tagged ring it holds. -/
structure RangeEntry where
  id : Nat
  lo : Nat
  hi : Nat
  wr : Bool
  unit : MemUnit
  /-- Ring and slot of a tag-gated access (R211). -/
  slot : Option (Fin 64 × Nat)
  /-- A released entry stays in use to the end of its cycle (R64). -/
  live : Bool
deriving DecidableEq, Repr

/-- A line access that has not been granted: `len` bytes from `addr` inside one 128-byte line. `wr` holds the bytes a
write stores; a read has none. `tag` tells the job what the data is for. -/
structure LineReq where
  id : Nat
  job : Nat
  tag : Nat
  rank : Nat
  unit : MemUnit
  entry : Option Nat
  addr : Nat
  len : Nat
  wr : Option (List Host.Cell)
deriving DecidableEq, Repr

/-- Where a granted access stands in the outer code's correction (R204). -/
inductive EccPhase where
  | clean | flagged | reread | uncorrectable (words : Nat)
deriving DecidableEq, Repr

/-- A granted line access: when its next step falls due, and the bytes a read took at its grant. -/
structure Access where
  req : LineReq
  due : Nat
  data : List Host.Cell
  ecc : EccPhase
  /-- The words the inner code flagged (erasures of R204). -/
  words : BitVec 10
deriving DecidableEq, Repr

/-- A line of a TLD in the landing buffer (R137): its job, the register line it fills (R130) and its 64 bytes, padding
that shares the line already zero (R136). -/
structure LandLine where
  job : Nat
  line : Nat
  bytes : List (BitVec 8)
deriving DecidableEq, Repr

/-! ## Usher (chapter 03) -/

/-- An atomic as its thread issued it (R283, R285, R288); `id` numbers it among the cluster's own (R284), 0 for one that
arrived. -/
structure AtomReq where
  id : Nat
  rd : Fin 32
  addr : BitVec 64
  op : AtomOp
  b : BitVec 64
  c : BitVec 64
  scope : Scope
  home : Bool
deriving DecidableEq, Repr

/-- Pushes a thread still owes (R59): the queue and the commands in order. -/
structure Owed where
  q : Fin 8
  cmds : List (BitVec 128)
deriving DecidableEq, Repr

/-- What a thread in WAIT_SYNC waits for. -/
inductive SyncWait where
  /-- SYNC.WAIT on object `n`; `wakeAt` once a change has satisfied it (R277). -/
  | obj (n : BitVec 13) (target : BitVec 32) (wakeAt : Option Nat)
  /-- QUE.PUT for room in context `q` (R280). -/
  | quePut (q : BitVec 13)
  /-- QUE.GET for an entry of context `q` (R280). -/
  | queGet (q : BitVec 13)
  /-- The release fence of an atomic (R284): the entry its own access took at issue (R283), the older write entries, and
  the earlier atomics, it waits for. -/
  | fence (a : AtomReq) (own : Option Nat) (entries : List Nat) (atoms : List Nat)
deriving DecidableEq, Repr

/-- What a thread in WAIT_DATA waits for. -/
inductive DataWait where
  /-- The pending load of a register its instruction names (R50). -/
  | reg (r : Fin 32)
  /-- The response or old value of an acquire atomic (R283, R285). -/
  | atom (id : Nat)
  /-- The command data of an ENQ.H (R57). -/
  | enqh (job : Nat)
  /-- The pushes of an ENQ.H whose data is usable (R57, R59). -/
  | owed (o : Owed)
deriving DecidableEq, Repr

/-- The thread states of R52. -/
inductive TState where
  | free | ready
  | waitStep (c : Nat)
  | waitMark
  | waitSync (w : SyncWait)
  | waitQueue (o : Owed)
  /-- WAIT_RANGE for an owed push, or (`none`) for the entry of an instruction that takes it at issue (R63). -/
  | waitRange (o : Option Owed)
  | waitData (d : DataWait)
  | halted | faulted
deriving DecidableEq, Repr

/-- One thread context (R52). -/
structure Thread where
  pc : BitVec 18
  regs : Vector (BitVec 64) 32
  st : TState
  fault : BitVec 8
  issued : BitVec 32
  /-- Registers whose load is pending, with the job that fills them (R50). -/
  pend : List (Nat × Fin 32)
  /-- Earliest cycle of its next issue (R24, R277). -/
  notBefore : Nat
  /-- A stop was asked for while an instruction is in progress (R78). -/
  stop : Bool
deriving DecidableEq, Repr

/-- A command in an engine queue (R56, R59): its raw bits, the seed of a wide command's extension (R399), its push
sequence, pusher, push cycle, range entries taken at the push (R61), and what a FLT.GO captured (R182). -/
structure QEntry where
  raw : BitVec 128
  ext : BitVec 64
  seq : Nat
  thread : Fin 16
  pushedAt : Nat
  entries : List Nat
  cap : List (BitVec 128)
  /-- The vector length the command runs under (R149). -/
  vl : Nat
deriving DecidableEq, Repr

/-- An engine queue; `hold` is the first entry of a wide command and its thread (R399). -/
structure EQueue where
  cmds : List QEntry
  hold : Option (Fin 16 × BitVec 128)
deriving DecidableEq, Repr

/-- What slot 0 of the present cycle issued (R53, R54). -/
structure SlotUse where
  thread : Fin 16
  /-- The READY threads of the cycle, in rotation order. -/
  order : List (Fin 16)
  alu : Bool
  branch : Bool
  writes : Option (Fin 32)
deriving DecidableEq, Repr

/-- Task states of USH_TASK.STATE (R78). -/
inductive TaskState where
  | none | loaded | running | ended | aborted
deriving DecidableEq, Repr

structure Usher where
  run : Bool
  fwTop : BitVec 6
  taskId : BitVec 32
  task : TaskState
  threads : Vector Thread 16
  queues : Vector EQueue 8
  pushSeq : BitVec 48
  rangeHigh : BitVec 7
  pushWaits : BitVec 32
  slot0 : Option SlotUse
  slotsUsed : Nat
  /-- The firmware thread is inside its fault handler (R71). -/
  inHandler : Bool
  /-- Usher was reset and thread 15 has not restarted (R76). -/
  restartPending : Bool
  /-- Threads that have made an owed push in this cycle (R59). -/
  pushed : List (Fin 16)
  /-- Threads whose turn an issue slot of this cycle still was when an abort stopped them (R69 step 2). -/
  stopped : List (Fin 16)
deriving DecidableEq, Repr

/-! ## CLU, STEP, LAT, FUSE -/

/-- Start-up phases (R340). -/
inductive Phase where
  | reset | fuse | clock | selftest | ready | pass | failed
deriving DecidableEq, Repr

structure Clu where
  wdogEn : Bool
  wdogPeriod : BitVec 16
  wdogExpired : BitVec 16
  /-- Mark-time cycles left before expiry (R76). -/
  wdogLeft : Nat
  inspect : Bool
  live : Bool
  phase : Phase
  cause : BitVec 4
  resets : BitVec 8
  hashBusy : Bool
  hashDone : Bool
  hashLocked : Bool
  hashAt : Nat
  digest : Vector (BitVec 64) 6
  fwVersion : BitVec 16
  ifMajor : BitVec 8
  fwidValid : Bool
deriving DecidableEq, Repr

/-- Step phases (R48). -/
inductive StepPhase where
  | idle | run | ready | late | stopped
deriving DecidableEq, Repr

/-- A value written to a shadowed field of STEP or PWR (R20, R314). -/
inductive Shadow where
  | mode (b : Bool)
  | mask (m : BitVec 16)
  | lead (a : BitVec 16)
  | len (l : BitVec 21)
  | slack (x : BitVec 21)
  | guard (g : BitVec 21)
  | cap (w : BitVec 10)
deriving DecidableEq, Repr

/-- STEP (R20, R48). The fields hold what is in force; `shadow` the later writes, oldest first, with their cycles. -/
structure Step where
  mode : Bool
  enable : Bool
  mask : BitVec 16
  lead : BitVec 16
  len : BitVec 21
  slack : BitVec 21
  guard : BitVec 21
  shadow : List (Nat × Shadow)
  index : BitVec 32
  phase : StepPhase
  lastStretched : Bool
  modeLive : Bool
  cycle : BitVec 32
  mtime : BitVec 32
  /-- Part of a mark-time cycle counted so far, in units of 1/(8f) with f the clock in units of 50 MHz (R21, R320). -/
  mtFrac : Nat
  lastUsed : BitVec 22
  maxUsed : BitVec 22
  /-- The step-ready output (R23). -/
  rdy : Bool
  /-- Mark time of the last rise of step-ready in this step (R32). -/
  rdyAt : Option Nat
  /-- Cycles that are not bubbles: of the step while one is open, else of the free-running count (R53). -/
  nonBubble : Nat
  freeNonBubble : Nat
  /-- Free-running count of cluster cycles since phase CLOCK ended (R230, R318). -/
  freeCycles : Nat
  /-- Threads of the mask that have executed STEP.END in this step (R23). -/
  ended : BitVec 16
  overrun : Bool
  /-- Mark-time cycles with ENABLE 0 since the last sample of the power inputs (R314). -/
  freeMt : Nat
deriving DecidableEq, Repr

structure Lat where
  version : BitVec 8
  honour : BitVec 64
  stepping : BitVec 8
deriving DecidableEq, Repr

structure Fuse where
  loaded : Bool
  checkBad : Bool
  passThru : Bool
  corrected : Bool
  hard : BitVec 16
  soft : BitVec 16
  raw : BitVec 4096
  fmaxOp : BitVec 3
  pcapMax : BitVec 10
deriving DecidableEq, Repr

/-! ## The arrays (chapter 05) -/

/-- A readout point to come (R115, R116): its cycle, known once the command's last beat has entered, and the signal. -/
structure Readout where
  at_ : Option Nat
  sig : Option (BitVec 13)
deriving DecidableEq, Repr

/-- An accumulator bank: its cells at 128r + c and its kind (R90) as the commits so far leave them, the kind that the command
started last leaves, the readout points still to come (R116), and the last cycle of its readouts (R118). -/
structure Bank where
  cells : SMap 32
  int32 : Bool
  kindNext : Bool
  pend : List Readout
  readUntil : Nat
deriving DecidableEq, Repr

/-- A beat in the pipeline (R115): the cycle of its commit, its command, whether it is that command's first, the formats, and
the k-vectors it took at its entry, each element's bits with its scale byte. -/
structure Beat where
  commitAt : Nat
  cmd : BitVec 128
  first : Bool
  fmtA : Nat
  fmtB : Nat
  a : List (List (Nat × Nat))
  b : List (List (Nat × Nat))
deriving DecidableEq, Repr

structure Opa where
  zgEn : Bool
  sat : Bool
  nan : Bool
  inf : Bool
  beats : BitVec 48
  zgated : BitVec 48
  waitTile : BitVec 32
  waitBank : BitVec 32
  shape : BitVec 3
  bank : Bool
  beatIdx : BitVec 16
  held : Bool
  /-- The command started last, its push sequence and its thread (R117, R323). -/
  cur : BitVec 128
  curSeq : Nat
  curThread : Fin 16
  /-- Its beats that have not entered, and the first cycle in which the next of them may enter. -/
  left : Nat
  nextBeat : Nat
  /-- Beats that have entered and not committed, oldest first (R115). -/
  pipe : List Beat
  /-- Collectors (R131, R132): the lines of beats to come that they hold in a cycle of excess; whether they have asked for the
  first half of the next beat's lines; the banks of lines asked for and not granted so far. -/
  feed : Nat
  asked : Bool
  carry : List Nat
  /-- First cycle in which the next command may start (R117). -/
  freeAt : Nat
  banks : Vector Bank 2
deriving DecidableEq, Repr

/-! ## The tile unit (chapter 06) -/

/-- The shape a TCFG gives (R127). -/
structure TileShape where
  fmt : BitVec 4
  bax : Bool
  rows : Nat
  cols : Nat
deriving DecidableEq, Repr

structure TileReg where
  shape : Option TileShape
  scale : SMap 8
  /-- Cycle in which the last use retired (R140). -/
  retiredAt : Nat
  /-- 1 + the cycle in which its last TLD retired (R139). -/
  loadedAt : Nat
deriving DecidableEq, Repr

structure Tile where
  pause : Bool
  startRow : BitVec 10
  startTreg : BitVec 4
  startKind : BitVec 3
  startCause : BitVec 2
  startSeq : BitVec 32
  loaded : BitVec 32
  stored : BitVec 32
  waitUse : BitVec 32
  waitFeed : BitVec 32
  regs : Vector TileReg 16
  /-- Bank bytes at (bank × 256 + word) × 64 + byte (R126). -/
  words : SMap 8
  landbuf : List LandLine
  /-- A started TCFG or TREL that has not taken effect, and its start cycle (R140). -/
  cfg : Option (QEntry × Nat)
  /-- The held command (R143). -/
  held : Option QEntry
  /-- Lines and scale rows that landed in this cycle: bank, or 64 for the scale plane (R126), register and line. -/
  landed : List (Nat × Fin 16 × Nat)
  /-- Banks that a TST has read in this cycle (R126, R132). -/
  read : List Nat
deriving DecidableEq, Repr

/-! ## The vector engine and Flights (chapters 07, 08) -/

/-- The units of the vector engine (R152, R168, R177): the lane datapath's, the readout path, the Flight path, the memory
ports. -/
inductive VUnit where
  | alu | trans | xnet | readout | flight | read | write
deriving DecidableEq, Repr

/-- A lane or a mask bit to write, at its key of `Vec.v` or `Vec.k`: the bits that change, and their value. -/
structure VCell where
  toK : Bool
  key : Nat
  bits : BitVec 32
  val : BitVec 32
deriving DecidableEq, Repr

/-- Results on their way to the registers, and the cycle in which they are usable (R152). -/
structure VWrite where
  at_ : Nat
  cells : List VCell
deriving DecidableEq, Repr

/-- What a pass took from lane `e` as it issued: whether the lane is active, whether it starts a segment, and its source. -/
structure VSrc where
  e : Nat
  on : Bool
  seg : Bool
  x : BitVec 32
deriving DecidableEq, Repr

/-- A command of queue 3 that has started and is not done with the registers (R152 to R154, R168, R174). Its passes, or the
cycles it reads, are numbered from 0. -/
structure VRun where
  e : QEntry
  unit : VUnit
  job : Option Nat
  /-- Passes, or read cycles, in all; and the cycles in which those so far issued. -/
  n : Nat
  issued : List Nat
  /-- Passes of a load that are usable, or read cycles of a Flight whose values have left it, with the cycle. -/
  done : List (Nat × Nat)
  /-- A Flight's read cycles as they fall (R174). -/
  fall : List Nat
  src : List VSrc
  /-- Results that a permute or a VRED formed with its first pass. -/
  out : List VCell
deriving DecidableEq, Repr

structure Vec where
  vl : Nat
  /-- VL of the command started last (R173). -/
  lastVl : Nat
  /-- Lane e of V register v at v × 65536 + e (R148). -/
  v : SMap 32
  /-- Mask bit e of K register k at k × 65536 + e (R148). -/
  k : SMap 1
  permOob : Bool
  idxOob : Bool
  faultLane : BitVec 16
  faultCode : BitVec 4
  faultInactive : Bool
  faultSeq : BitVec 32
  oobPerm : BitVec 32
  oobIdx : BitVec 32
  passes : BitVec 48
  rdCyc : BitVec 32
  waitReg : BitVec 32
  waitBank : BitVec 32
  /-- The head of queue 3 is held (R156, R195); `heldFlt` when chapter 08's faults hold it. -/
  held : Bool
  heldFlt : Bool
  /-- Commands in progress, in the order of their starts, and results not yet usable. -/
  runs : List VRun
  writes : List VWrite
  /-- 1 + the cycle of the engine's last start (R153). -/
  startedAt : Nat
deriving DecidableEq, Repr

structure Flt where
  /-- Stage s of definition d at 8d + s, as its FLT.STG; 0 is undefined (R178, R192). -/
  defs : SMap 128
  /-- Address records D0–D3, M0, M1 as their FLT.ADR (R179). -/
  recs : SMap 128
  /-- Program slots as their 192-byte images; 0 is empty (R190, R192). -/
  treads : SMap 1536
  faultCode : BitVec 4
  faultStage : BitVec 3
  faultPos : BitVec 24
  faultSeq : BitVec 32
  elems : BitVec 48
  lastDef : BitVec 4
deriving DecidableEq, Repr

/-! ## Hall, Lower Hall, Landings (chapter 09) -/

/-- The states of a power group or segment (R208). -/
inductive PState where
  | on | retain | off | waking (until_ : Nat)
deriving DecidableEq, Repr

structure Hall where
  tgt : BitVec 64
  /-- A target written and not yet in effect, with the cycle of its write (R208). -/
  tgtPend : Option (Nat × BitVec 64)
  live : Vector PState 32
  inner : BitVec 32
  outer : BitVec 32
  lost : BitVec 32
  mgmt : BitVec 32
  scrubBusy : Bool
  scrubPasses : BitVec 32
  /-- For each bank or channel the next position that the scrub pass reads there (R207). -/
  scrubPtr : Vector Nat 96
deriving DecidableEq, Repr

/-- Slot tags (R211). -/
inductive Tag where
  | empty | writing | full | spilling | refilling
deriving DecidableEq, Repr

/-- A slot of a ring: its tag, the entry a Landing's slot holds (R212), the reads of this fill that have taken an
entry and that have completed (R211), and whether a refill brought it (R216). -/
structure Slot where
  tag : Tag
  entry : BitVec 32
  taken : Nat
  done : Nat
  refilled : Bool
deriving DecidableEq, Repr

/-- A spill or refill that is due: the slot to spill, or the entry to refill (R215, R216). -/
inductive LandMove where
  | spill (slot : Nat)
  | refill (entry : BitVec 32)
deriving DecidableEq, Repr

/-- A spill or refill in progress (R215, R216): the Landing entry and slot, and its fabric transfers still to do. -/
structure LandXfer where
  spill : Bool
  entry : BitVec 32
  slot : Nat
  job : Nat
  /-- The Hall side is done (spill: slot reads usable; refill: slot writes complete). -/
  hallDone : Bool
deriving DecidableEq, Repr

structure Ring where
  en : Bool
  kind : Bool
  nslotM1 : BitVec 8
  reads : BitVec 3
  slotLog2 : BitVec 5
  ahead : BitVec 3
  base : BitVec 32
  ovfEn : Bool
  ovfLog2 : BitVec 5
  ovfBase : BitVec 52
  wseq : BitVec 32
  rseq : BitVec 32
  slots : List Slot
  /-- Entries in the overflow region, with whether their spill write is acknowledged (R216). -/
  region : List (BitVec 32 × Bool)
  xfer : Option LandXfer
  /-- The moves that are due, in the order in which they arose (R218). -/
  due : List LandMove
deriving DecidableEq, Repr

structure Land where
  rings : Vector Ring 64
  tagqRing : BitVec 6
  tagqSlot : BitVec 8
  hazRing : BitVec 6
  hazSlot : BitVec 8
  hazRead : Bool
  hazValid : Bool
  spills : BitVec 32
  refills : BitVec 32
  waitCycles : BitVec 32
deriving DecidableEq, Repr

/-! ## Streams (chapter 10) -/

/-- A generation (R220): its ARM's SIG and thread, the address of the next descriptor, the block held (its base and
its 16 descriptors), and the block requested: its base, its request cycle and the job of its read (R224). -/
structure Gen where
  sig : Option (BitVec 13)
  thread : Fin 16
  next : Nat
  block : Option (Nat × List (BitVec 512))
  fetch : Option (Nat × Nat × Option Nat)
  /-- The LAST descriptor has started (R223). -/
  lastSeen : Bool
  /-- Tiles this generation has started. -/
  count : Nat
  /-- Push sequence of its STRM.ARM. -/
  seq : Nat
deriving DecidableEq, Repr

/-- A started tile: its job, descriptor and address, whether every row has arrived (R235), and the ARM signal that
goes with it (R236). -/
structure STile where
  job : Nat
  desc : BitVec 512
  addr : Nat
  complete : Bool
  armSig : Option (BitVec 13)
  lastOfGen : Bool
deriving DecidableEq, Repr

inductive CState where
  | idle | active | cancelling | held
deriving DecidableEq, Repr

structure Ctx where
  lookahead : BitVec 4
  link : Bool
  fillEn : Bool
  fill : BitVec 13
  free : BitVec 13
  st : CState
  gen : Option Gen
  pend : Option Gen
  d : BitVec 32
  b : BitVec 32
  gens : BitVec 32
  /-- Started tiles not yet signalled, oldest first (R236). -/
  tiles : List STile
  /-- Signals of the STRM.CANCEL commands in progress (R238). -/
  cancelSigs : List (BitVec 13)
  /-- When a FREE advance lets the next tile start (R234). -/
  freeAt : Nat
  /-- The faulting descriptors in the order of their faults (R241): the job of a started tile, address, descriptor. -/
  held : List (Option Nat × Nat × BitVec 512)
deriving DecidableEq, Repr

structure Strm where
  ctx : Vector Ctx 4
  outHigh : BitVec 8
  moved : BitVec 48
  waitAhead : BitVec 32
  waitTag : BitVec 32
  faultCtx : BitVec 2
  faultCode : BitVec 3
  faultRow : BitVec 12
  faultDesc : BitVec 32
  rearm : BitVec 16
  /-- 1 + the cycle of the engine's last descriptor start, and its context (R224, R230). -/
  descAt : Nat
  descCtx : Fin 4
  /-- 1 + the cycle in which an STRM.CFG took effect last (R222). -/
  cfgAt : Nat
deriving DecidableEq, Repr

/-! ## Fabric port, Galleries, windows (chapter 11) -/

/-- LINK states (R273). -/
inductive Link where
  | down | training | up | absent | failed
deriving DecidableEq, Repr

/-- Who holds an outbound fabric transfer (R242). -/
inductive Holder where
  | strm (n c : Fin 4) (job : Nat)
  | landing (l : Fin 64) (job : Nat)
  | usher (t : Fin 16) (id : Nat) (rd : Fin 32) (posted : Bool)
deriving DecidableEq, Repr

/-- What an outbound transfer carries. A read names the local address its data goes to, a write the local address its
data comes from (in the job's buffer). -/
inductive XferKind where
  | read (dst : Nat)
  | write (src : Nat) (adv : Option Advance)
  | atom (a : AtomReq)
deriving DecidableEq, Repr

/-- An outbound transfer (R242): waiting (`tag = none`) or outstanding under a port tag. `sent` counts the wheel slots
it has spent (R243). -/
structure Xfer where
  holder : Holder
  kind : XferKind
  addr : BitVec 64
  len : Nat
  sent : Nat
  tag : Option (Fin 512)
  /-- Lines of read data that have arrived. -/
  got : Nat
  /-- Cycle in which it was requested. -/
  at_ : Nat
  /-- Its data has come, and some of its wheel slots are still to be spent (R243). -/
  done : Bool
deriving DecidableEq, Repr

/-- A packet the fabric port drives (R261). -/
inductive FabPacket where
  | rdReq (tag : Nat) (addr : BitVec 64) (len : Nat)
  | rdRsp (tag : Nat) (index : Nat) (data : List (BitVec 8))
  | wr (tag : Nat) (addr : BitVec 64) (data : List (BitVec 8)) (adv : Option Advance)
  | wrAck (tag : Nat)
  | atomReq (tag : Nat) (addr : BitVec 64) (op : AtomOp) (b c : BitVec 64) (scope : Scope) (home : Bool)
  | atomRsp (tag : Nat) (value : BitVec 64)
  | errRsp (tag : Nat) (code : ErrCode)
  /-- The port's capability word (R269). -/
  | cap (w : BitVec 64)
deriving DecidableEq, Repr

/-- A served read waiting for remote slots (R243). -/
structure RemoteRsp where
  tag : Nat
  data : List (BitVec 8)
  sent : Nat
deriving DecidableEq, Repr

structure Fab where
  link : Link
  version : BitVec 8
  node : BitVec 16
  die : BitVec 3
  cluster : BitVec 4
  capPeer : BitVec 64
  rate : BitVec 8
  burst : BitVec 8
  /-- Token bucket, in 1/64 tokens (R271). -/
  tokens : Nat
  wheel : BitVec 32
  xfers : List Xfer
  outHigh : BitVec 10
  err : Vector (BitVec 8) 5
  limited : BitVec 24
  sent : BitVec 32
  received : BitVec 32
  credits : Vector Nat 3
  remote : List RemoteRsp
  /-- The wheel slot of this cycle has been used. -/
  slotUsed : Bool
  /-- The packets driven last, oldest first: line lane and header lane (R261). -/
  tx : List FabPacket
  /-- FAB_RXCR of the last cycle (R262, R354). -/
  rxcr : BitVec 3
deriving DecidableEq, Repr

/-- What a Gallery sends (R246). -/
inductive OutFlit where
  | write (f : WriteFlit)
  -- `q` is the flit's own sequence number (R246); `of_` that of the flit it answers
  | readReq (q : Nat) (addr : BitVec 32) (len : Nat)
  | readRsp (q of_ index : Nat) (data : List (BitVec 8))
  | ack (q of_ : Nat)
  | err (q of_ : Nat) (code : ErrCode)
  /-- A request to replay from flit `seq`, and the capability word: neither belongs to a virtual channel (R246, R248). -/
  | replayReq (seq : Nat)
  | cap (w : BitVec 64)
  /-- What a pass-through cluster forwards (R256). -/
  | pass (x : PassItem)
deriving DecidableEq, Repr

/-- A stream flit waiting for its Gallery: the cycle in which its descriptor started, the engine, its job, the flit, and for
a read the local address its data goes to (R246). -/
structure TxFlit where
  at_ : Nat
  n : Fin 4
  job : Nat
  flit : OutFlit
  dst : Nat
deriving DecidableEq, Repr

/-- A stream's write flit that was sent: its number, its job, its address and its bytes. -/
structure SentFlit where
  seq : Nat
  job : Nat
  addr : Nat
  bytes : Nat
deriving DecidableEq, Repr

/-- A read request that was sent (R250): its flit, the job, its Gallery address, the local address its data goes to, its
bytes, and the lines that have come. -/
structure GalRead where
  seq : Nat
  job : Nat
  src : Nat
  dst : Nat
  len : Nat
  got : Nat
deriving DecidableEq, Repr

/-- A relay flit that was forwarded (R253, R255): the number it was sent under, the Gallery it came on with the number it
had there, its tile's job, and the slot that tile fills. -/
structure RelayAck where
  seq : Nat
  arr : Fin 4
  of_ : Nat
  job : Nat
  slot : Option (Fin 64 × Nat)
deriving DecidableEq, Repr

structure Window where
  en : Bool
  sync : Bool
  rd : Bool
  wr : Bool
  atom : Bool
  cntEn : Bool
  ports : BitVec 5
  base : BitVec 28
  sizeLog2 : BitVec 6
  target : BitVec 32
  cntLo : BitVec 13
  cntHi : BitVec 13
  node : BitVec 16
  die : BitVec 3
  cluster : BitVec 4
  nodeMask : BitVec 16
  dieMask : BitVec 3
  clusterMask : BitVec 4
deriving DecidableEq, Repr

/-- A write tile that is arriving (R249, R252): its range entry, ring and slot, the relay entry it follows, the window that
admitted it, its bytes so far, its counter advance, its latest flit, and whether its LAST flit has been written. -/
structure GalTile where
  entry : Nat
  ring : Fin 64
  slot : Nat
  relay : Option (Fin 16)
  job : Nat
  win : Window
  bytes : Nat
  dcnt : Option Advance
  seq : Nat
  lastSeen : Bool
deriving DecidableEq, Repr

structure Gal where
  link : Link
  version : BitVec 8
  modulesLive : BitVec 4
  recalMod : BitVec 3
  passed : BitVec 4
  recalEn : Bool
  recalPeriod : BitVec 8
  capPeer : BitVec 64
  rate : BitVec 8
  burst : BitVec 8
  tokens : Nat
  retries : BitVec 32
  limited : BitVec 32
  switches : BitVec 32
  recals : BitVec 16
  repaired : BitVec 16
  retired : BitVec 4
  sent : BitVec 32
  received : BitVec 32
  relay : Vector (BitVec 64) 16
  delta : Vector (BitVec 64) 16
  /-- Credits held for VC 0 to 2 (R246). -/
  credits : Vector Nat 3
  /-- VC 0 receive buffer: flits admitted and waiting (R249). -/
  rx : List WriteFlit
  /-- Tiles whose writes have not all completed, oldest first; only the last can still have flits to come. -/
  tiles : List GalTile
  /-- A refused tile's later flits are dropped up to its LAST. -/
  refusing : Bool
  vc2 : List OutFlit
  tx : List TxFlit
  /-- What goes before everything else, outside the virtual channels: replayed flits, a replay request, a capability word
  (R248, R269), what a pass-through forwards (R256). -/
  first : List OutFlit
  /-- The sequence number of the flit that is to arrive next (R248). -/
  rxSeq : Nat
  /-- Credits to return to the neighbour, and GALx_RXCR of the last cycle (R246, R354). -/
  owed : Vector Nat 3
  rxcr : BitVec 3
  /-- A flit has gone in the present plan-clock period (R247). -/
  periodUsed : Bool
  /-- The first line of the flit that waits has taken its token, as only a bucket of one needs (R271). -/
  half : Bool
  /-- Replay buffer: the last 64 flits sent, with their sequence numbers (R248). -/
  replay : List (Nat × OutFlit)
  txSeq : Nat
  failRun : Nat
  /-- Stream flits that await an acknowledgement. -/
  acks : List SentFlit
  /-- Read requests of streams that await a response (R250). -/
  reads : List GalRead
  /-- Relay forwards whose acknowledgement is awaited. -/
  relayAcks : List RelayAck
  nextModule : Fin 4
  /-- Mark-time cycles left of the recalibration period (R259). -/
  recalAt : Nat
  /-- The flits driven in the cycle that drove some last, oldest first; empty after a cycle that drove none. -/
  pins : List OutFlit
  /-- The Gallery has driven a flit in this cycle. -/
  busy : Bool
deriving DecidableEq, Repr

structure Win where
  windows : Vector Window 64
  refused : BitVec 32
  /-- Windows that a write of this cycle closed, as they stay in force to its end (R268). -/
  closing : List (Fin 64 × Window)
deriving DecidableEq, Repr

/-! ## Synchronisation (chapter 12) -/

/-- A queue context (R279, R280). HEAD, RES and TAIL are kept whole; the page shows them modulo 2¹⁶. `done` holds the
indices whose write has completed ahead of TAIL. -/
structure QueCtx where
  en : Bool
  depthLog2 : BitVec 4
  base : BitVec 32
  head : Nat
  res : Nat
  tail : Nat
  done : List Nat
deriving DecidableEq, Repr

structure Sync where
  counts : SMap 32
  /-- Signals and advances of this cycle, object and amount: any other operation works on the count before them (R278). -/
  adds : List (Nat × BitVec 32)
  /-- Objects that have taken their other operation of this cycle (R278). -/
  taken : List Nat
  sel : BitVec 13
  relWait : BitVec 32
  queSel : BitVec 13
  queRefused : BitVec 32
  /-- Contexts that have been configured, by number, rising. -/
  ques : List (Nat × QueCtx)
deriving DecidableEq, Repr

/-! ## Power, THERM, EVT, MGMT, TEST -/

structure Pwr where
  op : BitVec 3
  cap : BitVec 10
  win : BitVec 3
  pWin : Option (BitVec 3)
  capIn : BitVec 10
  opIn : BitVec 3
  /-- The lowest VDD_LOGIC that a droop detector sees, in microvolts (R319). -/
  volt : Nat
  /-- Femtojoules that the boundaries so far have not yet added as whole nJ, of partition p and thread t (16: none) at 17p + t
  (R323). -/
  eRem : Vector Nat 85
  /-- dem and lk of R317, in watts. -/
  dem : Rat
  leak : Rat
  dens : BitVec 4
  reqLevel : Fin 4
  heldLevel : Fin 4
  holdLeft : Nat
  switching : Bool
  /-- Mark-time cycles for which the clock still stands (R314). -/
  switchLeft : Nat
  coolStopped : Bool
  bubbles : BitVec 32
  lvl1 : BitVec 21
  lvl2 : BitVec 21
  lvl3 : BitVec 21
  th1 : BitVec 8
  th2 : BitVec 8
  th3 : BitVec 8
  hold : BitVec 16
  opChg : BitVec 32
  epart : Vector (BitVec 64) 6
  eUn : BitVec 64
  eThr : Vector (BitVec 64) 16
  /-- Leakage energy since power-on, in nJ, of which EPART[5] shows the whole part (R323). -/
  eLeak : Rat
  /-- Cluster cycles of the present interval, and those of them that were no bubbles (R317). -/
  iCyc : Nat
  iNonBubble : Nat
  /-- Mark-time cycles since the last interval boundary (R317). -/
  iMt : Nat
  /-- Bubbles of the step, and what its stretched cycles cost in eighths of a mark-time cycle (R336). -/
  sBubbles : BitVec 32
  sStretch : Nat
deriving DecidableEq, Repr

structure Therm where
  logicLim : BitVec 12
  tierLim : BitVec 12
  logicMax : BitVec 12
  tierMax : BitVec 12
  temp : Vector (BitVec 12) 16
  valid : BitVec 16
  hot : BitVec 16
  /-- The limits before a write of THERM_LIM in this cycle, by which its conversions are judged. -/
  oldLim : Option (BitVec 12 × BitVec 12)
deriving DecidableEq, Repr

structure Evt where
  attnEn : Bool
  valid : Bool
  code : BitVec 8
  page : BitVec 6
  srcSeq : BitVec 32
  count : BitVec 8
  tIndex : BitVec 32
  tMtime : BitVec 32
  sIndex : BitVec 32
  sLastUsed : BitVec 22
  sPhase : BitVec 3
  sStop : Bool
  sTask : BitVec 3
  sCycle : BitVec 32
  sMtime : BitVec 32
  sDem : BitVec 12
  sLeak : BitVec 12
  sOp : BitVec 3
  sCap : BitVec 10
  sBubbles : BitVec 32
  sStretch : BitVec 32
  sThr : BitVec 64
  /-- Cycle in which the record was written (the model's own; R328 compares cycles). -/
  at_ : Nat
deriving DecidableEq, Repr

/-- Status of a management response (R358). -/
inductive MgStat where
  | ok | unreachable | uncorr | off
deriving DecidableEq, Repr

structure Mgmt where
  pending : Bool
  reqSync : BitVec 13
  reqSyncEn : Bool
  reqCmd : BitVec 8
  reqExpect : BitVec 8
  reqSeq : BitVec 16
  args : Vector (BitVec 64) 4
  rspStatus : BitVec 8
  rspSeq : BitVec 16
  data : Vector (BitVec 64) 4
  cntMem : BitVec 32
  cntErr : BitVec 32
  /-- The response the port drove last: MG_RSTAT and MG_RDATA (R354). -/
  rstat : MgStat
  rdata : BitVec 64
deriving DecidableEq, Repr

structure Test where
  tapIr : BitVec 5
  wrapper : BitVec 3
  wrActive : Bool
  /-- The status bit captured in the TAP's instruction register, and the one of the wrapper's (R367). -/
  irOk : Bool
  wirOk : Bool
  mbistFail : BitVec 5
  mbistSpares : BitVec 32
  iKind : BitVec 3
  iOp : Bool
  iErr : BitVec 3
  iUnit : BitVec 8
  iIndex : BitVec 32
  idata : BitVec 64
  /-- The data register the TAP has captured (R366). -/
  tapDr : BitVec 4096
  /-- A march started by MBIST_RUN runs (R367). -/
  mbistBusy : Bool
  mbistResult : BitVec 512
deriving DecidableEq, Repr

/-! ## Jobs: what a started command or access still has to do -/

/-- An operation on a sync object that waits for its cycle (R278), or what it still has to answer. -/
inductive SyncOp where
  /-- SYNC.ADD of thread `t` into register `rd`. -/
  | add (t : Fin 16) (rd : Fin 32) (k : BitVec 32)
  /-- SYNC.SET. -/
  | set (v : BitVec 32)
  /-- A write of SYNC_VAL (R297). -/
  | val (v expect : BitVec 32)
  /-- The 8-byte write or the atomic of an inbound request (R276), with its window. -/
  | inSet (src : Identity) (tag : Nat) (v : BitVec 32) (adv : Option Advance) (win : Fin 64)
  | inAtom (src : Identity) (tag : Nat) (op : AtomOp) (b c : BitVec 64) (win : Fin 64)
  /-- The count that SYNC.ADD found, usable from its next cycle. -/
  | result (t : Fin 16) (rd : Fin 32) (v : BitVec 32)
deriving DecidableEq, Repr

/-- What a group of line accesses is for. -/
inductive JobKind where
  /-- Usher accesses carry the pc of their instruction, for a fault raised at it (R206, R209). -/
  | load (t : Fin 16) (rd : Fin 32) (addr width : Nat) (signed : Bool) (pc : BitVec 18)
  | store (t : Fin 16) (pc : BitVec 18)
  | enqh (t : Fin 16) (q : Fin 8) (addr n : Nat) (pc : BitVec 18)
  | atomMem (t : Fin 16) (a : AtomReq) (pc : BitVec 18)
  /-- The write of a queue entry: by a local thread, or (none) for an inbound or posted put. -/
  | quePut (q : BitVec 13) (idx : Nat) (by_ : Option (Fin 16 × BitVec 18))
  | queGet (t : Fin 16) (rd : Fin 32) (addr : Nat) (pc : BitVec 18)
  | tld (e : QEntry) | tst (e : QEntry)
  | vload (e : QEntry) | vstore (e : QEntry)
  | flight (e : QEntry) (writing : Bool)
  | tread (e : QEntry)
  | tile (n c : Fin 4) (desc : BitVec 512) (descAddr : Nat)
  /-- The read of a descriptor block (R224). -/
  | block (n c : Fin 4) (base : Nat)
  | spill (l : Fin 64) | refill (l : Fin 64)
  | inRead (port : LinkPort) (src : Identity) (tag addr len : Nat) (win : Fin 64)
  | inWrite (src : Identity) (tag : Nat) (adv : Option Advance) (win : Fin 64)
  | inAtom (src : Identity) (tag : Nat) (a : AtomReq) (win : Fin 64)
  | galTile (g : Fin 4) (win : Fin 64)
  /-- A management access that a replay delays (R204, R205), with the bytes of a write. -/
  | mgmt (addr : Nat) (wr : Option (BitVec 64))
  /-- An operation on sync object `n` that waits for its cycle (R278). -/
  | syncOp (n : Nat) (op : SyncOp)
deriving DecidableEq, Repr

/-- A job: bytes its reads have delivered, accesses it still waits for, the range entries it holds, and whether it is
voided (R238). -/
structure Job where
  id : Nat
  kind : JobKind
  buf : List Host.Cell
  left : Nat
  /-- 1 + the highest row with a granted access (tile and stream jobs, whose request tags are twice the row, plus 1 for
  scales or indices). -/
  top : Nat
  /-- The next row of an indexed tile to issue, and the row whose index was out of range (R231); for a Flight, the lowest
  position whose read failed (R194). -/
  next : Nat
  bad : Option Nat
  entries : List Nat
  seq : Nat
  thread : Option (Fin 16)
  sig : Option (BitVec 13)
  voided : Bool
  /-- Flits a stream job has handed to its Gallery. -/
  sent : Nat
  /-- Cycle before which none of its accesses is granted. -/
  due : Nat
deriving DecidableEq, Repr

/-- A step that stops the machine: none does, since the manual gives every command an effect, and a packet that names or
brings no byte changes nothing (assumption 16). -/
inductive Fault where
deriving DecidableEq, Repr

/-- A command with no meaning. -/
inductive Refusal where
  /-- A row the model has not given its meaning; raised by no arm of the finished dispatch. Safe. -/
  | notModelled (mnemonic : String)
deriving DecidableEq, Repr

/-- The whole state. -/
structure State where
  /-- Commands waiting, first in, first out. -/
  pending : List Instr
  build : Build
  /-- Cluster cycles since power-on (the model's own clock). -/
  now : Nat
  /-- Fresh identifiers of entries, requests and jobs (the model's own). -/
  nextId : Nat
  /-- Counter of values the manual leaves open (the model's own; `Config.free…`). -/
  freeIx : Nat
  hdr : Vector PageHdr 30
  /-- Hall, Lower Hall and instruction memory by cluster-local address (R197); unlisted bytes are 0. -/
  mem : List Host.Cell
  range : List RangeEntry
  reqs : List LineReq
  access : List Access
  jobs : List Job
  /-- Banks and channels that have granted in this cycle: Hall bank b as b, channel c as 96 + c (R201). -/
  granted : List Nat
  /-- Event flags set in this cycle, page and bit, and sticky flags of OPAn_STAT and VEC_STAT as 32 + their bit (R9). -/
  setNow : List (Page × Nat)
  /-- Pages that have performed an access in this cycle (R369). -/
  paged : List Page
  /-- What the read-to-clear counters held when this cycle began, in the order of `rcCounters` (R371). -/
  rcOld : List Nat
  clu : Clu
  ush : Usher
  step : Step
  lat : Lat
  opa : Vector Opa 2
  tile : Tile
  vec : Vec
  flt : Flt
  hall : Hall
  lhall : Hall
  land : Land
  strm : Vector Strm 4
  gal : Vector Gal 4
  fab : Fab
  win : Win
  sync : Sync
  pwr : Pwr
  /-- Femtojoules spent in the present interval, of partition p and thread t (16: none) at 17p + t (R317, R323). -/
  energy : Vector Nat 85
  therm : Therm
  evt : Evt
  mgmt : Mgmt
  test : Test
  fuse : Fuse
deriving DecidableEq, Repr


/-! ## Reset: the values of power-on reset (R339), page by page in the order of R372

A field whose Reset column says "fuse" holds 0 until the shadow is loaded (assumption 1); a register file, bank or
memory byte to which the manual gives no power-on value holds zero (assumption 2). -/

/-- A store that lists nothing and reads `0` everywhere. -/
def SMap.zero (w : Nat) : SMap w := ⟨0, []⟩

def PageHdr.reset : PageHdr := ⟨0, 0, 0, 0, 0, 0⟩

/-- A thread of R76 step 1: FREE, its registers zero. -/
def Thread.reset : Thread := ⟨0, Vector.replicate 32 0, .free, 0, 0, [], 0, false⟩

def Usher.reset : Usher where
  run := false
  fwTop := 0
  taskId := 0
  task := .none
  threads := Vector.replicate 16 Thread.reset
  queues := Vector.replicate 8 ⟨[], none⟩
  pushSeq := 0
  rangeHigh := 0
  pushWaits := 0
  slot0 := none
  slotsUsed := 0
  inHandler := false
  restartPending := false
  pushed := []
  stopped := []

def Clu.reset : Clu where
  wdogEn := false
  wdogPeriod := 0x40
  wdogExpired := 0
  wdogLeft := 65536
  inspect := false
  live := false
  phase := .reset
  cause := 0
  resets := 0
  hashBusy := false
  hashDone := false
  hashLocked := false
  hashAt := 0
  digest := Vector.replicate 6 0
  fwVersion := 0
  ifMajor := 0
  fwidValid := false

def Step.reset : Step where
  mode := false
  enable := false
  mask := 0
  lead := 0x40
  len := 0x10000
  slack := 0x7AE
  guard := 0x2000
  shadow := []
  index := 0
  phase := .idle
  lastStretched := false
  modeLive := false
  cycle := 0
  mtime := 0
  mtFrac := 0
  lastUsed := 0
  maxUsed := 0
  rdy := false
  rdyAt := none
  nonBubble := 0
  freeNonBubble := 0
  freeCycles := 0
  ended := 0
  overrun := false
  freeMt := 0

def Lat.reset : Lat := ⟨0, 0, 0⟩

def Fuse.reset : Fuse := ⟨false, false, false, false, 0, 0, 0, 0, 0⟩

def Bank.reset : Bank := ⟨SMap.zero 32, false, false, [], 0⟩

def Opa.reset : Opa where
  zgEn := true
  sat := false
  nan := false
  inf := false
  beats := 0
  zgated := 0
  waitTile := 0
  waitBank := 0
  shape := 0
  bank := false
  beatIdx := 0
  held := false
  cur := 0
  curSeq := 0
  curThread := 0
  left := 0
  nextBeat := 0
  pipe := []
  feed := 0
  asked := false
  carry := []
  freeAt := 0
  banks := Vector.replicate 2 Bank.reset

def Tile.reset : Tile where
  pause := false
  startRow := 0
  startTreg := 0
  startKind := 0
  startCause := 0
  startSeq := 0
  loaded := 0
  stored := 0
  waitUse := 0
  waitFeed := 0
  regs := Vector.replicate 16 ⟨none, SMap.zero 8, 0, 0⟩
  words := SMap.zero 8
  landbuf := []
  cfg := none
  held := none
  landed := []
  read := []

/-- VLEN of a build (R3, R148): lanes per register are 32 × VLEN. -/
def Build.vlen (b : Build) : Nat := 512 * 2 ^ b.lanes.val

def Vec.reset (b : Build) : Vec where
  vl := 32 * b.vlen
  lastVl := 32 * b.vlen
  v := SMap.zero 32
  k := SMap.zero 1
  permOob := false
  idxOob := false
  faultLane := 0
  faultCode := 0
  faultInactive := false
  faultSeq := 0
  oobPerm := 0
  oobIdx := 0
  passes := 0
  rdCyc := 0
  waitReg := 0
  waitBank := 0
  held := false
  heldFlt := false
  runs := []
  writes := []
  startedAt := 0

def Flt.reset : Flt := ⟨SMap.zero 128, SMap.zero 128, SMap.zero 1536, 0, 0, 0, 0, 0, 0⟩

def Hall.reset : Hall :=
  ⟨0, none, Vector.replicate 32 .on, 0, 0, 0, 0, false, 0, Vector.replicate 96 0⟩

def Ring.reset : Ring where
  en := false
  kind := false
  nslotM1 := 0
  reads := 1
  slotLog2 := 7
  ahead := 0
  base := 0
  ovfEn := false
  ovfLog2 := 0
  ovfBase := 0
  wseq := 0
  rseq := 0
  slots := []
  region := []
  xfer := none
  due := []

def Land.reset : Land :=
  ⟨Vector.replicate 64 Ring.reset, 0, 0, 0, 0, false, false, 0, 0, 0⟩

def Ctx.reset : Ctx where
  lookahead := 1
  link := false
  fillEn := false
  fill := 0
  free := 0
  st := .idle
  gen := none
  pend := none
  d := 0
  b := 0
  gens := 0
  tiles := []
  cancelSigs := []
  freeAt := 0
  held := []

def Strm.reset : Strm := ⟨Vector.replicate 4 Ctx.reset, 0, 0, 0, 0, 0, 0, 0, 0, 0, 0, 0, 0⟩

/-- The credits, zero after reset: credits are granted by the peer (assumption 4). -/
def noCredits : Vector Nat 3 := Vector.replicate 3 0

def Gal.reset : Gal where
  link := .down
  version := 0
  modulesLive := 0
  recalMod := 0
  passed := 0
  recalEn := true
  recalPeriod := 0x10
  capPeer := 0
  rate := 0
  burst := 0x80
  tokens := 0
  retries := 0
  limited := 0
  switches := 0
  recals := 0
  repaired := 0
  retired := 0
  sent := 0
  received := 0
  relay := Vector.replicate 16 0
  delta := Vector.replicate 16 0
  credits := noCredits
  rx := []
  tiles := []
  refusing := false
  vc2 := []
  tx := []
  first := []
  rxSeq := 0
  owed := noCredits
  rxcr := 0
  periodUsed := false
  half := false
  replay := []
  txSeq := 0
  failRun := 0
  acks := []
  reads := []
  relayAcks := []
  nextModule := 0
  recalAt := 0
  pins := []
  busy := false

def Fab.reset : Fab where
  link := .down
  version := 0
  node := 0
  die := 0
  cluster := 0
  capPeer := 0
  rate := 0
  burst := 0x40
  tokens := 0
  wheel := 0x9D999D99
  xfers := []
  outHigh := 0
  err := Vector.replicate 5 0
  limited := 0
  sent := 0
  received := 0
  credits := noCredits
  remote := []
  slotUsed := false
  tx := []
  rxcr := 0

def Window.reset : Window where
  en := false
  sync := false
  rd := false
  wr := false
  atom := false
  cntEn := false
  ports := 0
  base := 0
  sizeLog2 := 0x0C
  target := 0
  cntLo := 0
  cntHi := 0
  node := 0
  die := 0
  cluster := 0
  nodeMask := 0
  dieMask := 0
  clusterMask := 0

def Sync.reset : Sync := ⟨SMap.zero 32, [], [], 0, 0, 0, 0, []⟩

def Pwr.reset : Pwr where
  op := 2
  cap := 336
  win := 2
  pWin := none
  capIn := 336
  opIn := 2
  volt := 1000000
  eRem := Vector.replicate 85 0
  dem := 0
  leak := 0
  dens := 0
  reqLevel := 0
  heldLevel := 0
  holdLeft := 0
  switching := false
  switchLeft := 0
  coolStopped := false
  bubbles := 0
  lvl1 := 0
  lvl2 := 0
  lvl3 := 0
  th1 := 0x0A
  th2 := 0xF1
  th3 := 0xD8
  hold := 0x40
  opChg := 0
  epart := Vector.replicate 6 0
  eUn := 0
  eThr := Vector.replicate 16 0
  eLeak := 0
  iCyc := 0
  iNonBubble := 0
  iMt := 0
  sBubbles := 0
  sStretch := 0

def Therm.reset : Therm := ⟨0x1A4, 0x17C, 0x800, 0x800, Vector.replicate 16 0, 0, 0, none⟩

def Evt.reset : Evt where
  attnEn := true
  valid := false
  code := 0
  page := 0
  srcSeq := 0
  count := 0
  tIndex := 0
  tMtime := 0
  sIndex := 0
  sLastUsed := 0
  sPhase := 0
  sStop := false
  sTask := 0
  sCycle := 0
  sMtime := 0
  sDem := 0
  sLeak := 0
  sOp := 2
  sCap := 336
  sBubbles := 0
  sStretch := 0
  sThr := 0
  at_ := 0

def Mgmt.reset : Mgmt where
  pending := false
  reqSync := 0
  reqSyncEn := false
  reqCmd := 0
  reqExpect := 0
  reqSeq := 0
  args := Vector.replicate 4 0
  rspStatus := 0
  rspSeq := 0
  data := Vector.replicate 4 0
  cntMem := 0
  cntErr := 0
  rstat := .ok
  rdata := 0

def Test.reset : Test := ⟨1, 0, false, true, true, 0, 0, 0, false, 0, 0, 0, 0, 0, false, 0⟩

/-- The reference build J4-V1024 (R2, R3): one Lower Hall tier, no cross-die Gallery. -/
def Build.reference : Build := ⟨1, false, Vector.replicate 4 false⟩

/-- The state of build `b` in phase RESET (R339, R340). -/
def State.resetOf (b : Build) : State where
  pending := []
  build := b
  now := 0
  nextId := 0
  freeIx := 0
  hdr := Vector.replicate 30 PageHdr.reset
  mem := []
  range := []
  reqs := []
  access := []
  jobs := []
  granted := []
  setNow := []
  paged := []
  rcOld := []
  clu := Clu.reset
  ush := Usher.reset
  step := Step.reset
  lat := Lat.reset
  opa := Vector.replicate 2 Opa.reset
  tile := Tile.reset
  vec := Vec.reset b
  flt := Flt.reset
  hall := Hall.reset
  lhall := Hall.reset
  land := Land.reset
  strm := Vector.replicate 4 Strm.reset
  gal := Vector.replicate 4 Gal.reset
  fab := Fab.reset
  win := ⟨Vector.replicate 64 Window.reset, 0, []⟩
  sync := Sync.reset
  pwr := Pwr.reset
  energy := Vector.replicate 85 0
  therm := Therm.reset
  evt := Evt.reset
  mgmt := Mgmt.reset
  test := Test.reset
  fuse := Fuse.reset

/-- The machine right after power-on reset. -/
def State.reset : State := State.resetOf Build.reference

end Sys2Proof.Machine
end

