-- ==== Sys2Proof/Machine/Flags.lean ====
section
/-! DEFINITION. Event flags, error logs and the job-fatal record (chapter 15), and the bit-field helpers every file
uses. -/

namespace Sys2Proof.Machine

/-! ## Bit fields -/

/-- The field of `len` bits of `v` that starts at bit `lo`, as a number. -/
def fld {w : Nat} (v : BitVec w) (lo len : Nat) : Nat := (v.toNat >>> lo) % 2 ^ len

/-- Bit `i` of `v`. -/
def bitAt {w : Nat} (v : BitVec w) (i : Nat) : Bool := v.getLsbD i

/-- The 64-bit word with value `n` at bit `lo`. -/
def put (lo n : Nat) : BitVec 64 := BitVec.ofNat 64 (n <<< lo)

def b2n (b : Bool) : Nat := if b then 1 else 0

/-- A counter that stops at its largest value. -/
def satInc {w : Nat} (c : BitVec w) : BitVec w := if c = BitVec.allOnes w then c else c + 1

/-! ## Pages -/

/-- The slot of a page in the directory of R372. -/
def Page.slot : Page → Fin 30
  | .clu => 0 | .ush => 1 | .step => 2 | .lat => 3 | .opa0 => 4 | .opa1 => 5 | .tile => 6 | .vec => 7
  | .flt => 8 | .hall => 9 | .lhall => 10 | .land => 11 | .strm0 => 12 | .strm1 => 13 | .strm2 => 14
  | .strm3 => 15 | .galN => 16 | .galE => 17 | .galS => 18 | .galW => 19 | .fab => 20 | .win => 21
  | .sync => 22 | .que => 23 | .pwr => 24 | .therm => 25 | .evt => 26 | .mgmt => 27 | .test => 28 | .fuse => 29

/-- The pages in directory order. -/
def Page.all : List Page :=
  [.clu, .ush, .step, .lat, .opa0, .opa1, .tile, .vec, .flt, .hall, .lhall, .land, .strm0, .strm1, .strm2, .strm3,
   .galN, .galE, .galS, .galW, .fab, .win, .sync, .que, .pwr, .therm, .evt, .mgmt, .test, .fuse]

/-- The page of a slot; slots 30 to 63 are unassigned (R372). -/
def Page.ofSlot (n : Nat) : Option Page := Page.all[n]?

def Page.opa (a : Fin 2) : Page := if a = 0 then .opa0 else .opa1

def Page.strm : Fin 4 → Page
  | 0 => .strm0 | 1 => .strm1 | 2 => .strm2 | 3 => .strm3

def Page.gal : Fin 4 → Page
  | 0 => .galN | 1 => .galE | 2 => .galS | 3 => .galW

def Page.tier : Tier → Page
  | .hall => .hall | .lower => .lhall

/-- The PAGE_EVT bits each page defines (R375). -/
def Page.evtBits : Page → BitVec 32
  | .clu => 0x7 | .ush => 0x1F | .step => 0x1F | .lat => 0x1 | .opa0 => 0x7 | .opa1 => 0x7 | .tile => 0x3
  | .vec => 0x3 | .flt => 0x7 | .hall => 0xF | .lhall => 0xF | .land => 0x1F
  | .strm0 => 0x3F | .strm1 => 0x3F | .strm2 => 0x3F | .strm3 => 0x3F
  | .galN => 0x7F | .galE => 0x7F | .galS => 0x7F | .galW => 0x7F | .fab => 0x1F | .win => 0x7 | .sync => 0x1
  | .que => 0x1 | .pwr => 0x3 | .therm => 0x7 | .evt => 0x1 | .mgmt => 0x7 | .test => 0 | .fuse => 0

def State.hdrOf (s : State) (p : Page) : PageHdr := s.hdr[p.slot.val]

def State.setHdr (s : State) (p : Page) (h : PageHdr) : State := { s with hdr := s.hdr.set p.slot.val h }

/-! ## Occurrences (R332) -/

/-- Flag `bit` of page `p` was set in this cycle: a write of 1 in the same cycle leaves it set (R9). -/
def State.noteSet (s : State) (p : Page) (bit : Nat) : State := { s with setNow := (p, bit) :: s.setNow }

/-- As `noteSet`, where the condition holds. -/
def State.noteIf (s : State) (c : Bool) (p : Page) (bit : Nat) : State := if c then s.noteSet p bit else s

/-- The bits of `m` that a write of 1 clears in page `p`: `off` is 0 for PAGE_EVT and 32 for the sticky flags (R9). -/
def State.clearable (s : State) (p : Page) (off : Nat) (m : BitVec 32) : BitVec 32 :=
  (List.range 32).foldl (fun acc i => if s.setNow.contains (p, off + i) then acc &&& ~~~(BitVec.ofNat 32 (2 ^ i)) else acc) m

/-- How many occurrences of this cycle in page `p` have a bit above `bit`: they take the later SEQ values (R332). -/
def State.above (s : State) (p : Page) (bit : Nat) : Nat :=
  (s.setNow.filter fun x => x.1 == p && bit < x.2 && x.2 < 32).length

/-- A SEQ value that is one of the last `k` before `seq + 1` makes room for an occurrence below them. -/
def seqShift (k : Nat) (seq x : BitVec 32) : BitVec 32 := if (seq - x).toNat < k then x + 1 else x

/-- The SEQ value of the latest occurrence of `bit` in page `p`, of the present cycle (R332). -/
def State.seqOf (s : State) (p : Page) (bit : Nat) : BitVec 32 := (s.hdrOf p).seq - BitVec.ofNat 32 (s.above p bit)

/-- The job-fatal record of this cycle names the SEQ value that its occurrence has in the end. -/
def State.shiftSrc (s : State) (p : Page) (k : Nat) : State :=
  if k != 0 && s.evt.valid && s.evt.at_ == s.now && s.evt.page.toNat == p.slot.val then
    { s with evt := { s.evt with srcSeq := seqShift k (s.hdrOf p).seq s.evt.srcSeq } }
  else s

/-- One occurrence of event `bit` of page `p`: the flag sets and SEQ counts; the log is not written. Occurrences of one cycle
are numbered in the order of their bits (R332). -/
def countEvt (p : Page) (bit : Nat) (s : State) : State :=
  let k := s.above p bit
  let s := s.shiftSrc p k
  let h := s.hdrOf p
  (s.setHdr p { h with
    evt := h.evt ||| BitVec.ofNat 32 (2 ^ bit), seq := h.seq + 1, logSeq := seqShift k h.seq h.logSeq }).noteSet p bit

/-- One occurrence whose chapter gives a log layout: as `countEvt`, and the log holds `log` with EVT_BIT in its top
four bits, and LOG_SEQ its SEQ, unless it holds an occurrence of this cycle with a higher bit. -/
def logEvt (p : Page) (bit : Nat) (log : BitVec 64) (s : State) : State :=
  let k := s.above p bit
  let h := s.hdrOf p
  let s' := countEvt p bit s
  if (h.seq - h.logSeq).toNat < k then s'
  else s'.setHdr p { s'.hdrOf p with
    logSeq := h.seq + 1 - BitVec.ofNat 32 k, log := (log &&& 0x0FFFFFFFFFFFFFFF) ||| put 60 (bit % 16) }

/-- The default log layout of R332, without EVT_BIT. -/
def defaultLog (code detail seq : Nat) : BitVec 64 :=
  put 0 (code % 256) ||| put 8 (detail % 256) ||| put 16 (seq % 2 ^ 32)

/-! ## The job-fatal record (R328 to R330) -/

/-- Whether a new job-fatal event of page `p` with `code` replaces the record: none is held, or the record is of this very
cycle, is no SLOT_HAZARD, and the event is one or names a page earlier in the directory (R328). -/
def State.fatalWins (s : State) (p : Page) (code : Nat) : Bool :=
  !s.evt.valid || (s.evt.at_ == s.now && s.evt.code != 0x1A && (code == 0x1A || p.slot.val < s.evt.page.toNat))

/-- A job-fatal event with `code` in page `p`, whose occurrence has the page's SEQ value `seq` (R328). Step-ready is
low from this cycle on (R329). -/
def jobFatal (p : Page) (code : Nat) (seq : BitVec 32) (s : State) : State :=
  let e := { s.evt with count := satInc s.evt.count }
  let e := if s.fatalWins p code then
      { e with valid := true, code := BitVec.ofNat 8 code, page := BitVec.ofNat 6 p.slot.val, srcSeq := seq,
               tIndex := s.step.index, tMtime := s.step.mtime, at_ := s.now }
    else e
  let late := s.step.mtime.toNat + s.step.lead.toNat > s.step.len.toNat
  { s with
    evt := e,
    step := { s.step with
      rdy := false,
      phase := if s.step.phase = .ready then (if late then .late else .run) else s.step.phase } }

/-- Some unmasked event flag of page `p` is set (R334). -/
def State.pendBit (s : State) (p : Page) : Bool :=
  (s.hdrOf p).evt &&& ~~~(s.hdrOf p).mask != 0

/-- EVT_PEND (R338). -/
def State.evtPend (s : State) : BitVec 64 :=
  Page.all.foldl (fun acc p => if s.pendBit p then acc ||| put p.slot.val 1 else acc) 0

/-- The FATAL indication (R330): EVT_FATAL.VALID. -/
def State.fatalPin (s : State) : Bool := s.evt.valid

/-- The ATTN indication (R330). -/
def State.attnPin (s : State) : Bool := s.evt.attnEn && s.evtPend != 0

end Sys2Proof.Machine
end

