-- ==== Sys2Proof/Machine/Ops.lean ====
section
/-! DEFINITION. The named operations over the state: sparse stores and memory, the address map and its banks (chapter
09), the in-flight range table (R61 to R64), slot tags as releases move them (R211), line requests and jobs, sync
objects (R276 to R278), threads. -/

namespace Sys2Proof.Machine

/-! ## Sparse stores -/

/-- What key `a` reads as in a list of cells with default `d`. -/
def cellsGet {β : Type} (d : β) : List (Nat × β) → Nat → β
  | [], _ => d
  | (k, v) :: r, a => if k = a then v else if a < k then d else cellsGet d r a

/-- The list with `a` holding `x`, in canonical form: a key that holds the default is not listed. -/
def cellsSet {β : Type} [DecidableEq β] (d : β) (a : Nat) (x : β) : List (Nat × β) → List (Nat × β)
  | [] => if x = d then [] else [(a, x)]
  | (k, v) :: r =>
    if k < a then (k, v) :: cellsSet d a x r
    else if k = a then (if x = d then r else (a, x) :: r)
    else (if x = d then (k, v) :: r else (a, x) :: (k, v) :: r)

/-- The list with keys `lo` to `lo + n - 1` holding `f 0` to `f (n - 1)`. -/
def cellsFill {β : Type} [DecidableEq β] (d : β) (lo n : Nat) (f : Nat → β) (l : List (Nat × β)) :
    List (Nat × β) :=
  l.filter (fun c => c.1 < lo) ++
    (List.range n).filterMap (fun i => if f i = d then none else some (lo + i, f i)) ++
    l.filter (fun c => lo + n ≤ c.1)

/-- Keys strictly rising above `b`, and no cell equal to the default. -/
def cellsWfFrom {β : Type} [DecidableEq β] (d : β) : Option Nat → List (Nat × β) → Bool
  | _, [] => true
  | b, (k, v) :: r => (match b with | none => true | some m => m < k) && v != d && cellsWfFrom d (some k) r

/-- The canonical form of a list of cells. -/
def cellsWf {β : Type} [DecidableEq β] (d : β) (l : List (Nat × β)) : Bool := cellsWfFrom d none l

def SMap.get {w : Nat} (m : SMap w) (a : Nat) : BitVec w := cellsGet m.dflt m.cells a
def SMap.set {w : Nat} (m : SMap w) (a : Nat) (x : BitVec w) : SMap w :=
  { m with cells := cellsSet m.dflt a x m.cells }
def SMap.fill {w : Nat} (m : SMap w) (lo n : Nat) (f : Nat → BitVec w) : SMap w :=
  { m with cells := cellsFill m.dflt lo n f m.cells }
def SMap.wf {w : Nat} (m : SMap w) : Bool := cellsWf m.dflt m.cells

/-- The canonical form of the byte memory. -/
abbrev Memory.wf (m : List Host.Cell) : Prop := cellsWf (0 : BitVec 8) m = true

/-! ## Memory -/

/-- The byte of Hall, Lower Hall or instruction memory at cluster-local address `a`. -/
def memByte (s : State) (a : Nat) : BitVec 8 := cellsGet 0 s.mem a

def memRead (s : State) (a n : Nat) : List (BitVec 8) := (List.range n).map fun i => memByte s (a + i)

/-- Stores a list of cells into memory. -/
def memStore (cs : List Host.Cell) (m : List Host.Cell) : List Host.Cell :=
  cs.foldl (fun m c => cellsSet (0 : BitVec 8) c.1 c.2 m) m

/-- The cells that hold `bytes` from address `a` on. -/
def cellsAt (a : Nat) (bytes : List (BitVec 8)) : List Host.Cell := bytes.mapIdx fun i b => (a + i, b)

def memWrite (a : Nat) (bytes : List (BitVec 8)) (s : State) : State :=
  { s with mem := memStore (cellsAt a bytes) s.mem }

/-- The number that `bytes` hold in little-endian order (R5). -/
def leNat : List (BitVec 8) → Nat
  | [] => 0
  | b :: r => b.toNat + 256 * leNat r

/-- The `n` low bytes of `v`, in little-endian order (R5). -/
def leBytes (v n : Nat) : List (BitVec 8) := (List.range n).map fun i => BitVec.ofNat 8 (v / 256 ^ i)

def memNat (s : State) (a n : Nat) : Nat := leNat (memRead s a n)

/-! ## The address map (R197 to R200) -/

def inHall (a n : Nat) : Bool := a + n ≤ Config.hallSize

/-- `n` bytes from `a` lie in one Lower Hall tier. -/
def inLower (b : Build) (a n : Nat) : Bool :=
  let t0 := Config.lhallBase
  let t1 := Config.lhallBase + Config.tierSize
  (t0 ≤ a && a + n ≤ t1) || (b.tiers2 && t1 ≤ a && a + n ≤ t1 + Config.tierSize)

/-- `n` bytes from `a` lie wholly in Hall or wholly in one Lower Hall tier. -/
def inSram (b : Build) (a n : Nat) : Bool := inHall a n || inLower b a n

def inImem (a n : Nat) : Bool := Config.imemBase ≤ a && a + n ≤ Config.imemBase + Config.imemSize

def inPages (a n : Nat) : Bool := Config.pageBase ≤ a && a + n ≤ Config.pageBase + Config.pageSpace

/-- The bits of `x` below `n`, reversed. -/
def revBits : Nat → Nat → Nat
  | 0, _ => 0
  | n + 1, x => (x % 2) * 2 ^ n + revBits n (x / 2)

/-- The Hall bank of an address (R199). -/
def hallBank (a : Nat) : Nat :=
  let w := a / 2 ^ 23 % 4
  let n := a / 2 ^ 7 % 2 ^ 16
  32 * w + ((n % 32) ^^^ revBits 5 (n / 32 % 32) ^^^ (n / 1024 % 32) ^^^ (n / 2 ^ 15 % 2 * 16))

def hallRow (a : Nat) : Nat := a / 2 ^ 12 % 2 ^ 11

/-- The Lower Hall segment and bond channel of an address (R200). -/
def lhallLine (a : Nat) : Nat := (a - Config.lhallBase) / 128
def lhallSegment (a : Nat) : Nat := lhallLine a / 2 ^ 16 % 32
def lhallChannel (a : Nat) : Nat := (lhallLine a % 16) ^^^ revBits 4 (lhallLine a / 16 % 16)
def lhallRow (a : Nat) : Nat := lhallLine a / 16 % 2 ^ 12

/-- The bank or channel of an address. -/
def bankIdx (a : Nat) : Nat := if a < Config.hallSize then hallBank a else 96 + lhallChannel a

def LineBank.idx : LineBank → Nat
  | .hall b => b.val
  | .channel c => 96 + c.val

/-- The power state of the group or segment of an address (R199, R200, R208). -/
def State.powerAt (s : State) (a : Nat) : PState :=
  if a < Config.hallSize then (s.hall.live[hallBank a / 8]?).getD .on
  else (s.lhall.live[lhallSegment a]?).getD .off

/-- Cycles from grant to usable data, or to a write's completion (R37, R202). -/
def accessLat (b : Build) (a : Nat) : Nat :=
  if a < Config.hallSize then Config.hallLtu else Config.lhallLat b.tiers2

def tierPage (a : Nat) : Page := if a < Config.hallSize then .hall else .lhall

/-- The address of the line that holds `a`. -/
def lineOf (a : Nat) : Nat := a / 128 * 128

/-- The pieces of `n` bytes from `a` that lie in one line each, lowest first. -/
def lineChunksAux : Nat → Nat → Nat → List (Nat × Nat)
  | 0, _, _ => []
  | fuel + 1, a, n =>
    if n = 0 then [] else
      let m := min n (128 - a % 128)
      (a, m) :: lineChunksAux fuel (a + m) (n - m)
def lineChunks (a n : Nat) : List (Nat × Nat) := lineChunksAux (n / 128 + 2) a n

/-! ## Fresh numbers -/

def State.fresh (s : State) : Nat × State := (s.nextId, { s with nextId := s.nextId + 1 })

/-! ## Slot tags: what a release does (R211) -/

def Ring.nslot (r : Ring) : Nat := r.nslotM1.toNat + 1
def Ring.slotBytes (r : Ring) : Nat := 2 ^ r.slotLog2.toNat
def Ring.lo (r : Ring) : Nat := r.base.toNat
def Ring.hi (r : Ring) : Nat := r.lo + r.nslot * r.slotBytes

def emptySlot : Slot := ⟨.empty, 0, 0, 0, false⟩

def setSlot (l : Fin 64) (k : Nat) (f : Slot → Slot) (s : State) : State :=
  let r := s.land.rings[l]
  { s with land := { s.land with rings := s.land.rings.set l { r with slots := r.slots.modify k f } } }

/-- The slot after a write of its fill was released; a write whose command ended by fault leaves it EMPTY. -/
def Slot.afterWrite (ok : Bool) (x : Slot) : Slot :=
  if x.tag = .writing then
    if ok then { x with tag := .full, taken := 0, done := 0, refilled := false } else emptySlot
  else x

/-- The slot after a read of its fill was released; only a completed read counts toward READS. -/
def Slot.afterRead (reads : Nat) (ok : Bool) (x : Slot) : Slot :=
  if x.tag = .full then
    if ok then (if x.done + 1 ≥ reads then emptySlot else { x with done := x.done + 1 })
    else { x with taken := x.taken - 1 }
  else x

def tagRelease (l : Fin 64) (k : Nat) (wr ok : Bool) (s : State) : State :=
  let reads := s.land.rings[l].reads.toNat
  setSlot l k (fun x => if wr then x.afterWrite ok else x.afterRead reads ok) s

/-! ## The in-flight range table (R15, R61 to R64) -/

/-- USH_RANGE.IN_USE: an entry released in this cycle still counts (R64). -/
def State.inUse (s : State) : Nat := s.range.length

/-- All entries in use. -/
def State.rangeFull (s : State) : Bool := s.inUse ≥ Config.rangeEntries

/-- Takes an entry for bytes `lo` to `hi`; answers its number. -/
def takeEntry (lo hi : Nat) (wr : Bool) (unit : MemUnit) (slot : Option (Fin 64 × Nat)) (s : State) : Nat × State :=
  let id := s.nextId
  let r := s.range ++ [⟨id, lo, hi, wr, unit, slot, true⟩]
  (id, { s with
    nextId := id + 1, range := r,
    ush := { s.ush with rangeHigh := BitVec.ofNat 7 (max s.ush.rangeHigh.toNat r.length) } })

/-- Releases entry `id` (R64), with its effect on a slot tag (R211). `ok` is false when its command ended by fault,
was stopped, cancelled or discarded. -/
def release (id : Nat) (ok : Bool) (s : State) : State :=
  match s.range.find? (fun e => e.id == id && e.live) with
  | none => s
  | some e =>
    let s := { s with range := s.range.map fun x => if x.id = id then { x with live := false } else x }
    match e.slot with
    | none => s
    | some (l, k) => tagRelease l k e.wr ok s

def releaseAll (ids : List Nat) (ok : Bool) (s : State) : State := ids.foldl (fun s i => release i ok s) s

def RangeEntry.conflicts (a b : RangeEntry) : Bool := a.lo ≤ b.hi && b.lo ≤ a.hi && (a.wr || b.wr)

/-- Entry `id` has an older conflicting entry; one released in this cycle still blocks (R64). -/
def State.blocked (s : State) (id : Nat) : Bool :=
  match s.range.find? (fun e => e.id == id) with
  | none => false
  | some e => s.range.any fun o => o.id < id && o.conflicts e

/-! ## Line requests and jobs (R201) -/

def rankOf : MemUnit → Nat
  | .mgmt => 20 | .vec => 31 | .tile => 40 | .strm n => 50 + n.val | .gallery => 60 | .landing => 70
  | .usher => 80 | .inbound => 90 | .scrub => 100

/-- Adds a job; answers its number. -/
def addJob (kind : JobKind) (entries : List Nat) (seq : Nat) (thread : Option (Fin 16)) (sig : Option (BitVec 13))
    (s : State) : Nat × State :=
  let id := s.nextId
  (id, { s with nextId := id + 1, jobs := s.jobs ++ [⟨id, kind, [], 0, 0, 0, none, entries, seq, thread, sig, false, 0, 0⟩] })

def State.job? (s : State) (id : Nat) : Option Job := s.jobs.find? (·.id == id)

def modJob (id : Nat) (f : Job → Job) (s : State) : State :=
  { s with jobs := s.jobs.map fun j => if j.id = id then f j else j }

def dropJob (id : Nat) (s : State) : State := { s with jobs := s.jobs.filter fun j => j.id != id }

/-- Requests one line access of job `job`. -/
def addReq (job tag rank : Nat) (unit : MemUnit) (entry : Option Nat) (addr len : Nat)
    (wr : Option (List Host.Cell)) (s : State) : State :=
  let s := { s with nextId := s.nextId + 1, reqs := s.reqs ++ [⟨s.nextId, job, tag, rank, unit, entry, addr, len, wr⟩] }
  modJob job (fun j => { j with left := j.left + 1 }) s

/-- Requests the lines of a read of `n` bytes from `a`. -/
def addRead (job tag : Nat) (unit : MemUnit) (entry : Option Nat) (a n : Nat) (s : State) : State :=
  (lineChunks a n).foldl (fun s c => addReq job tag (rankOf unit) unit entry c.1 c.2 none s) s

/-- Requests the lines of a write of `bytes` from `a`. -/
def addWrite (job tag : Nat) (unit : MemUnit) (entry : Option Nat) (a : Nat) (bytes : List (BitVec 8)) (s : State) :
    State :=
  (lineChunks a bytes.length).foldl
    (fun s c => addReq job tag (rankOf unit) unit entry c.1 c.2
      (some (cellsAt c.1 ((bytes.drop (c.1 - a)).take c.2))) s) s

/-- Drops the requests of job `id` that `keep` does not hold and that no bank has granted. -/
def dropReqs (id : Nat) (keep : LineReq → Bool) (s : State) : State :=
  let gone := s.reqs.filter fun r => r.job == id && !keep r
  modJob id (fun j => { j with left := j.left - gone.length })
    { s with reqs := s.reqs.filter fun r => !(r.job == id && !keep r) }

/-! ## Threads and Usher -/

def State.thread (s : State) (t : Fin 16) : Thread := s.ush.threads[t]

def modThread (t : Fin 16) (f : Thread → Thread) (s : State) : State :=
  { s with ush := { s.ush with threads := s.ush.threads.set t (f s.ush.threads[t]) } }

/-- Scalar register `r`; S0 reads as zero (R52). -/
def Thread.reg (th : Thread) (r : Fin 32) : BitVec 64 := if r = 0 then 0 else th.regs[r]

/-- Writes scalar register `r`; a write of S0 is ignored (R52). -/
def Thread.setReg (th : Thread) (r : Fin 32) (v : BitVec 64) : Thread :=
  if r = 0 then th else { th with regs := th.regs.set r v }

/-- The instruction in progress ends: the thread goes on, or halts where a stop was asked for (R78). -/
def Thread.resume (th : Thread) : Thread :=
  { th with st := if th.stop then .halted else .ready, stop := false }

def allThreads : List (Fin 16) := List.finRange 16

/-- The firmware thread (R52). -/
def fwThread : Fin 16 := 15

/-- Codes of USH_THR_STAT.STATE (R52). -/
def TState.code : TState → Nat
  | .free => 0 | .ready => 1 | .waitStep _ => 2 | .waitMark => 3 | .waitSync _ => 4 | .waitQueue _ => 5
  | .waitRange _ => 6 | .waitData _ => 7 | .halted => 8 | .faulted => 9

def TaskState.code : TaskState → Nat
  | .none => 0 | .loaded => 1 | .running => 2 | .ended => 3 | .aborted => 4

def taskStateOf : Nat → Option TaskState
  | 0 => some .none | 1 => some .loaded | 2 => some .running | 3 => some .ended | 4 => some .aborted | _ => none

def Phase.code : Phase → Nat
  | .reset => 0 | .fuse => 1 | .clock => 2 | .selftest => 3 | .ready => 4 | .pass => 5 | .failed => 6

def StepPhase.code : StepPhase → Nat
  | .idle => 0 | .run => 1 | .ready => 2 | .late => 3 | .stopped => 4

def Link.code : Link → Nat
  | .down => 0 | .training => 1 | .up => 2 | .absent => 3 | .failed => 4

def Tag.code : Tag → Nat
  | .empty => 0 | .writing => 1 | .full => 2 | .spilling => 3 | .refilling => 4

def PState.code : PState → Nat
  | .on => 0 | .retain => 1 | .off => 2 | .waking _ => 3

def CState.code : CState → Nat
  | .idle => 0 | .active => 1 | .cancelling => 2 | .held => 3

/-- No step is open and STEP registers take effect at once (R20). -/
def State.stepClosed (s : State) : Bool := s.step.phase = .idle || s.step.phase = .stopped

/-- A step is open (R53): from the first c0 after ENABLE is set until IDLE or STOPPED. -/
def State.stepOpen (s : State) : Bool := !s.stepClosed

/-- n of R53, and with it the rotation pointer p = 2 × (n mod 8). -/
def State.rotCount (s : State) : Nat := if s.stepOpen then s.step.nonBubble else s.step.freeNonBubble
def State.rotation (s : State) : List (Fin 16) :=
  let p := 2 * (s.rotCount % 8)
  allThreads.map fun i => Fin.ofNat 16 (p + i.val)

/-- READY, and nothing holds its next issue back (R24, R277). -/
def State.canIssue (s : State) (t : Fin 16) : Bool :=
  (s.thread t).st = .ready && (s.thread t).notBefore ≤ s.now

/-- The READY threads in the order of the rotation pointer (R53). -/
def State.issueOrder (s : State) : List (Fin 16) := s.rotation.filter s.canIssue

/-- The present cycle is a Balustrade bubble (R318): rev4(n mod 16) < dens, n the step's or the free-running count of
cycles. -/
def State.isBubble (s : State) : Bool :=
  let n := if s.stepOpen then s.step.cycle.toNat else s.step.freeCycles
  revBits 4 (n % 16) < s.pwr.dens.toNat

/-! ## Energy (R311, R317, R323) -/

/-- The partition an act counts to (R311). -/
def actPart : Config.Act → Nat
  | .beat .. => 0
  | .grant _ lower => if lower then 4 else 1
  | .pass .. => 2
  | .value _ => 2
  | .clock => Config.freeClockPart.val
  | _ => 3

/-- `n` acts of one kind that thread `t` issued, or none did. -/
def State.spend (x : Config.Act) (t : Option (Fin 16)) (n : Nat) (s : State) : State :=
  let k := 17 * actPart x + (match t with | some t => t.val | none => 16)
  { s with energy := s.energy.setIfInBounds k ((s.energy[k]?).getD 0 + n * Config.freeWeight s.fuse.raw x) }

/-- The clocks run: no coolant-loss stop and no switch of the point (R12, R314, R324). -/
def State.clocked (s : State) : Bool := !s.pwr.coolStopped && !s.pwr.switching

/-- No coolant-loss stop has gated the clocks: what arrives has its effect (R12, R324). -/
def State.alive (s : State) : Bool := !s.pwr.coolStopped

/-- All issue is stopped by a stop mark (R29), until a new load writes ENABLE (R30, assumption 9). -/
def State.stopHeld (s : State) : Bool := s.step.phase = .stopped

/-- Engines and Usher may issue: clocks run, phase READY, no bubble, and no stop mark holds the cluster (R29). -/
def State.mayIssue (s : State) : Bool := s.clocked && s.clu.phase = .ready && !s.isBubble && !s.stopHeld

/-! ## Sync objects (R275 to R278) -/

def syncGet (s : State) (n : Nat) : BitVec 32 := s.sync.counts.get n

/-- The comparison of SYNC.WAIT (R277). -/
def syncSatisfied (count target : BitVec 32) : Bool := (count - target).toNat < 2 ^ 31

/-- The thread after object `n` took the value `v` in cycle `now`: a wait it satisfies wakes SYNC.LOCAL cycles later. A wait
is judged on what the cycle leaves, so a later change of the same cycle judges it again (R277, R278). -/
def Thread.noteSync (now n : Nat) (v : BitVec 32) (th : Thread) : Thread :=
  let wake := now + Config.syncLocal
  match th.st with
  | .waitSync (.obj m tgt w) =>
    if m.toNat = n ∧ (w = none ∨ w = some wake) then
      { th with st := .waitSync (.obj m tgt (if syncSatisfied v tgt then some wake else none)) }
    else th
  | _ => th

/-- Every change of a sync object (R276): sets object `n` to `v` and re-evaluates its waiters. -/
def syncPut (n : Nat) (v : BitVec 32) (s : State) : State :=
  { s with
    sync := { s.sync with counts := s.sync.counts.set n v },
    ush := { s.ush with threads := s.ush.threads.map (Thread.noteSync s.now n v) } }

/-- An advance by `k` (R276, R237), added after the cycle's other operation on the object (R278). -/
def syncAdvance (n k : Nat) (s : State) : State :=
  let s := syncPut n (syncGet s n + BitVec.ofNat 32 k) s
  { s with sync := { s.sync with adds := (n, BitVec.ofNat 32 k) :: s.sync.adds } }

/-- A signal: count + 1 (R276). -/
def signal (n : Nat) (s : State) : State := syncAdvance n 1 s

/-- What this cycle's signals and advances have added to object `n`. -/
def syncAdded (s : State) (n : Nat) : BitVec 32 := ((s.sync.adds.filter fun a => a.1 == n).map (·.2)).sum

/-- The count of object `n` before this cycle's signals and advances: what an operation compares and returns (R278). -/
def syncBase (s : State) (n : Nat) : BitVec 32 := syncGet s n - syncAdded s n

/-- An operation other than a signal or advance leaves `v`, and this cycle's signals and advances are added to it. The
object takes no other such operation in this cycle (R278). -/
def syncOther (n : Nat) (v : BitVec 32) (s : State) : State :=
  let s := syncPut n (v + syncAdded s n) s
  { s with sync := { s.sync with taken := n :: s.sync.taken } }

/-- Object `n` has taken its other operation of this cycle: the next one waits (R278). -/
def State.syncTaken (s : State) (n : Nat) : Bool := s.sync.taken.contains n

/-- The completion signal of a command (R60). -/
def signalOpt (sig : Option (BitVec 13)) (s : State) : State :=
  match sig with | none => s | some n => signal n.toNat s

/-! ## Small accessors -/

def modOpa (a : Fin 2) (f : Opa → Opa) (s : State) : State := { s with opa := s.opa.set a (f s.opa[a]) }
def modStrm (n : Fin 4) (f : Strm → Strm) (s : State) : State := { s with strm := s.strm.set n (f s.strm[n]) }
def modGal (g : Fin 4) (f : Gal → Gal) (s : State) : State := { s with gal := s.gal.set g (f s.gal[g]) }
def modCtx (n c : Fin 4) (f : Ctx → Ctx) (s : State) : State :=
  modStrm n (fun x => { x with ctx := x.ctx.set c (f x.ctx[c]) }) s
def State.ctx (s : State) (n c : Fin 4) : Ctx := s.strm[n].ctx[c]
def modQueue (q : Fin 8) (f : EQueue → EQueue) (s : State) : State :=
  { s with ush := { s.ush with queues := s.ush.queues.set q (f s.ush.queues[q]) } }
def State.queue (s : State) (q : Fin 8) : EQueue := s.ush.queues[q]
def modRing (l : Fin 64) (f : Ring → Ring) (s : State) : State :=
  { s with land := { s.land with rings := s.land.rings.set l (f s.land.rings[l]) } }
def State.ring (s : State) (l : Fin 64) : Ring := s.land.rings[l]

/-- Window `w` as it is in force: one closed in this cycle still admits (R268). -/
def State.window (s : State) (w : Fin 64) : Window :=
  match s.win.closing.find? (fun c => c.1 == w) with | some c => c.2 | none => s.win.windows[w]

/-- The tile of a Gallery that has flits to come. -/
def Gal.openTile? (x : Gal) : Option GalTile := x.tiles.find? fun t => !t.lastSeen

/-- Bytes of its tile that a write flit carries (R246). -/
def flitSize (f : WriteFlit) : Nat := f.lenM1.toNat + 1

/-- The tier's registers (HALL, LHALL). -/
def State.tier (s : State) : Tier → Hall | .hall => s.hall | .lower => s.lhall
def modTier (t : Tier) (f : Hall → Hall) (s : State) : State :=
  match t with
  | .hall => { s with hall := f s.hall }
  | .lower => { s with lhall := f s.lhall }
def tierOf (a : Nat) : Tier := if a < Config.hallSize then .hall else .lower

/-- A response of the management port. -/
def respond (st : MgStat) (s : State) : State :=
  { s with mgmt := { s.mgmt with rstat := st, cntErr := if st = .ok then s.mgmt.cntErr else s.mgmt.cntErr + 1 } }

/-- The port's answer with read data. -/
def respondData (v : BitVec 64) (s : State) : State :=
  let s := respond .ok s
  { s with mgmt := { s.mgmt with rdata := v } }

/-- The engine's queue of an array, a stream engine. -/
def opaQ (a : Fin 2) : Fin 8 := if a = 0 then 0 else 1
def strmQ (n : Fin 4) : Fin 8 := Fin.ofNat 8 (4 + n.val)

/-- Commands in queue `q`: a wide command, and a held first entry, count their entries (R398). -/
def QEntry.size (e : QEntry) : Nat :=
  let opc := e.raw.toNat % 32
  if opc = 0x17 ∨ opc = 0x19 then 2 else 1
def EQueue.count (q : EQueue) : Nat := (q.cmds.map QEntry.size).sum + (if q.hold.isSome then 1 else 0)

/-- Every engine queue is empty. -/
def State.queuesEmpty (s : State) : Bool := s.ush.queues.toList.all fun q => q.cmds.isEmpty && q.hold.isNone

/-- An engine may start the head of queue `q`: USH.PUSH cycles after its push, in an issuing cycle (R60, R318). -/
def State.head? (s : State) (q : Fin 8) : Option QEntry :=
  match (s.queue q).cmds with
  | [] => none
  | e :: _ => if s.mayIssue && e.pushedAt + Config.ushPush ≤ s.now then some e else none

/-- A 32-bit count goes up by 1 where `c` holds. -/
def upIf (c : Bool) (x : BitVec 32) : BitVec 32 := if c then x + 1 else x

/-- Takes the head off queue `q`. -/
def popQueue (q : Fin 8) (s : State) : State := modQueue q (fun x => { x with cmds := x.cmds.drop 1 }) s

end Sys2Proof.Machine
end

