-- ==== Sys2Proof/Machine/Ecc.lean ====
section
/-! DEFINITION. The outer code of a stored line (R203, R204): 16 interleaved Reed-Solomon RS(10, 8) codewords over GF(2⁸),
and the correction of up to two erased words. The inner code's 9 check bits of a word have no stated matrix; what it
corrected and flagged comes with the commands that read a line (assumption 29). -/

namespace Sys2Proof.Machine

/-- Times α in GF(2⁸), with field polynomial x⁸ + x⁴ + x³ + x² + 1. -/
def gfDouble (x : BitVec 8) : BitVec 8 := (x <<< 1) ^^^ (if x.msb then 0x1D else 0)

/-- The product in GF(2⁸). -/
def gfMul (x y : BitVec 8) : BitVec 8 :=
  (List.range 8).foldr (fun i acc => gfDouble acc ^^^ (if y.getLsbD i then x else 0)) 0

/-- αᵏ. -/
def gfPow : Nat → BitVec 8
  | 0 => 1
  | k + 1 => gfDouble (gfPow k)

/-- The inverse of αᵏ is α²⁵⁵⁻ᵏ; of any other element the one that the search finds. -/
def gfInv (x : BitVec 8) : BitVec 8 :=
  (((List.range 255).map gfPow).find? fun y => gfMul x y == 1).getD 0

/-- The value at root αᵏ of the codeword that holds `c` as the bytes of words 0 to 9: word j is the coefficient of xʲ
(assumption 29). -/
def rsValue (k : Nat) (c : List (BitVec 8)) : BitVec 8 :=
  (c.mapIdx fun j b => gfMul (gfPow (k * j)) b).foldl (· ^^^ ·) 0

/-- The bytes of words `i` and `j` that make the values at both roots zero, all other bytes being as in `c`. -/
def rsSolve (i j : Nat) (c : List (BitVec 8)) : BitVec 8 × BitVec 8 :=
  let c := (c.set i 0).set j 0
  let s0 := rsValue 0 c
  let s1 := rsValue 1 c
  let y := gfMul (gfInv (gfPow i ^^^ gfPow j)) (s1 ^^^ gfMul (gfPow i) s0)
  (s0 ^^^ y, y)

/-- The codeword of 8 data bytes: words 8 and 9 are the check words. -/
def rsEncode (d : List (BitVec 8)) : List (BitVec 8) :=
  let c := d ++ [0, 0]
  let p := rsSolve 8 9 c
  (c.set 8 p.1).set 9 p.2

/-- Erasure decoding of words `i` and `j`. -/
def rsCorrect (i j : Nat) (c : List (BitVec 8)) : List (BitVec 8) :=
  let p := rsSolve i j c
  (c.set i p.1).set j p.2

/-- Codeword `i` of the stored line at `a`: byte i of its 8 data words and of its 2 check words. -/
def lineCodeword (s : State) (a i : Nat) : List (BitVec 8) :=
  rsEncode ((List.range 8).map fun w => memByte s (lineOf a + 16 * w + i))

end Sys2Proof.Machine
end

