-- ==== Sys2Proof/Machine/Operands.lean ====
section
/-! DEFINITION. Reading instruction words and engine commands: the Usher instruction word (R400, R401), the layouts of
the engine commands (R389 to R399), the checks made at a push (R106, R134, R149, R159, R167, R169, R181, R191, R221,
R390), and the Hall and Lower Hall operands a push takes entries for (R61, R62). -/

namespace Sys2Proof.Machine

/-! ## Usher instruction words -/

/-- The Usher instructions, one per row of the table. -/
inductive UOp where
  | add | sub | and | or | xor | shl | shr | sra | slt | sltu | min | max | mul | mulhu
  | addi | andi | ori | xori | shi | slti | movz | movk
  | ldB | ldBu | ldH | ldHu | ldW | ldWu | ldD | stB | stH | stW | stD
  | beq | bne | blt | bge | bltu | bgeu | j | jal | jr
  | enqI | enqR | enqH | stepWait | stepEnd | syncWait | syncAdd | syncSet | syncRd
  | queCfg | quePut | queGet
  | atomAdd | atomMax | atomMin | atomAnd | atomOr | atomSwap | atomCas | atomQput
  | atomHAdd | atomHSwap | atomHCas | taskEnd | fwRet
deriving DecidableEq, Repr

def wRd (w : BitVec 32) : Fin 32 := Fin.ofNat 32 (fld w 21 5)
def wRa (w : BitVec 32) : Fin 32 := Fin.ofNat 32 (fld w 16 5)
def wRb (w : BitVec 32) : Fin 32 := Fin.ofNat 32 (fld w 11 5)
def wRc (w : BitVec 32) : Fin 32 := Fin.ofNat 32 (fld w 6 5)
def wFunc (w : BitVec 32) : Nat := fld w 0 11
def wImm (w : BitVec 32) : BitVec 16 := w.extractLsb' 0 16
/-- The immediate, sign-extended (R400). -/
def wSimm (w : BitVec 32) : BitVec 64 := (wImm w).signExtend 64
def wZimm (w : BitVec 32) : BitVec 64 := (wImm w).zeroExtend 64
/-- The queue of ENQ.I, ENQ.R and ENQ.H. -/
def wQ (w : BitVec 32) : Fin 8 := Fin.ofNat 8 (fld w 23 3)
/-- The scope code of SYNC.WAIT and of the ATM format (R401). -/
def scopeOf : Nat → Scope | 0 => .cl | 1 => .dy | 2 => .pk | _ => .fb

/-- The instruction a word is; `none` is ILLEGAL (R400, R401). The checks are of the bits that must be zero. -/
def decodeUsher (w : BitVec 32) : Option UOp :=
  let z (lo len : Nat) : Bool := fld w lo len == 0
  let g (b : Bool) (o : UOp) : Option UOp := if b then some o else none
  let f := wFunc w
  match fld w 26 6 with
  | 0x01 =>
    [UOp.add, .sub, .and, .or, .xor, .shl, .shr, .sra, .slt, .sltu, .min, .max, .mul, .mulhu][f]?
  | 0x02 => some .addi | 0x03 => some .andi | 0x04 => some .ori | 0x05 => some .xori
  | 0x06 => g (fld w 6 2 != 3 && z 8 8) .shi
  | 0x07 => some .slti
  | 0x08 => g (z 18 3) .movz
  | 0x09 => g (z 18 3) .movk
  | 0x10 => some .ldB | 0x11 => some .ldBu | 0x12 => some .ldH | 0x13 => some .ldHu | 0x14 => some .ldW
  | 0x15 => some .ldWu | 0x16 => some .ldD
  | 0x18 => some .stB | 0x19 => some .stH | 0x1A => some .stW | 0x1B => some .stD
  | 0x20 => some .beq | 0x21 => some .bne | 0x22 => some .blt | 0x23 => some .bge | 0x24 => some .bltu
  | 0x25 => some .bgeu | 0x26 => some .j | 0x27 => some .jal
  | 0x28 => g (z 21 5 && z 0 16) .jr
  | 0x30 => g (z 0 23) .enqI
  | 0x31 => g (z 21 2 && z 0 11) .enqR
  | 0x32 => g (z 21 2 && z 4 12) .enqH
  | 0x34 => g (z 21 5) .stepWait
  | 0x35 => g (z 0 26) .stepEnd
  | 0x36 => g (if bitAt w 23 then z 21 2 && z 13 3 else z 21 2 && z 0 11) .syncWait
  | 0x37 =>
    let n := bitAt w 13 || z 5 8
    match fld w 14 2 with
    | 0 => g n .syncAdd
    | 1 => g (n && z 21 5) .syncSet
    | 2 => g (n && z 16 5) .syncRd
    | _ => none
  | 0x38 =>
    match f with
    | 0 => some .queCfg
    | 1 => g (z 21 5) .quePut
    | 2 => g (z 11 5) .queGet
    | _ => none
  | 0x3A =>
    let ok := z 0 1 && (z 6 5 || fld w 3 3 == 6)
    match [UOp.atomAdd, .atomMax, .atomMin, .atomAnd, .atomOr, .atomSwap, .atomCas, .atomQput][fld w 3 3]? with
    | some o => g ok o
    | none => none
  | 0x3B =>
    let ok := z 0 1 && (z 6 5 || fld w 3 3 == 6) && fld w 1 2 == 3
    match fld w 3 3 with
    | 0 => g ok .atomHAdd
    | 5 => g ok .atomHSwap
    | 6 => g ok .atomHCas
    | _ => none
  | 0x3C => g (z 0 26) .taskEnd
  | 0x3D => g (z 0 26) .fwRet
  | _ => none

/-- The integer ALU instructions of R54. -/
def UOp.isAlu : UOp → Bool
  | .add | .sub | .and | .or | .xor | .shl | .shr | .sra | .slt | .sltu | .min | .max
  | .addi | .andi | .ori | .xori | .shi | .slti | .movz | .movk => true
  | _ => false

def UOp.isBranch : UOp → Bool
  | .beq | .bne | .blt | .bge | .bltu | .bgeu | .j | .jal | .jr | .fwRet => true
  | _ => false

/-- The register an instruction writes (R400, R401). -/
def UOp.writes (o : UOp) (w : BitVec 32) : Option (Fin 32) :=
  match o with
  | .stB | .stH | .stW | .stD | .beq | .bne | .blt | .bge | .bltu | .bgeu | .j | .jr | .enqI | .enqR | .enqH
  | .stepWait | .stepEnd | .syncWait | .syncSet | .queCfg | .quePut | .taskEnd | .fwRet => none
  | .jal => some 31
  | _ => some (wRd w)

/-- The registers an instruction reads. -/
def UOp.reads (o : UOp) (w : BitVec 32) : List (Fin 32) :=
  match o with
  | .add | .sub | .and | .or | .xor | .shl | .shr | .sra | .slt | .sltu | .min | .max | .mul | .mulhu =>
    [wRa w, wRb w]
  | .addi | .andi | .ori | .xori | .shi | .slti => [wRa w]
  | .movz => []
  | .movk => [wRd w]
  | .ldB | .ldBu | .ldH | .ldHu | .ldW | .ldWu | .ldD => [wRa w]
  | .stB | .stH | .stW | .stD => [wRa w, wRd w]
  | .beq | .bne | .blt | .bge | .bltu | .bgeu => [wRd w, wRa w]
  | .j | .jal => []
  | .jr => [wRa w]
  | .enqI => []
  | .enqR => [wRa w, wRb w]
  | .enqH => [wRa w]
  | .stepWait => [wRa w]
  | .stepEnd | .taskEnd => []
  | .syncWait => if bitAt w 23 then [wRa w] else [wRa w, wRb w]
  | .syncAdd | .syncSet => if bitAt w 13 then [wRa w] else [wRa w, Fin.ofNat 32 (fld w 0 5)]
  | .syncRd => if bitAt w 13 then [] else [Fin.ofNat 32 (fld w 0 5)]
  | .queCfg => [wRd w, wRa w, wRb w]
  | .quePut => [wRa w, wRb w]
  | .queGet => [wRa w]
  | .atomAdd | .atomMax | .atomMin | .atomAnd | .atomOr | .atomSwap | .atomQput | .atomHAdd | .atomHSwap =>
    [wRa w, wRb w]
  | .atomCas | .atomHCas => [wRa w, wRb w, wRc w]
  | .fwRet => [30]

/-! ## Formats by code (R80) -/

/-- Bits per element of a format code; 0 for a reserved one. -/
def fmtBits : Nat → Nat
  | 0x0 => 32 | 0x1 => 16 | 0x2 => 16 | 0x3 => 8 | 0x4 => 8 | 0x5 => 8 | 0x6 => 8 | 0x7 => 6 | 0x8 => 6 | 0x9 => 4
  | 0xA => 8 | 0xB => 32 | _ => 0

/-- Block-scaled formats (R82). -/
def fmtMx (f : Nat) : Bool := 5 ≤ f && f ≤ 9

/-- Bits per element of a memory format MFMT (R159). -/
def mfmtBits : Nat → Nat
  | 0 => 32 | 1 => 32 | 2 => 16 | 3 => 16 | 4 => 8 | 5 => 8 | 6 => 8 | _ => 0

/-! ## Engine commands -/

abbrev Cmd := BitVec 128

def cOpc (c : Cmd) : Nat := fld c 0 5
def cSig (c : Cmd) : Option (BitVec 13) := if bitAt c 5 then some (c.extractLsb' 6 13) else none
def cKm (c : Cmd) : Nat := fld c 19 3
def cMz (c : Cmd) : Bool := bitAt c 22
def cVd (c : Cmd) : Nat := fld c 23 5
def cVa (c : Cmd) : Nat := fld c 28 5
def cVb (c : Cmd) : Nat := fld c 33 5
def cVc (c : Cmd) : Nat := fld c 38 5
def cFn (c : Cmd) : Nat := fld c 43 5

/-- OPX (R105, R393). -/
structure OpxCmd where
  var : Nat
  z : Bool
  bank : Fin 2
  shape : Nat
  pmask : Nat
  mact : Nat
  nact : Nat
  ta : Fin 16
  tb : Fin 16
  aAx : Bool
  bAx : Bool
  aSh : Bool
  bSh : Bool
  kstart : Nat
  klen : Nat
deriving DecidableEq, Repr

def opxOf (c : Cmd) : OpxCmd where
  var := fld c 19 2
  z := bitAt c 21
  bank := Fin.ofNat 2 (fld c 22 1)
  shape := fld c 23 3
  pmask := fld c 26 16
  mact := fld c 42 7 + 1
  nact := fld c 49 7 + 1
  ta := Fin.ofNat 16 (fld c 56 4)
  tb := Fin.ofNat 16 (fld c 60 4)
  aAx := bitAt c 64
  bAx := bitAt c 65
  aSh := bitAt c 66
  bSh := bitAt c 67
  kstart := fld c 68 16
  klen := fld c 84 16 + 1

/-- k of an OPX variant (R103). -/
def opxK : Nat → Nat | 0 => 2 | 1 => 4 | 2 => 4 | _ => 8

/-- Partition count and extents of a shape (R108): P, Mp, Np. -/
def shapeDims : Nat → Nat × Nat × Nat
  | 0 => (1, 128, 128) | 1 => (2, 128, 64) | 2 => (2, 64, 128) | 3 => (4, 64, 64) | 4 => (16, 32, 32) | _ => (0, 0, 0)

/-- First row and column of partition p (R108). -/
def shapeOrigin (sh p : Nat) : Nat × Nat :=
  match sh with
  | 1 => (0, 64 * p) | 2 => (64 * p, 0) | 3 => (64 * (p / 2), 64 * (p % 2)) | 4 => (32 * (p / 4), 32 * (p % 4))
  | _ => (0, 0)

/-- TLD and TST (R133, R393). -/
structure TmoveCmd where
  t : Fin 16
  base : Nat
  stride : Nat
  width : Nat
  first : Nat
  count : Nat
  scl : Nat
  sbax : Bool
  sbase : Nat
  sstride : Nat
deriving DecidableEq, Repr

def tmoveOf (c : Cmd) : TmoveCmd where
  t := Fin.ofNat 16 (fld c 19 4)
  base := fld c 23 21 * 16
  stride := fld c 44 12 * 16
  width := (fld c 56 8 + 1) * 16
  first := fld c 64 10
  count := fld c 74 10 + 1
  scl := fld c 84 2
  sbax := bitAt c 86
  sbase := fld c 87 25
  sstride := fld c 112 16

def cTreg (c : Cmd) : Fin 16 := Fin.ofNat 16 (fld c 19 4)

/-- Element bits that an SCL code names (R133). -/
def sclBits : Nat → Nat | 1 => 8 | 2 => 6 | _ => 4

/-- Bytes of one scale row, and whether that is a whole number (R133, R134). -/
def TmoveCmd.scaleBytes (m : TmoveCmd) : Nat :=
  if m.sbax then m.width * 8 / sclBits m.scl else m.width * 8 / (sclBits m.scl * 32)
def TmoveCmd.scaleWhole (m : TmoveCmd) : Bool :=
  if m.sbax then m.width * 8 % sclBits m.scl == 0 else m.width * 8 % (sclBits m.scl * 32) == 0

/-- The scale rows moved: first and count. -/
def TmoveCmd.scaleRows (m : TmoveCmd) : Nat × Nat :=
  if m.sbax then (m.first / 32, (m.first + m.count - 1) / 32 - m.first / 32 + 1) else (m.first, m.count)

/-- The data range (R134): lowest byte and length. -/
def TmoveCmd.dataRange (m : TmoveCmd) : Nat × Nat :=
  (m.base + m.first * m.stride, (m.count - 1) * m.stride + m.width)
def TmoveCmd.scaleRange (m : TmoveCmd) : Nat × Nat :=
  (m.sbase + m.scaleRows.1 * m.sstride, (m.scaleRows.2 - 1) * m.sstride + m.scaleBytes)

/-- The fields of a VLD, VST, VLD.MX, VST.MX, VLDX or VSTX that give its memory operand (R396): base and format. -/
def vmBase (c : Cmd) : Nat :=
  match cOpc c with
  | 0x14 | 0x15 => fld c 31 25 * 16
  | 0x16 | 0x17 => fld c 32 25 * 16
  | 0x18 | 0x19 => fld c 36 25 * 16
  | _ => fld c 25 25 * 16
def vmFmt (c : Cmd) : Nat :=
  match cOpc c with
  | 0x14 | 0x15 => fld c 28 3
  | 0x16 | 0x17 => fld c 28 4
  | _ => fld c 33 3
def vmSbase (c : Cmd) : Nat := fld c 57 29
def vmWindow (c : Cmd) : Nat := fld c 61 24 + 1

/-! ## Flights -/

/-- A stage entry (FLT.STG, R178). -/
def stKind (c : Cmd) : Nat := fld c 26 5
def stProg (c : Cmd) : Fin 64 := Fin.ofNat 64 (fld c 31 6)
/-- The operand kind as the entry carries it; a stage that needs no operand ignores it (R183). -/
def stOkField (c : Cmd) : Nat := fld c 37 3
def stOk (c : Cmd) : Nat :=
  let k := stKind c
  if (0x06 ≤ k && k ≤ 0x0A) || k == 0x10 || k == 0x11 then 0 else stOkField c
def stOreg (c : Cmd) : Nat := fld c 40 5
def stOofs (c : Cmd) : Nat := fld c 45 16
def stImm (c : Cmd) : BitVec 32 := c.extractLsb' 61 32
def stFmt (c : Cmd) : Nat := fld c 93 4
def stRm (c : Cmd) : Nat := fld c 97 3
def stBlk (c : Cmd) : Nat := fld c 100 2

/-- An address record (FLT.ADR, R179). -/
def arRec (c : Cmd) : Nat := fld c 19 3
def arEn (c : Cmd) : Bool := bitAt c 22
def arBase (c : Cmd) : Nat := fld c 23 25 * 16
def arStride (c : Cmd) : Nat := fld c 48 20 * 16
def arTap (c : Cmd) : Nat := fld c 68 4
def arCopy (c : Cmd) : Nat := fld c 72 1
def arSbase (c : Cmd) : Nat := fld c 73 29
def arSstride (c : Cmd) : Nat := fld c 102 16

/-- FLT.GO (R180). -/
def goDef (c : Cmd) : Nat := fld c 19 4
def goNstg (c : Cmd) : Nat := fld c 23 3 + 1
def goSrc (c : Cmd) : Nat := fld c 26 2
def goArr (c : Cmd) : Nat := fld c 28 2
def goBank (c : Cmd) : Fin 2 := Fin.ofNat 2 (fld c 30 1)
def goSquare (c : Cmd) : Bool := bitAt c 31
def goRow0 (c : Cmd) : Nat := fld c 32 5 * 4
def goNrows (c : Cmd) : Nat := (fld c 37 5 + 1) * 4
def goCol0 (c : Cmd) : Nat := fld c 42 2 * 32
def goNcols (c : Cmd) : Nat := (fld c 44 2 + 1) * 32
def goVs (c : Cmd) : Nat := fld c 28 5
def goW (c : Cmd) : Nat := if goSrc c = 1 then (fld c 33 11 + 1) * 32 else (fld c 38 8 + 1) * 32
def goRows (c : Cmd) : Nat := fld c 28 10 + 1
def goSeed (c : Cmd) : BitVec 64 := c.extractLsb' 64 64

/-- The first and second array a readout reads (R169). -/
def goArrays (c : Cmd) : List (Fin 2) := match goArr c with | 0 => [0] | 1 => [1] | _ => [0, 1]

/-- The element count E of a Flight, for VL `vl` (R175). -/
def goCount (c : Cmd) (vl : Nat) : Nat :=
  match goSrc c with
  | 0 => (goArrays c).length * (goNrows c * goNcols c)
  | 1 => vl
  | _ => goRows c * goW c

/-- Row, column and, for a readout, the cell (array, row, column) of position `e` (R169, R175). -/
def goPos (c : Cmd) (e : Nat) : Nat × Nat × (Fin 2 × Nat × Nat) :=
  match goSrc c with
  | 0 =>
    let per := goNrows c * goNcols c
    let k := e / per
    let i := e % per
    let a : Fin 2 := if goArr c = 2 then Fin.ofNat 2 k else Fin.ofNat 2 (goArr c)
    let rc : Nat × Nat :=
      if goSquare c then
        let q := i / 1024
        let sq := goNcols c / 32
        (goRow0 c + 32 * (q / sq) + i % 1024 / 32, goCol0 c + 32 * (q % sq) + i % 32)
      else (goRow0 c + i / 128, i % 128)
    (rc.1, rc.2 + 128 * k, (a, rc.1, rc.2))
  | _ => (e / goW c, e % goW c, (0, 0, 0))

/-- Smallest and largest row and column of the source (R175). -/
def goRowMin (c : Cmd) : Nat := if goSrc c = 0 then goRow0 c else 0
def goRowMax (c : Cmd) (vl : Nat) : Nat :=
  match goSrc c with | 0 => goRow0 c + goNrows c - 1 | 1 => vl / goW c - 1 | _ => goRows c - 1
def goColMin (c : Cmd) : Nat := if goSrc c = 0 then goCol0 c else 0
def goColMax (c : Cmd) : Nat :=
  match goSrc c with
  | 0 => (if goArr c = 2 then 128 else 0) + goCol0 c + goNcols c - 1
  | _ => goW c - 1

/-- The definition and records as the commands of queue 3 leave them for the next push (R181, R182): stages 0 to 7,
then records D0 to D3, M0, M1. -/
def pushView (s : State) (d : Nat) : List Cmd :=
  let q := (s.queue 3).cmds
  let stage (i : Nat) : Cmd :=
    match q.reverse.find? (fun e => cOpc e.raw == 0x1C && fld e.raw 19 4 == d && fld e.raw 23 3 == i) with
    | some e => e.raw
    | none => s.flt.defs.get (8 * d + i)
  let rec_ (r : Nat) : Cmd :=
    match q.reverse.find? (fun e => cOpc e.raw == 0x1D && arRec e.raw == r) with
    | some e => e.raw
    | none => s.flt.recs.get r
  (List.range 8).map stage ++ (List.range 6).map rec_

/-- VL as the commands of queue 3 leave it for the next push (R149). -/
def pushVl (s : State) : Nat :=
  match (s.queue 3).cmds.reverse.find? (fun e => cOpc e.raw == 0x1B) with
  | some e => (fld e.raw 19 11 + 1) * 32
  | none => s.vec.vl

def capStage (cap : List Cmd) (i : Nat) : Cmd := cap.getD i 0
def capRec (cap : List Cmd) (r : Nat) : Cmd := cap.getD (8 + r) 0

/-- The stage indices a FLT.GO runs. -/
def goStages (c : Cmd) : List Nat := List.range (goNstg c)

/-- The format code a destination record takes: FP32, or the FMT of the narrowing stage it taps (R179). -/
def destFmt (cap : List Cmd) (r : Cmd) : Nat :=
  let st := capStage cap (arTap r)
  if arTap r ≥ 8 then 0 else if stKind st = 0x10 ∨ stKind st = 0x11 then stFmt st else 0

/-- The enabled destination records. -/
def destRecs (cap : List Cmd) : List Cmd := ((List.range 4).map (capRec cap)).filter arEn

/-- A record's element range over the source (R62, R179): lowest byte and length. -/
def recRange (c r : Cmd) (vl bits : Nat) : Nat × Nat :=
  let lo := arBase r + goRowMin c * arStride r + goColMin c * bits / 8
  let hi := arBase r + goRowMax c vl * arStride r + (goColMax c * bits + bits - 1) / 8
  (lo, hi + 1 - lo)

/-- A destination's scale range (R179). -/
def scaleRangeOf (c r : Cmd) (vl : Nat) : Nat × Nat :=
  let lo := if arCopy r = 0 then arSbase r + goRowMin c * arSstride r + goColMin c / 32
    else arSbase r + goRowMin c / 32 * arSstride r + goColMin c
  let hi := if arCopy r = 0 then arSbase r + goRowMax c vl * arSstride r + goColMax c / 32
    else arSbase r + goRowMax c vl / 32 * arSstride r + goColMax c
  (lo, hi + 1 - lo)

/-- Some stage of the Flight uses the memory operand (R186). -/
def usesM1 (c : Cmd) (cap : List Cmd) : Bool := (goStages c).any fun i => stOk (capStage cap i) == 5

/-- The Flight's memory ranges in order: each destination with its scales, then M0, then M1 (R181). -/
def goRanges (c : Cmd) (cap : List Cmd) (vl : Nat) : List (Nat × Nat × Bool) :=
  ((destRecs cap).flatMap fun r =>
    let f := destFmt cap r
    let d := recRange c r vl (fmtBits f)
    (d.1, d.2, true) :: (if fmtMx f then let x := scaleRangeOf c r vl; [(x.1, x.2, true)] else [])) ++
  (if goSrc c = 2 then let m := capRec cap 4; let d := recRange c m vl (fmtBits (arTap m)); [(d.1, d.2, false)] else []) ++
  (if usesM1 c cap then let m := capRec cap 5; let d := recRange c m vl (fmtBits (arTap m)); [(d.1, d.2, false)] else [])

/-- A source read in group order, or a column-block copy: the Flight has a QMX stage with BLK 1 or 2. -/
def goGrouped (c : Cmd) (cap : List Cmd) : Bool :=
  (goStages c).any fun i => stKind (capStage cap i) == 0x11 && stBlk (capStage cap i) != 0

def rangesOverlap : List (Nat × Nat × Bool) → Bool
  | [] => false
  | a :: r => r.any (fun b => a.1 < b.1 + b.2.1 && b.1 < a.1 + a.2.1) || rangesOverlap r

/-- A FLT.GO that R169, R170, R180, R181 or R407 refuses at its push. -/
def goBad (b : Build) (c : Cmd) (cap : List Cmd) (vl : Nat) : Bool :=
  let st := goStages c
  let lanes := 32 * b.vlen
  let readout := goSrc c == 0
  let badRead := readout &&
    (goRow0 c + goNrows c > 128 || goCol0 c + goNcols c > 128 ||
      (if goSquare c then goRow0 c % 32 != 0 || goNrows c % 32 != 0 else goCol0 c != 0 || goNcols c != 128))
  let badW := goSrc c == 1 && (vl % goW c != 0)
  let undef := st.any fun i => capStage cap i == 0
  let dests := destRecs cap
  let badTap := dests.any fun r =>
    let q := capStage cap (arTap r)
    (arTap r < 8 && arTap r ≥ goNstg c) ||
    (if arCopy r = 1 then !(arTap r < 8 && stKind q == 0x11 && stBlk q ≥ 1)
     else arTap r < 8 && stKind q == 0x11 && stBlk q == 1)
  let lane := st.any fun i =>
    let q := capStage cap i
    match stOk q with
    | 2 => stOofs q + goColMax c ≥ lanes
    | 3 => stOofs q + goRowMax c vl ≥ lanes
    | 4 => stOofs q + goCount c vl - 1 ≥ lanes
    | _ => false
  let elemBad := readout && goSquare c && goNcols c != 128 &&
    st.any fun i => stOk (capStage cap i) == 4 || stOk (capStage cap i) == 5
  let mems := (st.filter fun i => stOk (capStage cap i) == 5).length
  let treads := (st.filter fun i => stKind (capStage cap i) == 0x1F).length
  let rs := goRanges c cap vl
  let recBad := (goSrc c == 2 && !arEn (capRec cap 4)) || (usesM1 c cap && !arEn (capRec cap 5))
  let rows := if goSrc c = 1 then vl / goW c else goRows c
  let grp := goGrouped c cap
  let wr := (dests.map fun r => 64 * fmtBits (destFmt cap r) + (if fmtMx (destFmt cap r) then 16 else 0)).sum
  let rd := (if goSrc c = 2 then 64 * fmtBits (arTap (capRec cap 4)) else 0) +
    (if usesM1 c cap then 64 * fmtBits (arTap (capRec cap 5)) else 0)
  badRead || badW || undef || dests.isEmpty || badTap || lane || elemBad || mems > 1 || treads > 4 ||
    rs.length > 4 || rangesOverlap rs || rs.any (fun r => !inSram b r.1 r.2.1) || recBad ||
    (!readout && grp && rows % 32 != 0) || wr > 4096 || rd > 4096 || (readout && !goSquare c && grp)

/-! ## Checks at the push -/

/-- The mask of a list of fields (low bit, length). -/
def fieldMask (fs : List (Nat × Nat)) : BitVec 128 :=
  fs.foldl (fun m f => m ||| BitVec.ofNat 128 ((2 ^ f.2 - 1) <<< f.1)) 0

/-- The fields of a command's layout that its function uses (R393 to R396); `none` when a code in it is undefined. The
lane-datapath register fields a function does not read are not listed, and so must be zero (R394). -/
def cmdFields (c : Cmd) : Option (List (Nat × Nat)) :=
  let fn := cFn c
  let ok (b : Bool) (l : List (Nat × Nat)) : Option (List (Nat × Nat)) := if b then some ((0, 19) :: l) else none
  let lane : List (Nat × Nat) := [(19, 4), (23, 5), (43, 5)]
  let va : Nat × Nat := (28, 5)
  let vb : Nat × Nat := (33, 5)
  let rmOk (lo : Nat) : Bool := fld c lo 3 ≤ 4
  match cOpc c with
  | 0x00 => some [(0, 5), (64, 64)]
  | 0x01 => ok true [(19, 2), (21, 1), (22, 1), (23, 3), (26, 16), (42, 7), (49, 7), (56, 8), (64, 4), (68, 16), (84, 16)]
  | 0x02 => ok true [(19, 2)]
  | 0x03 => ok (fld c 23 4 ≤ 0xB) [(19, 4), (23, 4), (27, 10), (37, 13), (50, 1)]
  | 0x04 | 0x05 => ok true [(19, 109)]
  | 0x06 => ok true [(19, 4)]
  | 0x07 => ok true [(19, 2), (21, 4), (25, 1), (26, 1), (27, 13), (40, 13)]
  | 0x08 => ok true [(19, 2), (21, 32)]
  | 0x09 => ok true [(19, 2)]
  | 0x0A => ok (fn ≤ 7) (lane ++ [va, (48, 1)] ++ (if fn < 6 then [vb] else []) ++ (if fn = 3 then [(38, 5)] else []))
  | 0x0B => ok (fn ≤ 11) (lane ++ [va] ++ (if fn = 8 then [] else [vb]))
  | 0x0C => ok (fn / 8 ≤ 2 && (fn % 8 < 6 || fn / 8 == 0)) [(19, 4), (23, 3), va, vb, (43, 5)]
  | 0x0D =>
    match fn with
    | 0 => ok true (lane ++ [va])
    | 1 => ok true (lane ++ [va, vb, (38, 3)])
    | 2 => ok true (lane ++ [(49, 32)])
    | _ => none
  | 0x0E => ok (fn ≤ 3) ([(23, 3), (28, 3), (43, 5)] ++ (if fn = 3 then [] else [(33, 3)]))
  | 0x0F =>
    ok (fn == 0 && fld c 49 2 != fld c 51 2 && fld c 49 2 ≤ 2 && fld c 51 2 ≤ 2 && rmOk 54)
      (lane ++ [va, (49, 2), (51, 2), (53, 1), (54, 3), (64, 64)])
  | 0x10 => ok (fn ≤ 3) (lane ++ [va])
  | 0x11 => ok (fn % 8 ≤ 5) (lane ++ [va] ++ (if fn / 16 = 1 then [(49, 3)] else []))
  | 0x12 => ok (fn % 8 ≤ 5 && fn / 8 % 2 == 0) (lane ++ [va] ++ (if fn / 16 = 1 then [(49, 3)] else []))
  | 0x13 =>
    match fn with
    | 0 => ok true (lane ++ [va, vb])
    | 1 => ok true (lane ++ [va, (49, 16)])
    | 2 | 3 => ok true [(23, 5), (43, 5), va, (49, 3)]
    | _ => none
  | 0x14 => ok (fld c 28 3 ≤ 6) [(19, 4), (23, 5), (28, 3), (31, 25)]
  | 0x15 => ok (fld c 28 3 ≤ 6 && rmOk 56) [(19, 4), (23, 5), (28, 3), (31, 25), (56, 3), (64, 64)]
  | 0x16 => ok (5 ≤ fld c 28 4 && fld c 28 4 ≤ 9) [(19, 4), (23, 5), (28, 4), (32, 25), (57, 29)]
  | 0x17 => ok (5 ≤ fld c 28 4 && fld c 28 4 ≤ 9 && rmOk 86) [(19, 4), (23, 5), (28, 4), (32, 25), (57, 29), (86, 3)]
  | 0x18 => ok (fld c 33 3 ≤ 6 && fld c 33 3 != 1) [(19, 4), (23, 5), (28, 5), (33, 3), (36, 25), (61, 24)]
  | 0x19 => ok (fld c 33 3 ≤ 6 && fld c 33 3 != 1 && rmOk 85) [(19, 4), (23, 5), (28, 5), (33, 3), (36, 25), (61, 24), (85, 3)]
  | 0x1A => ok true [(19, 1), (20, 1), (21, 5), (26, 5), (31, 5), (36, 7)]
  | 0x1B => ok true [(19, 11)]
  | 0x1C =>
    let k := stKind c
    ok ((1 ≤ k && k ≤ 0xA || k == 0x10 || k == 0x11 || k == 0x1F) && stOkField c ≤ 5 && stBlk c ≤ 2 && stRm c ≤ 4 &&
        stFmt c ≤ 0xB && (k != 0x10 || (1 ≤ stFmt c && stFmt c ≤ 4) || stFmt c == 0xA) &&
        (k != 0x11 || (5 ≤ stFmt c && stFmt c ≤ 9)) && (k != 3 || stOk c != 1))
      [(19, 4), (23, 3), (26, 5), (31, 6), (37, 3), (40, 5), (45, 16), (61, 32), (93, 4), (97, 3), (100, 2)]
  | 0x1D =>
    if arRec c < 4 then ok (arTap c ≤ 7 || arTap c == 0xF) [(19, 3), (22, 1), (23, 25), (48, 20), (68, 4), (72, 1), (73, 29), (102, 16)]
    else ok (arRec c ≤ 5 && arTap c ≤ 4) [(19, 3), (22, 1), (23, 25), (48, 20), (68, 4)]
  | 0x1E =>
    match goSrc c with
    | 0 => ok (goArr c ≤ 2) [(19, 4), (23, 3), (26, 2), (28, 18), (64, 64)]
    | 1 => ok true [(19, 4), (23, 3), (26, 2), (28, 16), (64, 64)]
    | 2 => ok true [(19, 4), (23, 3), (26, 2), (28, 18), (64, 64)]
    | _ => none
  | _ => ok true [(19, 6), (25, 25)]

/-- The queues that accept an opcode (R391). -/
def opcQueue (opc : Nat) (q : Fin 8) : Bool :=
  if opc = 0 then true
  else if opc ≤ 2 then q.val ≤ 1
  else if opc ≤ 6 then q.val == 2
  else if opc ≤ 9 then q.val ≥ 4
  else q.val == 3

/-- `n` bytes from `a` lie wholly in Lower Hall, in either tier (R159). -/
def inLowerAll (b : Build) (a n : Nat) : Bool :=
  Config.lhallBase ≤ a && a + n ≤ Config.lhallBase + Config.tierSize * (if b.tiers2 then 2 else 1)

def inHallOrLower (b : Build) (a n : Nat) : Bool := inHall a n || inLowerAll b a n

/-- The Hall and Lower Hall operands of a command (R61, R62): lowest byte, length, whether it writes. `vl` and `cap`
are the VL and, for FLT.GO, the captured view of its push. -/
def cmdOperands (c : Cmd) (vl : Nat) (cap : List Cmd) : List (Nat × Nat × Bool) :=
  match cOpc c with
  | 0x04 | 0x05 =>
    let m := tmoveOf c
    let wr := cOpc c == 0x05
    (m.dataRange.1, m.dataRange.2, wr) ::
      (if m.scl = 0 then [] else [(m.scaleRange.1, m.scaleRange.2, wr)])
  | 0x14 => [(vmBase c, vl * mfmtBits (vmFmt c) / 8, false)]
  | 0x15 => [(vmBase c, vl * mfmtBits (vmFmt c) / 8, true)]
  | 0x16 => [(vmBase c, vl * fmtBits (vmFmt c) / 8, false), (vmSbase c, vl / 32, false)]
  | 0x17 => [(vmBase c, vl * fmtBits (vmFmt c) / 8, true), (vmSbase c, vl / 32, true)]
  | 0x18 => [(vmBase c, vmWindow c * mfmtBits (vmFmt c) / 8, false)]
  | 0x19 => [(vmBase c, vmWindow c * mfmtBits (vmFmt c) / 8, true)]
  | 0x1E => goRanges c cap vl
  | 0x1F => [(vmBase c, 192, false)]
  | _ => []

/-- The range and consistency checks made at the push on decoded values (R106, R134, R149, R159, R161, R167, R169,
R181, R191, R221, R397). -/
def cmdBad (b : Build) (c : Cmd) (vl : Nat) (cap : List Cmd) : Bool :=
  match cOpc c with
  | 0x01 =>
    let o := opxOf c
    let d := shapeDims o.shape
    o.shape > 4 || o.pmask == 0 || o.pmask ≥ 2 ^ d.1 || o.mact > d.2.1 || o.nact > d.2.2 ||
      o.klen % opxK o.var != 0 || (o.aSh && o.bSh)
  | 0x04 | 0x05 =>
    let m := tmoveOf c
    m.first + m.count > 1024 || (m.count > 1 && m.stride < m.width) || !inHall m.dataRange.1 m.dataRange.2 ||
      (m.scl != 0 &&
        ((m.sbax && (m.first % 32 != 0 || m.count % 32 != 0)) || !m.scaleWhole ||
          (m.scaleRows.2 > 1 && m.sstride < m.scaleBytes) || !inHall m.scaleRange.1 m.scaleRange.2))
  | 0x07 => fld c 21 4 == 0 || fld c 21 4 > 8
  | 0x08 => fld c 21 32 % 64 != 0 || !inHall (fld c 21 32) 64
  | 0x1A => fld c 21 5 * 4 + (fld c 26 5 + 1) * 4 > 128 || fld c 36 7 * 512 + 128 * ((fld c 26 5 + 1) * 4) > 32 * b.vlen
  | 0x1B => fld c 19 11 + 1 > b.vlen
  | 0x1D => arRec c < 4 && arBase c ≥ Config.lhallBase + Config.tierSize * (if b.tiers2 then 2 else 1)
  | 0x1E => goBad b c cap vl
  | 0x1F => !inSram b (vmBase c) 192
  | 0x14 | 0x15 | 0x16 | 0x17 | 0x18 | 0x19 =>
    (cmdOperands c vl cap).any fun r => !inHallOrLower b r.1 r.2.1
  | _ => false

/-- A word that a push to queue `q` refuses with CMD_BAD (R58, R389 to R391, and the checks above). -/
def pushBad (s : State) (q : Fin 8) (c : Cmd) : Bool :=
  match cmdFields c with
  | none => true
  | some fs =>
    (c &&& ~~~fieldMask fs) != 0 || !opcQueue (cOpc c) q || (cOpc c != 0 && !bitAt c 5 && fld c 6 13 != 0) ||
      cmdBad s.build c (pushVl s) (pushView s (goDef c))

/-! ## Tag gating (R61, R65) -/

/-- How an operand lies to the enabled rings. -/
inductive Gate where
  | plain
  | slot (l : Fin 64) (k : Nat)
  | straddle
deriving DecidableEq, Repr

/-- The gate of `n` bytes from `lo`. -/
def gateOf (s : State) (lo n : Nat) : Gate :=
  let hi := lo + n - 1
  match (List.finRange 64).find? (fun l => let r := s.ring l; r.en && r.lo ≤ hi && lo < r.hi) with
  | none => .plain
  | some l =>
    let r := s.ring l
    let k := (lo - r.lo) / r.slotBytes
    if r.lo ≤ lo ∧ hi < r.lo + (k + 1) * r.slotBytes ∧ k < r.nslot then .slot l k else .straddle

/-- Some operand straddles a slot boundary: SLOT_RANGE (R65). -/
def slotRange (s : State) (ops : List (Nat × Nat × Bool)) : Bool :=
  ops.any fun o => gateOf s o.1 o.2.1 == .straddle

/-- A vector store that leaves bytes of its operand as they are reads nothing; the tile use of a queue entry: the tile
registers it names (R138). -/
def tileUses (c : Cmd) : List (Fin 16) :=
  match cOpc c with
  | 0x01 => [(opxOf c).ta, (opxOf c).tb]
  | 0x03 | 0x04 | 0x05 | 0x06 => [cTreg c]
  | _ => []

end Sys2Proof.Machine
end

