-- ==== Sys2Proof/Machine/Formats.lean ====
section
/-! DEFINITION. Number formats and arithmetic (chapter 04): element decoding, rounding, the cube step, vector FP32 and
BF16 arithmetic, narrowing with stochastic rounding, block-scale quantisation, transcendentals within their bounds. -/

namespace Sys2Proof.Machine

/-! ## Exact values -/

/-- A number: NaN, an infinity, or (−1)^neg · m · 2^e with its sign kept at zero. -/
inductive Num where
  | nan
  | inf (neg : Bool)
  | fin (neg : Bool) (m : Nat) (e : Int)
deriving DecidableEq, Repr

def Num.isNan : Num → Bool | .nan => true | _ => false
def Num.isInf : Num → Bool | .inf _ => true | _ => false
def Num.isZero : Num → Bool | .fin _ 0 _ => true | _ => false
def Num.sign : Num → Bool | .nan => false | .inf s => s | .fin s _ _ => s
def Num.flip : Num → Num | .nan => .nan | .inf s => .inf (!s) | .fin s m e => .fin (!s) m e

/-- A binary format: exponent and mantissa bits and bias (R79). -/
structure Fp where
  ebits : Nat
  mbits : Nat
  bias : Int
  /-- IEEE 754 infinities and NaN; else E4M3's one NaN code, or none. -/
  ieee : Bool
  nan111 : Bool
deriving DecidableEq, Repr

def fp32 : Fp := ⟨8, 23, 127, true, false⟩
def bf16 : Fp := ⟨8, 7, 127, true, false⟩
def fp16 : Fp := ⟨5, 10, 15, true, false⟩
def e4m3 : Fp := ⟨4, 3, 7, false, true⟩
def e5m2 : Fp := ⟨5, 2, 15, true, false⟩
def e3m2 : Fp := ⟨3, 2, 3, false, false⟩
def e2m3 : Fp := ⟨2, 3, 1, false, false⟩
def e2m1 : Fp := ⟨2, 1, 1, false, false⟩

/-- The element format of a code (R80); integers have none. -/
def fpOf : Nat → Fp
  | 0x1 => bf16 | 0x2 => fp16 | 0x3 => e4m3 | 0x4 => e5m2 | 0x5 => e4m3 | 0x6 => e5m2 | 0x7 => e3m2 | 0x8 => e2m3
  | 0x9 => e2m1 | _ => fp32

/-- The value of the bits `x` in format `f` (R79). -/
def fpDecode (f : Fp) (x : Nat) : Num :=
  let neg := x / 2 ^ (f.ebits + f.mbits) % 2 == 1
  let e := x / 2 ^ f.mbits % 2 ^ f.ebits
  let m := x % 2 ^ f.mbits
  if f.ieee ∧ e = 2 ^ f.ebits - 1 then (if m = 0 then .inf neg else .nan)
  else if f.nan111 ∧ e = 2 ^ f.ebits - 1 ∧ m = 2 ^ f.mbits - 1 then .nan
  else if e = 0 then .fin neg m (1 - f.bias - f.mbits)
  else .fin neg (2 ^ f.mbits + m) ((e : Int) - f.bias - f.mbits)

/-- Least exponent of a normal number, and the largest biased exponent field of a finite one. -/
def Fp.emin (f : Fp) : Int := 1 - f.bias
def Fp.maxField (f : Fp) : Nat := if f.ieee then 2 ^ f.ebits - 2 else 2 ^ f.ebits - 1
/-- The bits of the largest finite magnitude. -/
def Fp.maxBits (f : Fp) : Nat := f.maxField * 2 ^ f.mbits + (2 ^ f.mbits - 1) - (if f.nan111 then 1 else 0)
def Fp.infBits (f : Fp) : Nat := (2 ^ f.ebits - 1) * 2 ^ f.mbits
/-- Canonical NaN (R92, R96). -/
def Fp.nanBits (f : Fp) : Nat :=
  if f.nan111 then 0x7F else f.infBits + 2 ^ (f.mbits - 1)
def Fp.signBit (f : Fp) (neg : Bool) : Nat := if neg then 2 ^ (f.ebits + f.mbits) else 0

/-! ## Rounding (R80, R97) -/

/-- floor(m · 2^e) and whether anything is left, for a dyadic number. -/
def floorDyadic (m : Nat) (e : Int) : Nat :=
  if e ≥ 0 then m * 2 ^ e.toNat else m / 2 ^ (-e).toNat

/-- The magnitude m · 2^e as a multiple of 2^q, rounded by `rm` (R80); `u` is the random number of SR (R97). -/
def roundMag (rm : Nat) (neg : Bool) (u : Nat) (m : Nat) (e q : Int) : Nat :=
  if e ≥ q then m * 2 ^ (e - q).toNat
  else
    let d := (q - e).toNat
    let lo := m / 2 ^ d
    let rem := m % 2 ^ d
    if rem = 0 then lo
    else
      let up : Bool := match rm with
        | 0 => 2 * rem > 2 ^ d || (2 * rem == 2 ^ d && lo % 2 == 1)
        | 1 => false
        | 2 => !neg
        | 3 => neg
        | _ => rem * 65536 / 2 ^ d + u ≥ 65536
      if up then lo + 1 else lo

/-- The exponent of a nonzero magnitude: floor(log2(m · 2^e)). -/
def magExp (m : Nat) (e : Int) : Int := (Nat.log2 m : Int) + e

/-- The bits, without sign, of n · 2^q, where n · 2^q lies on the grid of `f`; above the largest finite it answers
`none`. -/
def encodeGrid (f : Fp) (n : Nat) (q : Int) : Option Nat :=
  if n = 0 then some 0
  else
    let x := magExp n q
    let bits :=
      if x < f.emin then n * 2 ^ (q - (f.emin - f.mbits)).toNat
      else
        let frac := floorDyadic n (q - (x - f.mbits))
        ((x + f.bias).toNat) * 2 ^ f.mbits + (frac - 2 ^ f.mbits)
    if bits ≤ f.maxBits then some bits else none

/-- Rounds a finite magnitude to the grid of `f`, subnormals included. -/
def roundTo (f : Fp) (rm : Nat) (neg : Bool) (u m : Nat) (e : Int) : Option Nat :=
  if m = 0 then some 0
  else
    let q := max (magExp m e - f.mbits) (f.emin - f.mbits)
    encodeGrid f (roundMag rm neg u m e q) q

/-! ## FP32 and BF16 arithmetic of the vector engine (R91 to R93) -/

/-- Input flush: a subnormal counts as zero of the same sign (R91). -/
def flushIn (f : Fp) (n : Num) : Num :=
  match n with
  | .fin s m e => if m ≠ 0 ∧ magExp m e < f.emin then .fin s 0 0 else .fin s m e
  | x => x

def fpIn (f : Fp) (x : Nat) : Num := flushIn f (fpDecode f x)

/-- The result of one rounding to nearest even in `f` (FP32 or BF16): overflow is ±∞, below the normal range zero with
the sign of the exact value (R91, R88). -/
def fpOut (f : Fp) (n : Num) : Nat :=
  match n with
  | .nan => f.nanBits
  | .inf s => f.signBit s + f.infBits
  | .fin s m e =>
    match roundTo f 0 s 0 m e with
    | none => f.signBit s + f.infBits
    | some b => f.signBit s + (if b < 2 ^ f.mbits then 0 else b)

/-- The signed integer of a finite number at exponent `q` ≤ its own. -/
def signedAt (s : Bool) (m : Nat) (e q : Int) : Int :=
  let v : Int := (m * 2 ^ (e - q).toNat : Nat)
  if s then -v else v

/-- The exact sum of two numbers; an exact zero is −0 only when both are −0 (IEEE 754, RNE). -/
def numAdd (a b : Num) : Num :=
  match a, b with
  | .nan, _ | _, .nan => .nan
  | .inf s, .inf t => if s = t then .inf s else .nan
  | .inf s, _ => .inf s
  | _, .inf t => .inf t
  | .fin s m e, .fin t n g =>
    let q := min e g
    let v := signedAt s m e q + signedAt t n g q
    if v = 0 then .fin (s && t && m == 0 && n == 0) 0 0
    else .fin (v < 0) v.natAbs q

def numMul (a b : Num) : Num :=
  match a, b with
  | .nan, _ | _, .nan => .nan
  | .inf s, x => if x.isZero then .nan else .inf (s != x.sign)
  | x, .inf t => if x.isZero then .nan else .inf (x.sign != t)
  | .fin s m e, .fin t n g => .fin (s != t) (m * n) (e + g)

/-- a < b for numbers that are not NaN; −0 lies below +0 when `zeros` holds (R93). -/
def numLt (zeros : Bool) (a b : Num) : Bool :=
  match a, b with
  | .nan, _ | _, .nan => false
  | .inf s, .inf t => s && !t
  | .inf s, _ => s
  | _, .inf t => !t
  | .fin s m e, .fin t n g =>
    let q := min e g
    let x := signedAt s m e q
    let y := signedAt t n g q
    x < y || (zeros && x == y && x == 0 && s && !t)

def numMin (a b : Num) : Num :=
  match a, b with
  | .nan, x => x
  | x, .nan => x
  | x, y => if numLt true y x then y else x
def numMax (a b : Num) : Num :=
  match a, b with
  | .nan, x => x
  | x, .nan => x
  | x, y => if numLt true x y then y else x

/-- The VFP functions (R395) on decoded operands. -/
def vfpNum (fn : Nat) (a b c : Num) : Num :=
  match fn with
  | 0 => numAdd a b
  | 1 => numAdd a b.flip
  | 2 => numMul a b
  | 3 => numAdd (numMul a b) c
  | 4 => numMin a b
  | 5 => numMax a b
  | 6 => (match a with | .fin _ m e => .fin false m e | .inf _ => .inf false | .nan => .nan)
  | _ => a.flip

/-- A VFP function in format `f` (FP32, or one half of a packed BF16 lane). -/
def vfp (f : Fp) (fn a b c : Nat) : Nat := fpOut f (vfpNum fn (fpIn f a) (fpIn f b) (fpIn f c))

/-- VFP on a lane: FP32, or both halves with PK (R155). -/
def vfpLane (pk : Bool) (fn : Nat) (a b c : BitVec 32) : BitVec 32 :=
  if pk then
    BitVec.ofNat 32 (vfp bf16 fn (fld a 0 16) (fld b 0 16) (fld c 0 16) +
      65536 * vfp bf16 fn (fld a 16 16) (fld b 16 16) (fld c 16 16))
  else BitVec.ofNat 32 (vfp fp32 fn a.toNat b.toNat c.toNat)

/-- VINT functions (R395, R95): modulo 2³²; shifts take bits [4:0] of Vb. -/
def vintLane (fn : Nat) (a b : BitVec 32) : BitVec 32 :=
  let sh := b.toNat % 32
  match fn with
  | 0 => a + b | 1 => a - b | 2 => a * b
  | 3 => if a.slt b then a else b
  | 4 => if a.slt b then b else a
  | 5 => a &&& b | 6 => a ||| b | 7 => a ^^^ b | 8 => ~~~a
  | 9 => a <<< sh | 10 => a >>> sh | _ => a.sshiftRight sh

/-- VCMP (R157): cc in FN[2:0], kind in FN[4:3]. -/
def vcmpLane (fn : Nat) (a b : BitVec 32) : Bool :=
  let cc := fn % 8
  let rel (lt eq : Bool) : Bool :=
    match cc with | 0 => eq | 1 => !eq | 2 => lt | 3 => lt || eq | 4 => !lt && !eq | 5 => !lt | _ => false
  match fn / 8 with
  | 1 => rel (a.slt b) (a == b)
  | 2 => rel (a.ult b) (a == b)
  | _ =>
    let x := fpIn fp32 a.toNat
    let y := fpIn fp32 b.toNat
    if x.isNan || y.isNan then cc == 1 || cc == 6
    else if cc = 6 then false
    else if cc = 7 then true
    else rel (numLt false x y) (!numLt false x y && !numLt false y x)

/-! ## The cube step (R87 to R89) -/

/-- The exact sum of finite terms at a common exponent. -/
def exactSum (xs : List Num) : Int × Int :=
  let q := xs.foldl (fun q x => match x with | .fin _ _ e => min q e | _ => q) (0 : Int)
  (xs.foldl (fun v x => match x with | .fin s m e => v + signedAt s m e q | _ => v) 0, q)

/-- R88 on terms: the accumulator `c` (or none, for a sum without one) and the products. -/
def sumTerms (c : Option Num) (ps : List Num) : Num :=
  let all := (match c with | some x => [x] | none => []) ++ ps
  if all.any Num.isNan then .nan
  else
    let infs := all.filter Num.isInf
    if infs.any Num.sign && infs.any (fun x => !x.sign) then .nan
    else match infs with
      | x :: _ => x
      | [] =>
        let v := exactSum all
        if v.1 = 0 then .fin (all.all fun x => x.isZero && x.sign) 0 0
        else .fin (v.1 < 0) v.1.natAbs v.2

/-- The value of an element of format code `f` (R79, R80); subnormals enter exactly (R87). -/
def elemNum (f x : Nat) : Num := fpDecode (fpOf f) x

/-- Multiplies a number by 2^k exactly. -/
def scaleNum (k : Int) : Num → Num
  | .fin s m e => .fin s m (e + k)
  | x => x

/-- One FP32 cube step of a cell (R87, R88): `c` its bits, the element pairs, and the scale bytes of their blocks (127 for
a plain format). The special cases apply to the products before the scale. -/
def cubeStep (c : BitVec 32) (ab : List (Num × Num)) (sa sb : Nat) : BitVec 32 :=
  let cn := fpDecode fp32 c.toNat
  if sa = 255 || sb = 255 then BitVec.ofNat 32 fp32.nanBits
  else
    let k : Int := (sa : Int) - 127 + ((sb : Int) - 127)
    BitVec.ofNat 32 (fpOut fp32 (sumTerms (some cn) (ab.map fun p => scaleNum k (numMul p.1 p.2))))

/-- Clamp to INT32 (R89), and whether it clamped. -/
def sat32 (v : Int) : Int × Bool :=
  if v < -2147483648 then (-2147483648, true) else if v > 2147483647 then (2147483647, true) else (v, false)

/-- One INT8 cube step of a cell (R89). -/
def cubeStepInt (c : BitVec 32) (ab : List (Int × Int)) : BitVec 32 × Bool :=
  let r := sat32 (c.toInt + (ab.map fun p => p.1 * p.2).sum)
  (BitVec.ofInt 32 r.1, r.2)

/-! ## Stochastic rounding bits (R98) -/

def srBits (seed : BitVec 64) (idx st : Nat) : Nat :=
  let n : BitVec 64 := (BitVec.ofNat 64 idx <<< 3) ||| BitVec.ofNat 64 st
  let z := seed + (n + 1) * 0x9E3779B97F4A7C15
  let z := (z ^^^ (z >>> 30)) * 0xBF58476D1CE4E5B9
  let z := (z ^^^ (z >>> 27)) * 0x94D049BB133111EB
  let z := z ^^^ (z >>> 31)
  fld z 0 16

/-! ## Narrowing (R95 to R97) -/

/-- Overflow of an IEEE target for a mode (R96; SR as RZ). -/
def overflowBits (f : Fp) (rm : Nat) (neg : Bool) : Nat :=
  match rm with
  | 0 => f.infBits
  | 2 => if neg then f.maxBits else f.infBits
  | 3 => if neg then f.infBits else f.maxBits
  | _ => f.maxBits

/-- A finite value to target code `fmt` (R96): BF16 0x1, FP16 0x2, E4M3 0x3, E5M2 0x4, or an MX element. -/
def narrowFin (fmt rm u : Nat) (neg : Bool) (m : Nat) (e : Int) : Nat :=
  let f := fpOf fmt
  let mag := match roundTo f rm neg u m e with
    | some b => if fmt = 1 ∧ b < 2 ^ f.mbits then 0 else b
    | none => if fmt = 1 ∨ fmt = 2 then overflowBits f rm neg else f.maxBits
  f.signBit neg + mag

/-- A finite value rounded to an integer and clamped to `w` bits. -/
def narrowInt (w rm u : Nat) (neg : Bool) (m : Nat) (e : Int) : Int :=
  let n := roundMag rm neg u m e 0
  let v : Int := if neg then -(n : Int) else n
  let hi : Int := 2 ^ (w - 1) - 1
  let lo : Int := -(2 ^ (w - 1))
  if v < lo then lo else if v > hi then hi else v

/-- A flushed FP32 value narrowed to a plain format (R95, R96): the element's bits. -/
def narrow (fmt rm u : Nat) (x : Num) : Nat :=
  let f := fpOf fmt
  if fmt = 0xA then
    match x with
    | .nan => 0
    | .inf s => if s then 0x80 else 0x7F
    | .fin s m e => (BitVec.ofInt 8 (narrowInt 8 rm u s m e)).toNat
  else
    match x with
    | .nan => f.nanBits
    | .inf s => f.signBit s + (if fmt = 3 then f.maxBits else f.infBits)
    | .fin s m e => narrowFin fmt rm u s m e

/-! ## Block-scale quantisation (R99, R100) -/

/-- emax of an MX element type (R99). -/
def mxEmax : Nat → Int | 0x5 => 8 | 0x6 => 15 | 0x7 => 4 | _ => 2

/-- The scale byte of a block of flushed inputs. -/
def mxScale (fmt : Nat) (xs : List Num) : Nat :=
  if xs.any (fun x => x.isNan || x.isInf) then 255
  else
    let ex := xs.filterMap fun x => match x with | .fin _ m e => if m = 0 then none else some (magExp m e) | _ => none
    match ex with
    | [] => 0
    | a :: r =>
      let x := (r.foldl max a) - mxEmax fmt
      ((max (-127) (min 127 x)) + 127).toNat

/-- An element of a block with scale byte `sc`. -/
def mxElem (fmt rm u sc : Nat) (x : Num) : Nat :=
  if sc = 255 then 0
  else match x with
    | .fin s m e => narrowFin fmt rm u s m (e - ((sc : Int) - 127))
    | _ => 0

/-! ## Conversions (R95, R158) -/

/-- An INT32 value as a number. -/
def intNum (x : BitVec 32) : Num := .fin (x.toInt < 0) x.toInt.natAbs 0

/-- INT32 to FP32 under a rounding mode; it never overflows. -/
def intToFp32 (rm u : Nat) (x : BitVec 32) : Nat :=
  match intNum x with
  | .fin s m e => narrowFin 0 rm u s m e
  | _ => 0

/-- FP32 to INT32 (R95). -/
def fp32ToInt (rm u : Nat) (x : Num) : BitVec 32 :=
  match x with
  | .nan => 0
  | .inf s => if s then 0x80000000 else 0x7FFFFFFF
  | .fin s m e => BitVec.ofInt 32 (narrowInt 32 rm u s m e)

/-- VCVT of one lane (R158): source and target 0 FP32, 1 INT32, 2 BF16x2; the result, given the lane's old value. -/
def vcvtLane (from_ to_ : Nat) (half : Bool) (rm u : Nat) (x old : BitVec 32) : BitVec 32 :=
  let h := if half then 16 else 0
  let src : Num := match from_ with
    | 0 => fpIn fp32 x.toNat
    | 1 => intNum x
    | _ => fpIn bf16 (fld x h 16)
  match to_ with
  | 0 => (match from_ with
    | 1 => BitVec.ofNat 32 (intToFp32 rm u x)
    | _ => BitVec.ofNat 32 (fpOut fp32 src))
  | 1 => fp32ToInt rm u src
  | _ =>
    let b := narrow 1 rm u src
    let keep := if half then fld old 0 16 else fld old 16 16
    BitVec.ofNat 32 (if half then keep + 65536 * b else b + 65536 * keep)

/-- Exact widening of a memory element to FP32 (R159), a subnormal BF16 kept as the FP32 subnormal of its value; NaN
becomes canonical. -/
def widen (fmt x : Nat) : BitVec 32 :=
  BitVec.ofNat 32 (match fpDecode (fpOf fmt) x with
  | .fin s m e => fp32.signBit s + (roundTo fp32 0 s 0 m e).getD 0
  | n => fpOut fp32 n)

/-! ## Transcendentals (R94) -/

/-- Grid steps of FP32 magnitudes: the bits of n · 2^q rounded down, saturating at the largest finite. -/
def floorBits (m : Nat) (e : Int) : Nat :=
  match roundTo fp32 1 false 0 m e with | some b => b | none => fp32.maxBits

/-- The FP32 magnitudes within `n` units in the last place of a result that lies from m · 2^e to (m + s) · 2^e, `s` far
below a unit: the unit is that of the result's binade. A result of the normal range stays normal and finite; one below it may
flush to zero (R91). -/
def ulpSet (n m s : Nat) (e : Int) : List Nat :=
  let f := floorBits m e
  let k := max (magExp m e) fp32.emin - fp32.mbits
  let hi := min (m + s) (2 ^ (Nat.log2 m + 1))
  let near (b : Nat) : Bool :=
    match fpDecode fp32 b with
    | .fin _ g q =>
      let o := min (min q e) k
      let at_ (x : Nat) (y : Int) : Int := ((x * 2 ^ (y - o).toNat : Nat) : Int)
      let lim := at_ n k
      (at_ g q - at_ m e).natAbs ≤ lim && (at_ g q - at_ hi e).natAbs ≤ lim
    | _ => false
  let bs := ((List.range (4 * n + 1)).map fun i => f + i - 2 * n).filter near
  if f < 2 ^ 23 then bs.map (fun b => if b < 2 ^ 23 then 0 else b) else bs.filter (2 ^ 23 ≤ ·)

/-- A result within `n` units of what `ulpSet` describes, for the flushed input `x`: which one is free (R94, R183). -/
def ulpPick (op : Nat) (x : Num) (n m s : Nat) (e : Int) : Nat :=
  let bs := ulpSet n m s e
  bs.getD (Config.freeUlp op (BitVec.ofNat 32 (fpOut fp32 x)) % bs.length) (floorBits m e)

/-- 2^(f / 2^64) as a fraction of 2^128, by square roots of 2. -/
def exp2Frac (f : Nat) : Nat :=
  ((List.range 64).foldl (fun (acc : Nat × Nat) i =>
    let r := Nat.sqrt (acc.1 * 2 ^ 128)
    (r, if f / 2 ^ (63 - i) % 2 = 1 then acc.2 * r / 2 ^ 128 else acc.2)) (2 * 2 ^ 128, 2 ^ 128)).2

/-- The 64 fraction bits of log2(y / 2^160), y in [2^160, 2^161). -/
def log2Frac (y : Nat) : Nat :=
  ((List.range 64).foldl (fun (acc : Nat × Nat) _ =>
    let z := acc.1 * acc.1 / 2 ^ 160
    if z ≥ 2 ^ 161 then (z / 2, 2 * acc.2 + 1) else (z, 2 * acc.2)) (y, 0)).2

def rcp (x : BitVec 32) : BitVec 32 :=
  BitVec.ofNat 32 (match fpIn fp32 x.toNat with
  | .nan => fp32.nanBits
  | .inf s => fp32.signBit s
  | .fin s 0 _ => fp32.signBit s + fp32.infBits
  | .fin s m e =>
    let q := 2 ^ 80 / m
    fp32.signBit s + (if floorBits q (-80 - e) < 2 ^ 23 then 0
      else ulpPick 0 (.fin s m e) 1 q (if 2 ^ 80 % m = 0 then 0 else 1) (-80 - e)))

def rsqrt (x : BitVec 32) : BitVec 32 :=
  BitVec.ofNat 32 (match fpIn fp32 x.toNat with
  | .nan => fp32.nanBits
  | .inf s => if s then fp32.nanBits else 0
  | .fin s 0 _ => fp32.signBit s + fp32.infBits
  | .fin true _ _ => fp32.nanBits
  | .fin false m e =>
    let m2 := if e % 2 = 0 then m else 2 * m
    let h := (if e % 2 = 0 then e else e - 1) / 2
    let r := Nat.sqrt (2 ^ 160 / m2)
    ulpPick 1 (.fin false m e) 1 r (if r * r * m2 = 2 ^ 160 then 0 else 1) (-80 - h))

def exp2 (x : BitVec 32) : BitVec 32 :=
  BitVec.ofNat 32 (match fpIn fp32 x.toNat with
  | .nan => fp32.nanBits
  | .inf s => if s then 0 else fp32.infBits
  | .fin s m e =>
    if m = 0 then ulpPick 2 (.fin s 0 e) 2 1 0 0
    else if !s && magExp m e ≥ 7 then fp32.infBits
    else if s && numLt false (.fin s m e) (.fin true 126 0) then 0
    else
      let n := floorDyadic m (e + 64)
      let exact : Bool := e ≥ -64 || m % 2 ^ (-(e + 64)).toNat == 0
      let v : Int := if s then (if exact then -(n : Int) else -(n : Int) - 1) else n
      let i : Int := v / 2 ^ 64
      let f := (v - i * 2 ^ 64).toNat
      ulpPick 2 (.fin s m e) 2 (exp2Frac f) (if exact && f == 0 then 0 else 2 ^ 68) (i - 128))

def log2 (x : BitVec 32) : BitVec 32 :=
  BitVec.ofNat 32 (match fpIn fp32 x.toNat with
  | .nan => fp32.nanBits
  | .inf s => if s then fp32.nanBits else fp32.infBits
  | .fin _ 0 _ => fp32.signBit true + fp32.infBits
  | .fin true _ _ => fp32.nanBits
  | .fin false m e =>
    let k := magExp m e
    if m = 2 ^ Nat.log2 m then fpOut fp32 (.fin (k < 0) k.natAbs 0)
    else
      let v : Int := k * 2 ^ 64 + (log2Frac (m * 2 ^ (160 - Nat.log2 m)) : Nat)
      fp32.signBit (v < 0) + ulpPick 3 (.fin false m e) 2 (if v < 0 then v.natAbs - 1 else v.natAbs) 1 (-64))

/-- VTRANS functions (R395). -/
def transLane (fn : Nat) (x : BitVec 32) : BitVec 32 :=
  match fn with | 0 => rcp x | 1 => rsqrt x | 2 => exp2 x | _ => log2 x

/-- FLOOR of a Tread (R189): toward −∞ to an integral value. -/
def floorFp (x : BitVec 32) : BitVec 32 :=
  BitVec.ofNat 32 (match fpIn fp32 x.toNat with
  | .fin s m e =>
    if e ≥ 0 ∨ m = 0 then fpOut fp32 (.fin s m e)
    else fpOut fp32 (.fin s (roundMag 3 s 0 m e 0) 0)
  | n => fpOut fp32 n)

/-- log2 e in units of 2^-128, rounded down. -/
def log2e : Nat := 490923683258796565746369346286093237521

/-- e^(-y) for y = v / 2^64, as (m, n) with value m / 2^(128 + n) and m in [2^128, 2^129). -/
def expNeg (v : Nat) : Nat × Nat :=
  let t : Int := -((v * log2e / 2 ^ 128 : Nat) : Int)
  let i := t / 2 ^ 64
  (exp2Frac (t - i * 2 ^ 64).toNat, i.natAbs)

/-- 1 / (1 + e^(-y)) for y = ±v / 2^64, as (m, q) with value m / 2^q. -/
def logistic (neg : Bool) (v : Nat) : Nat × Nat :=
  let e := expNeg v
  let one := 2 ^ (128 + e.2)
  if neg then (e.1 * one / (one + e.1), 128 + e.2) else (2 ^ 128 * one / (one + e.1), 128)

/-- |x| in units of 2^-64, held at 256: beyond it e^(-|x|) lies below every FP32 magnitude. -/
def unitsHeld (m : Nat) (e : Int) : Nat :=
  if m = 0 then 0 else if magExp m e ≥ 8 then 2 ^ 72 else floorDyadic m (e + 64)

/-- The exact magnitude of the SIGMOID, TANH, SILU or GELU of ±m · 2^e (R183), to 60 bits and rounded down. TANH of a small
argument follows x - x³/3, which is exact to 2^-80. -/
def activationMag (fn : Nat) (neg : Bool) (m : Nat) (e : Int) : Nat × Int :=
  let v := unitsHeld m e
  match fn with
  | 0 => let l := logistic neg v; (l.1, -l.2)
  | 1 =>
    if m = 0 then (0, 0)
    else if magExp m e < -16 then
      let k := (-2 * e).toNat
      (m * 2 ^ k - m ^ 3 / 3, e - k)
    else
      let x := expNeg (2 * v)
      let one := 2 ^ (128 + x.2)
      (2 ^ 128 * (one - x.1) / (one + x.1), -128)
  | 2 => let l := logistic neg v; (m * l.1, e - l.2)
  | _ =>
    let c := v ^ 3 * 44715 / (1000000 * 2 ^ 128)
    let z := 2 * (v + c) * 7978846 / 10000000
    let l := logistic neg (min z (2 ^ 72))
    (m * l.1, e - l.2)

/-- SIGMOID, TANH, SILU and GELU (0 to 3; R183): the limits at ±∞, canonical NaN, and elsewhere a result within 4 ulp of
the exact function, which one being free. -/
def activation (fn : Nat) (x : BitVec 32) : BitVec 32 :=
  match fpIn fp32 x.toNat with
  | .nan => 0x7FC00000
  | .inf s =>
    (match fn with
    | 0 => if s then 0 else 0x3F800000
    | 1 => if s then 0xBF800000 else 0x3F800000
    | _ => if s then 0x80000000 else 0x7F800000)
  | .fin s m e =>
    let y := activationMag fn s m e
    let r := if y.1 = 0 then 0 else ulpPick (4 + fn) (.fin s m e) 4 y.1 (y.1 / 2 ^ 56) y.2
    BitVec.ofNat 32 (fp32.signBit (s && fn != 0) + r)

end Sys2Proof.Machine
end

