-- ==== Sys2Proof/Machine/Tags.lean ====
section
/-! DEFINITION. Stream descriptors (R225), and tag gating: which access waits on which slot, and when a slot tag lets an
access take its entry (R61, R211, R212, R215, R216). -/

namespace Sys2Proof.Machine

/-! ## Descriptors (R225) -/

abbrev Desc := BitVec 512

def dw (d : Desc) (w lo len : Nat) : Nat := fld d (64 * w + lo) len
def dKind (d : Desc) : Nat := dw d 0 0 4
def dLast (d : Desc) : Bool := dw d 0 4 1 == 1
def dFill (d : Desc) : Bool := dw d 0 5 1 == 1
def dSrcKind (d : Desc) : Nat := dw d 0 8 2
def dDstKind (d : Desc) : Nat := dw d 0 10 2
def dSrcGal (d : Desc) : Fin 4 := Fin.ofNat 4 (dw d 0 12 2)
def dDstGal (d : Desc) : Fin 4 := Fin.ofNat 4 (dw d 0 14 2)
def dSig (d : Desc) : Option (BitVec 13) := if dw d 0 16 1 = 1 then some (BitVec.ofNat 13 (dw d 0 17 13)) else none
def dDcnt (d : Desc) : Option Advance :=
  if dw d 0 30 1 = 1 then some ⟨dw d 0 31 1 == 1, BitVec.ofNat 13 (dw d 0 32 13)⟩ else none
def dRb (d : Desc) : Nat := (dw d 1 0 12 + 1) * 16
def dRows (d : Desc) : Nat := dw d 1 16 12 + 1
def dSrc (d : Desc) : Nat := dw d 2 0 64
def dDst (d : Desc) : Nat := dw d 3 0 64
def dSstride (d : Desc) : Nat := dw d 4 0 32
def dDstride (d : Desc) : Nat := dw d 4 32 32
def dIdxAddr (d : Desc) : Nat := dw d 5 0 32
def dIdxLimit (d : Desc) : Nat := dw d 5 32 32
/-- COPY, GATHER and SCATTER are tiles (R226). -/
def dTile (d : Desc) : Bool := dKind d == 1 || dKind d == 2 || dKind d == 3
def dIndexed (d : Desc) : Bool := dKind d == 2 || dKind d == 3

/-- The local ranges of a tile in order source, destination, index array (R228): lowest byte, length, write. -/
def dRanges (d : Desc) : List (Nat × Nat × Bool) :=
  let span (base stride n : Nat) : Nat × Nat := (base, (n - 1) * stride + dRb d)
  let src := span (dSrc d) (dSstride d) (if dKind d = 2 then dIdxLimit d else dRows d)
  let dst := span (dDst d) (dDstride d) (if dKind d = 3 then dIdxLimit d else dRows d)
  (if dSrcKind d = 0 then [(src.1, src.2, false)] else []) ++
  (if dDstKind d = 0 then [(dst.1, dst.2, true)] else []) ++
  (if dIndexed d then [(dIdxAddr d, 4 * dRows d, false)] else [])

/-- The descriptor a context starts next: the walk's position inside the block it holds (R224). -/
def Ctx.nextDesc? (c : Ctx) : Option (Nat × Desc) :=
  match c.gen with
  | none => none
  | some g =>
    if g.lastSeen then none else
    match g.block with
    | none => none
    | some (base, ds) =>
      if base ≤ g.next then (ds[(g.next - base) / 64]?).map fun d => (g.next, d) else none

/-! ## A job's bytes -/

/-- The byte delivered last for address `a`. -/
def bufGet (buf : List Host.Cell) (a : Nat) : Option (BitVec 8) := (buf.reverse.find? (fun c => c.1 == a)).map (·.2)
def bufHas (buf : List Host.Cell) (a n : Nat) : Bool := (List.range n).all fun i => (bufGet buf (a + i)).isSome
def bufBytes (buf : List Host.Cell) (a n : Nat) : List (BitVec 8) :=
  (List.range n).map fun i => (bufGet buf (a + i)).getD 0

/-! ## Rows -/

/-- What becomes of row `r` (R226, R231). -/
inductive RowPlan where
  | wait | skip | bad
  | move (src dst : Nat)
deriving DecidableEq

/-- Index words lie in a job's buffer above every address, so that no destination meets them. -/
def idxKey (a : Nat) : Nat := 2 ^ 64 + a

def rowPlan (d : Desc) (buf : List Host.Cell) (r : Nat) : RowPlan :=
  let go (k : Nat) : RowPlan :=
    .move (dSrc d + (if dKind d = 2 then k else r) * dSstride d) (dDst d + (if dKind d = 3 then k else r) * dDstride d)
  if dIndexed d then
    let a := idxKey (dIdxAddr d + 4 * r)
    if bufHas buf a 4 then
      let i := leNat (bufBytes buf a 4)
      if i = 0xFFFFFFFF then .skip else if i < dIdxLimit d then go i else .bad
    else .wait
  else go r

/-- The range entries of a tile job: source, destination, index array (R228). -/
def tileEntries (d : Desc) (es : List Nat) : Option Nat × Option Nat × Option Nat :=
  let src := dSrcKind d = 0
  let dst := dDstKind d = 0
  ((if src then es[0]? else none), (if dst then es[if src then 1 else 0]? else none),
   (if dIndexed d then es.getLast? else none))

/-! ## Accesses at a slot tag -/

/-- The gated operands of a list: ring, slot, and whether the access writes. -/
def gatedOf (s : State) (ops : List (Nat × Nat × Bool)) : List (Fin 64 × Nat × Bool) :=
  ops.filterMap fun o => match gateOf s o.1 o.2.1 with | .slot l k => some (l, k, o.2.2) | _ => none

/-- Operands of a queue entry, under its VL and what a FLT.GO captured. -/
def QEntry.operands (e : QEntry) : List (Nat × Nat × Bool) := cmdOperands e.raw e.vl e.cap

/-- The local address a Gallery offset is mapped to by the window that covers it (R264). -/
def State.galLocal (s : State) (g : Fin 4) (o : Nat) : Nat :=
  match ((List.finRange 64).map s.window).find? (fun w => w.en && !w.sync && bitAt w.ports (g.val + 1) &&
      w.base.toNat * 4096 ≤ o && o < w.base.toNat * 4096 + 2 ^ w.sizeLog2.toNat) with
  | some w => w.target.toNat + (o - w.base.toNat * 4096)
  | none => o

/-- The lookahead lets the context start its next tile (R234). -/
def Ctx.lookaheadOk (x : Ctx) (free : BitVec 32) : Bool :=
  if x.link then (x.d - (free - x.b)).toNat < x.lookahead.toNat
  else (x.tiles.filter fun t => !t.complete).length < x.lookahead.toNat

/-- As `lookaheadOk`, with SYNC.LOCAL passed since a FREE advance let it (R234). -/
def State.lookaheadLets (s : State) (x : Ctx) : Bool :=
  x.lookaheadOk (syncGet s x.free.toNat) && (!x.link || x.freeAt ≤ s.now)

/-- The command at the head of queue `q`, once USH.PUSH has passed. -/
def State.waiting? (s : State) (q : Fin 8) : Option QEntry :=
  match (s.queue q).cmds with
  | e :: _ => if e.pushedAt + Config.ushPush ≤ s.now then some e else none
  | [] => none

/-- Every gated access some unit has reached: the heads of the tile and vector queues, the next descriptor of each
ACTIVE context whose lookahead lets it start, a Gallery tile that waits for its slot. -/
def State.headGates (s : State) : List (Fin 64 × Nat × Bool) :=
  let q (n : Fin 8) : List (Fin 64 × Nat × Bool) :=
    match s.waiting? n with
    | none => []
    | some e => let ops := e.operands; if e.entries.length = ops.length then [] else gatedOf s ops
  let st := (List.finRange 4).flatMap fun n => (List.finRange 4).flatMap fun c =>
    let x := s.ctx n c
    if x.st = .active then match x.nextDesc? with
      | some (_, d) => if dTile d && s.lookaheadLets x then gatedOf s (dRanges d) else []
      | none => []
    else []
  let gl := (List.finRange 4).flatMap fun g =>
    match s.gal[g].rx with
    | f :: _ => if f.first && !s.gal[g].refusing && s.gal[g].openTile?.isNone then
        gatedOf s [(s.galLocal g f.addr.toNat, flitSize f, true)] else []
    | [] => []
  q 2 ++ q 3 ++ st ++ gl

/-- Slot of entry `e` of ring `l`, and whether a refill of that slot is due before a write may take it: the entry
lies in the region and a read waits for it, or AHEAD covers it (R216). -/
def Ring.slotFor (r : Ring) (e : BitVec 32) : Nat := e.toNat % r.nslot

/-- A read waits at the slot of entry RSEQ. -/
def State.readWants (s : State) (l : Fin 64) : Bool :=
  let r := s.ring l
  s.headGates.any fun g => g.1 == l && g.2.1 == r.slotFor r.rseq && !g.2.2

/-- Entry `x` of the region is wanted (R216): a read waits for it, or it lies in RSEQ + 1 to RSEQ + AHEAD. -/
def State.refillWants (s : State) (l : Fin 64) (x : BitVec 32) : Bool :=
  let r := s.ring l
  (x == r.rseq && s.readWants l) || (1 ≤ (x - r.rseq).toNat && (x - r.rseq).toNat ≤ r.ahead.toNat)

/-- The tag lets this access take its entry (R211, R212; a refill of an older entry goes first, R216). -/
def tagPermits (s : State) (l : Fin 64) (k : Nat) (wr : Bool) : Bool :=
  let r := s.ring l
  match r.slots[k]? with
  | none => false
  | some x =>
    if wr then
      x.tag == .empty &&
        (!r.kind || (k == r.slotFor r.wseq &&
          !(r.region.any fun p => r.slotFor p.1 == k && s.refillWants l p.1)))
    else
      x.tag == .full && x.taken < r.reads.toNat && (!r.kind || (k == r.slotFor r.rseq && x.entry == r.rseq))

/-- What taking the entry does to the slot and, in a Landing, to the sequence (R211, R212). -/
def tagTake (l : Fin 64) (k : Nat) (wr : Bool) (s : State) : State :=
  let r := s.ring l
  if wr then
    let s := setSlot l k (fun x => { x with tag := .writing, entry := if r.kind then r.wseq else 0, taken := 0, done := 0 }) s
    if r.kind then modRing l (fun r => { r with wseq := r.wseq + 1 }) s else s
  else
    let last := match r.slots[k]? with | some x => x.taken + 1 == r.reads.toNat | none => false
    let s := setSlot l k (fun x => { x with taken := x.taken + 1 }) s
    if r.kind && last then modRing l (fun r => { r with rseq := r.rseq + 1 }) s else s

/-- Every gated operand of the list may take its entry, and the table has room for it (R63). -/
def canTake (s : State) (ops : List (Nat × Nat × Bool)) : Bool :=
  (gatedOf s ops).all (fun g => tagPermits s g.1 g.2.1 g.2.2) && s.inUse + (gatedOf s ops).length ≤ Config.rangeEntries

/-- Takes the entry of one operand, gated or not. -/
def takeOne (unit : MemUnit) (o : Nat × Nat × Bool) (s : State) : Nat × State :=
  match gateOf s o.1 o.2.1 with
  | .slot l k => takeEntry o.1 (o.1 + o.2.1 - 1) o.2.2 unit (some (l, k)) (tagTake l k o.2.2 s)
  | _ => takeEntry o.1 (o.1 + o.2.1 - 1) o.2.2 unit none s

/-- The entries of a command's operands, in operand order: those taken at the push, and now the gated ones (R61). -/
def takeAtStart (unit : MemUnit) (ops : List (Nat × Nat × Bool)) (had : List Nat) (s : State) : List Nat × State :=
  if had.length = ops.length then (had, s)
  else
    let r := ops.foldl (fun (acc : List Nat × List Nat × State) o =>
      match gateOf acc.2.2 o.1 o.2.1 with
      | .slot _ _ => let t := takeOne unit o acc.2.2; (acc.1 ++ [t.1], acc.2.1, t.2)
      | _ => match acc.2.1 with
        | e :: r => (acc.1 ++ [e], r, acc.2.2)
        | [] => let t := takeOne unit o acc.2.2; (acc.1 ++ [t.1], [], t.2)) ([], had, s)
    (r.1, r.2.2)

/-- The accesses that wait on a tag now (R213, LAND_STAT.WAIT): reached, and not permitted. -/
def State.tagWaits (s : State) : List (Fin 64 × Nat × Bool) :=
  s.headGates.filter fun g => !tagPermits s g.1 g.2.1 g.2.2

end Sys2Proof.Machine
end

