-- ==== Sys2Proof/Machine/Abort.lean ====
section
/-! DEFINITION. Faults and how work stops: a precise fault of a thread (R69 to R71), an engine fault, the task abort
(R69, R121, R142, R238, R240, R218), the stop of a stop mark (R29), the Usher reset (R76). -/

namespace Sys2Proof.Machine

/-! ## Discarding queues -/

/-- Discards every engine queue, held first entries and held commands with it, and releases the entries its commands
took at the push. A waiting TCFG or TREL sees the discarded uses of its register as retired now (R142). -/
def discardQueues (s : State) : State :=
  let es := s.ush.queues.toList.flatMap fun q => q.cmds.flatMap QEntry.entries
  let held := match s.tile.held with | some e => e.entries | none => []
  let used (t : Nat) : Bool := match s.tile.cfg with
    | some (c, _) => (cTreg c.raw).val == t &&
        s.ush.queues.toList.any fun q => q.cmds.any fun e => e.seq < c.seq && (tileUses e.raw).contains (cTreg c.raw)
    | none => false
  let s := releaseAll (es ++ held) false s
  { s with
    ush := { s.ush with queues := Vector.replicate 8 ⟨[], none⟩ },
    opa := s.opa.map fun a => { a with held := false },
    tile := { s.tile with
      held := none,
      regs := s.tile.regs.mapFinIdx fun i r _ => if used i then { r with retiredAt := max r.retiredAt s.now } else r },
    vec := { s.vec with held := false, heldFlt := false } }

/-! ## Stopping a started TLD or TST at its row boundary (R142) -/

def tileKindCode (c : Cmd) : Nat := match cOpc c with | 0x04 => 1 | 0x05 => 2 | 0x03 => 3 | 0x06 => 4 | _ => 0

/-- TILE_START_ROW for a command interrupted at `row` (R143). -/
def recordStartRow (e : QEntry) (row cause : Nat) (s : State) : State :=
  let m := tmoveOf e.raw
  let row := if cOpc e.raw = 0x04 ∨ cOpc e.raw = 0x05 then (if m.scl ≠ 0 ∧ m.sbax then row / 32 * 32 else row) else 0
  { s with tile := { s.tile with
      startRow := BitVec.ofNat 10 row, startTreg := BitVec.ofNat 4 (cTreg e.raw).val,
      startKind := BitVec.ofNat 3 (tileKindCode e.raw), startCause := BitVec.ofNat 2 cause,
      startSeq := BitVec.ofNat 32 e.seq } }

def Job.tileEntry? (j : Job) : Option QEntry :=
  match j.kind with | .tld e => some e | .tst e => some e | _ => none

/-- Stops the rows of tile job `j` that no grant has begun; answers the first of them. -/
def stopRows (j : Job) (s : State) : Option Nat × State :=
  match j.tileEntry? with
  | none => (none, s)
  | some e =>
    let row := max j.top (tmoveOf e.raw).first
    if s.reqs.any (fun r => r.job == j.id && r.tag / 2 ≥ row) then
      (some row, dropReqs j.id (fun r => r.tag / 2 < row) s)
    else (none, s)

/-- The last use of tile register `t` retired in the present cycle (R138, R140). -/
def retireUse (t : Fin 16) (s : State) : State :=
  let r := s.tile.regs[t]
  { s with tile := { s.tile with regs := s.tile.regs.set t { r with retiredAt := max r.retiredAt s.now } } }

/-- The use of tile command `e` retires; after a TLD a TST may start from the next cycle (R139). -/
def retireMove (e : QEntry) (s : State) : State :=
  let t := cTreg e.raw
  let s := retireUse t s
  let r := s.tile.regs[t]
  if cOpc e.raw = 0x04 then { s with tile := { s.tile with regs := s.tile.regs.set t { r with loadedAt := s.now + 1 } } } else s

/-- A finished voided tile job: its entries go, its slots as after a fault (R142, R211). -/
def reapMove (id : Nat) (s : State) : State :=
  match s.job? id with
  | some j =>
    match j.tileEntry? with
    | some e =>
      if j.voided && j.left == 0 && !(s.tile.landbuf.any fun x => x.job == id) then
        retireMove e (dropJob id (releaseAll j.entries false s))
      else s
    | none => s
  | none => s

def stopTiles (s : State) : State :=
  s.jobs.foldl (fun s j =>
    match j.tileEntry? with
    | none => s
    | some e =>
      if j.voided then s else
      match stopRows j s with
      | (none, s) => s
      | (some row, s) => reapMove j.id (modJob j.id (fun j => { j with voided := true }) (recordStartRow e row 3 s))) s

/-! ## Cancelling stream contexts (R238) and Landing moves (R218) -/

/-- Outbound transfers that have not begun and that `mine` owns are withdrawn; one whose data has come spends its slots all
the same (R243). -/
def dropXfers (mine : Holder → Bool) (s : State) : State :=
  { s with fab := { s.fab with xfers := s.fab.xfers.filter fun x => !(mine x.holder && x.tag.isNone && !x.done) } }

/-- Flits of stream job `id` that no Gallery has sent are withdrawn. -/
def dropFlits (id : Nat) (s : State) : State :=
  { s with gal := s.gal.map fun g => { g with tx := g.tx.filter fun f => f.job != id } }

/-- Transfers, flits and acknowledgements a stream job still waits for. -/
def State.outOf (s : State) (id : Nat) : Nat :=
  (s.fab.xfers.filter fun x => !x.done && (match x.holder with | .strm _ _ j => j == id | .landing _ j => j == id | _ => false)).length +
  (s.gal.toList.map fun g => (g.tx.filter fun f => f.job == id).length + (g.acks.filter fun a => a.job == id).length +
    (g.reads.filter fun a => a.job == id).length).sum

/-- A voided stream tile with nothing left in flight ends: entries released, slots as after a fault, no signal. -/
def reapTile (id : Nat) (s : State) : State :=
  match s.job? id with
  | some j =>
    match j.kind with
    | .tile n c _ _ =>
      if j.voided && j.left == 0 && s.outOf id == 0 then
        modCtx n c (fun x => { x with tiles := x.tiles.filter fun t => t.job != id })
          (dropJob id (releaseAll j.entries false s))
      else s
    | _ => s
  | none => s

/-- Read request `r` of job `j` feeds a fabric write that has begun: the write completes, so its lines are still read. -/
def State.feedsBegun (s : State) (j : Job) (d : Desc) (r : LineReq) : Bool :=
  r.tag % 2 == 0 && match rowPlan d j.buf (r.tag / 2) with
    | .move src dst =>
      let a := dst + (r.addr - src)
      s.fab.xfers.any fun x => x.tag.isSome && !x.done &&
        (match x.holder, x.kind with | .strm _ _ k, .write _ _ => k == j.id | _, _ => false) &&
        x.addr.toNat < a + r.len && a < x.addr.toNat + x.len
    | _ => false

/-- What a stopped tile keeps of its ungranted requests: writes of data that has come, and reads of begun writes (R238). -/
def State.tileKeeps (s : State) (id : Nat) (r : LineReq) : Bool :=
  r.wr.isSome || match s.job? id with
    | some j => (match j.kind with | .tile _ _ d _ => s.feedsBegun j d r | _ => false)
    | none => false

/-- A block read that is given up: what it has issued completes, and its entry is released then. -/
def dropBlock (g : Gen) (s : State) : State :=
  match g.fetch with
  | some (_, _, some id) =>
    let s := modJob id (fun j => { j with voided := true }) (dropReqs id (fun _ => false) s)
    (match s.job? id with
    | some j => if j.left = 0 then dropJob id (releaseAll j.entries false s) else s
    | none => s)
  | _ => s

/-- Steps 1 to 5 of R238 on context `c` of engine `n`: it becomes CANCELLING, or stays IDLE. -/
def cancelCtx (n c : Fin 4) (s : State) : State :=
  let x := s.ctx n c
  if x.st = .idle then s else
  let s := match x.gen with | some g => dropBlock g s | none => s
  let s := modCtx n c (fun x => { x with
    st := .cancelling, gen := none, pend := none, held := [],
    tiles := x.tiles.filter fun t => !t.complete }) s
  (s.ctx n c).tiles.foldl (fun s t =>
    let s := dropReqs t.job (s.tileKeeps t.job) s
    let s := dropFlits t.job (dropXfers (fun h => match h with | .strm _ _ j => j == t.job | _ => false) s)
    reapTile t.job (modJob t.job (fun j => { j with voided := true, bad := none }) s)) s

/-- The cancel of a context has nothing left in flight: it becomes IDLE, its STRM.CANCEL commands signal, and a
generation that arrived meanwhile becomes active as from IDLE (R238 step 6, R223). -/
def finishCancel (n c : Fin 4) (s : State) : State :=
  let x := s.ctx n c
  if x.st = .cancelling ∧ x.tiles.isEmpty then
    let free := syncGet s x.free.toNat
    let s := modCtx n c (fun x => match x.pend with
      | none => { x with st := .idle, cancelSigs := [] }
      | some g => { x with
          st := .active, cancelSigs := [], pend := none, d := 0, b := free,
          gen := some { g with fetch := some (g.next, s.now, none) } }) s
    x.cancelSigs.foldl (fun s sig => signal sig.toNat s) s
  else s

def allCtx : List (Fin 4 × Fin 4) := (List.finRange 4).flatMap fun n => (List.finRange 4).map fun c => (n, c)

def cancelAll (s : State) : State := allCtx.foldl (fun s nc => cancelCtx nc.1 nc.2 s) s

/-- A Landing move that was stopped and has nothing left in flight ends: a spill leaves the entry in its slot, a
refill leaves the slot EMPTY (assumption 10). -/
def reapLanding (l : Fin 64) (s : State) : State :=
  match (s.ring l).xfer with
  | none => s
  | some x =>
    match s.job? x.job with
    | none => s
    | some j =>
      if j.voided && j.left == 0 && s.outOf j.id == 0 then
        let s := dropJob j.id (releaseAll j.entries false s)
        let s := setSlot l x.slot (fun y => if x.spill then { y with tag := .full } else emptySlot) s
        modRing l (fun r => { r with xfer := none }) s
      else s

/-- Transfers of Landing moves already started complete, and no new one starts (R218). -/
def stopLandings (s : State) : State :=
  (List.finRange 64).foldl (fun s l =>
    match (s.ring l).xfer with
    | none => s
    | some x =>
      if x.spill && x.hallDone then s
      else
        let s := dropReqs x.job (fun r => r.wr.isSome) s
        let s := dropXfers (fun h => match h with | .landing _ j => j == x.job | _ => false) s
        reapLanding l (modJob x.job (fun j => { j with voided := true }) s)) s

/-! ## Task abort (R69) and stop mark (R29) -/

/-- What both do to the engines: queues are discarded, started commands run to their end as each unit's chapter
gives. -/
def stopEngines (s : State) : State := stopLandings (cancelAll (stopTiles (discardQueues s)))

/-- R69 step 2 for one thread: it stops. A thread that is FAULTED keeps its state (assumption 20). -/
def haltThread (th : Thread) : Thread :=
  match th.st with
  | .faulted => th
  | _ => { th with st := .halted, stop := false }

/-- The range entry that a thread in a release fence took at the issue of its atomic. -/
def Thread.fenceEntry (th : Thread) : List Nat :=
  match th.st with
  | .waitSync (.fence _ (some e) _ _) => [e]
  | _ => []

/-- The atomics that threads of `ts` hold in a release fence are not performed: their entries go. -/
def dropFences (ts : List (Fin 16)) (s : State) : State :=
  releaseAll (ts.flatMap fun t => (s.thread t).fenceEntry) false s

def taskThreads : List (Fin 16) := allThreads.filter (· ≠ fwThread)

/-- The task threads that the slots left in this cycle would have gone to (R53). -/
def State.slotsLeft (s : State) : List (Fin 16) :=
  let order : List (Fin 16) := match s.ush.slot0 with
    | some u => u.order.drop 1
    | none => s.issueOrder
  (order.take (2 - s.ush.slotsUsed)).filter fun t => t != fwThread && s.canIssue t

/-- Steps 2 to 4 of R69, without the job-fatal record. -/
def taskAbort (s : State) : State :=
  let s := dropFences taskThreads s
  let s := { s with ush := { s.ush with
    stopped := s.slotsLeft,
    threads := s.ush.threads.mapFinIdx fun i th _ => if i = 15 then th else haltThread th,
    task := .aborted } }
  countEvt .ush 2 (stopEngines s)

/-- Aborts the task for a fault of page `p` with `code` whose occurrence has SEQ value `seq`; a task that is aborted
already is not aborted again. The record names the fault (R328). -/
def abortFor (p : Page) (code : Nat) (seq : BitVec 32) (s : State) : State :=
  if s.ush.task = .aborted then s else taskAbort (jobFatal p code seq s)

/-- The abort for a memory fault of code 0x18 or 0x19 logged in page `p`: a line that no code corrects aborts only a
running task (R206, R209). -/
def memAbort (p : Page) (code : Nat) (seq : BitVec 32) (s : State) : State :=
  if code = 0x18 ∧ s.ush.task ≠ .running then s else abortFor p code seq s

/-- A task-aborting fault of an engine, logged in its page under the default layout. -/
def engineFault (p : Page) (bit code detail seq : Nat) (s : State) : State :=
  let s := logEvt p bit (defaultLog code detail seq) s
  abortFor p code (s.seqOf p bit) s

/-- A job event: logged, and job-fatal (R326). -/
def jobEvent (p : Page) (bit code detail : Nat) (s : State) : State :=
  let s := logEvt p bit (defaultLog code detail 0) s
  jobFatal p code (s.seqOf p bit) s

/-! ## Precise faults (R69 to R71) -/

/-- The full instruction-memory address of a pc (R71). -/
def fullPc (pc : BitVec 18) : BitVec 64 := BitVec.ofNat 64 (Config.imemBase + pc.toNat)

/-- The firmware's fault vector: FW_TOP − 256, as an offset (R71). -/
def faultVector (s : State) : BitVec 18 := BitVec.ofNat 18 (s.ush.fwTop.toNat * 4096) - 256

/-- Control passes to the fault vector, with the code in S31 and the faulting pc in S30; inside the handler thread 15
stops in FAULTED (R71). -/
def firmwareFault (code : Nat) (pc : BitVec 18) (s : State) : State :=
  if s.ush.inHandler then
    modThread fwThread (fun th => { th with pc := pc, st := .faulted, fault := BitVec.ofNat 8 code }) s
  else
    let s := modThread fwThread (fun th =>
      let th := (th.setReg 31 (BitVec.ofNat 64 code)).setReg 30 (fullPc pc)
      { th with pc := faultVector s, st := .ready, fault := BitVec.ofNat 8 code }) s
    { s with ush := { s.ush with inHandler := true } }

/-- A precise fault of thread `t` at the instruction at `pc`. -/
def preciseFaultAt (t : Fin 16) (pc : BitVec 18) (code : Nat) (s : State) : State :=
  let s := logEvt .ush 1 (defaultLog code t.val s.ush.pushSeq.toNat) s
  let seq := s.seqOf .ush 1
  if t = fwThread then firmwareFault code pc s
  else
    let s := modThread t (fun th => { th with pc := pc, st := .faulted, fault := BitVec.ofNat 8 code }) s
    if s.clu.live then s else abortFor .ush code seq s

/-- A precise fault of thread `t` at its present instruction, which changes nothing else. -/
def preciseFault (t : Fin 16) (code : Nat) (s : State) : State := preciseFaultAt t (s.thread t).pc code s

/-! ## Usher reset (R76, R78) -/

/-- A request that an Usher or cluster reset finds pending is answered LOST (R383). -/
def mgmtLost (s : State) : State :=
  if s.mgmt.pending then
    countEvt .mgmt 0 { s with mgmt := { s.mgmt with pending := false, rspStatus := 5, rspSeq := s.mgmt.reqSeq } }
  else s

/-- R76 steps 1 and 2: every thread FREE with zero registers, every engine queue discarded. Started commands run to
their end. CLU_FWID.VALID clears (R348) and a pending mailbox request is LOST (R383). -/
def usherReset (s : State) : State :=
  let s := discardQueues (dropFences allThreads s)
  let s := { s with
    ush := { s.ush with threads := Vector.replicate 16 Thread.reset, inHandler := false, pushed := [], stopped := [],
                        slot0 := none, slotsUsed := 0 },
    clu := { s.clu with fwidValid := false } }
  mgmtLost s

/-- Thread `t` starts at `pc` (R67, R347). Its registers keep their values. -/
def startThread (t : Fin 16) (pc : BitVec 18) (s : State) : State :=
  let s := modThread t (fun th => { th with pc := pc, st := .ready, fault := 0, notBefore := s.now + 1, stop := false }) s
  let s := if t = fwThread then { s with ush := { s.ush with inHandler := false } } else s
  if t ≠ fwThread ∧ s.ush.task = .loaded then { s with ush := { s.ush with task := .running } } else s

end Sys2Proof.Machine
end

