-- ==== Sys2Proof/Machine/Move.lean ====
section
/-! DEFINITION. How a started tile of a stream moves its rows (R226, R229, R231, R242): line reads and writes, fabric
transfers, Gallery flits, and the faults of R239. -/

namespace Sys2Proof.Machine

/-- The pieces of `n` bytes from `a` that lie in one aligned block of `blk` bytes each. -/
def piecesAux (blk : Nat) : Nat → Nat → Nat → List (Nat × Nat)
  | 0, _, _ => []
  | fuel + 1, a, n =>
    if n = 0 then [] else
      let m := min n (blk - a % blk)
      (a, m) :: piecesAux blk fuel (a + m) (n - m)
def pieces (blk a n : Nat) : List (Nat × Nat) := piecesAux blk (n / blk + 2) a n

/-- The block a fabric transfer stays in: 4 KiB, or 1 KiB on a link that runs version 2 (R242, R269). -/
def State.xferBlock (s : State) : Nat := if s.fab.version = 2 then 1024 else 4096

def addXfer (x : Xfer) (s : State) : State := { s with fab := { s.fab with xfers := s.fab.xfers ++ [x] } }

def addTx (g : Fin 4) (f : TxFlit) (s : State) : State := modGal g (fun x => { x with tx := x.tx ++ [f] }) s

/-- Row `r` of tile job `j` goes from `src` to `dst`: its line reads, its fabric transfers or its read requests. -/
def issueRow (n c : Fin 4) (j : Job) (d : Desc) (r src dst : Nat) (s : State) : State :=
  let rb := dRb d
  let h : Holder := .strm n c j.id
  let s := match dSrcKind d with
    | 0 => addRead j.id (2 * r) (.strm n) (tileEntries d j.entries).1 src rb s
    | 1 => (pieces s.xferBlock src rb).foldl (fun s p =>
        addXfer ⟨h, .read (dst + (p.1 - src)), BitVec.ofNat 64 p.1, p.2, 0, none, 0, s.now, false⟩ s) s
    | _ => (pieces 4096 src rb).foldl (fun s p =>
        addTx (dSrcGal d) ⟨j.due, n, j.id, .readReq 0 (BitVec.ofNat 32 p.1) p.2, dst + (p.1 - src)⟩ s) s
  if dDstKind d = 1 then
    (pieces s.xferBlock dst rb).foldl (fun s p =>
      addXfer ⟨h, .write 0 (dDcnt d), BitVec.ofNat 64 p.1, p.2, 0, none, 0, s.now, false⟩ s) s
  else s

/-- Issues the rows whose indices are usable, in order, up to one that is out of range. -/
def advanceRows (id : Nat) : Nat → State → State
  | 0, s => s
  | fuel + 1, s =>
    match s.job? id with
    | some j =>
      (match j.kind with
      | .tile n c d _ =>
        if j.voided || j.bad.isSome || j.next ≥ dRows d then s
        else match rowPlan d j.buf j.next with
          | .wait => s
          | .bad => modJob id (fun j => { j with bad := some j.next }) s
          | .skip => advanceRows id fuel (modJob id (fun j => { j with next := j.next + 1 }) s)
          | .move src dst =>
            advanceRows id fuel (issueRow n c j d j.next src dst (modJob id (fun j => { j with next := j.next + 1 }) s))
      | _ => s)
    | none => s

/-! ## Gallery flits of a tile -/

/-- The flits of the rows issued so far: address and bytes of the row in each (R229, R246). -/
def tileFlits (d : Desc) (j : Job) : List (Nat × Nat) :=
  (List.range j.next).flatMap fun r =>
    match rowPlan d j.buf r with
    | .move _ dst => (pieces 256 0 (dRb d)).map fun p => (dst + p.1, p.2)
    | _ => []

/-- The 256 data bytes of a flit; bytes past the end of a row are not stated (assumption 11). -/
def flitData (ix : Nat) (bytes : List (BitVec 8)) : BitVec 2048 :=
  BitVec.ofNat 2048 (leNat (bytes ++ (List.range (256 - bytes.length)).map fun i => (Config.freeBits (ix + i)).extractLsb' 0 8))

/-- Hands the Gallery every flit whose bytes have arrived, in tile order; the last only once it is known to be the last,
or that an index out of range ends the tile (R231). -/
def emitFlits (id : Nat) : Nat → State → State
  | 0, s => s
  | fuel + 1, s =>
    match s.job? id with
    | some j =>
      (match j.kind with
      | .tile n _ d _ =>
        let fs := tileFlits d j
        match fs[j.sent]? with
        | none => s
        | some (a, len) =>
          let all := j.next ≥ dRows d
          let last := j.sent + 1 = fs.length
          if dDstKind d ≠ 2 ∨ j.voided ∨ !bufHas j.buf a len ∨ (last ∧ !all ∧ j.bad.isNone) then s
          else
            let f : WriteFlit := ⟨⟨true, 0⟩, BitVec.ofNat 32 a, j.sent = 0, last && all, BitVec.ofNat 8 (len - 1),
              flitData s.freeIx (bufBytes j.buf a len), dDcnt d⟩
            emitFlits id fuel (modJob id (fun j => { j with sent := j.sent + 1 })
              (addTx (dDstGal d) ⟨j.due, n, id, .write f, 0⟩ { s with freeIx := s.freeIx + (256 - len) }))
      | _ => s)
    | none => s

/-! ## Faults of a stream (R239 to R241) -/

/-- Code of R326 for a fault code of R239. -/
def streamCode : Nat → Nat | 1 => 0x14 | 2 => 0x15 | 3 => 0x16 | 4 => 0x17 | _ => 0x18

/-- STRMn_FAULT holds the first fault of the task. -/
def recordStreamFault (n c : Fin 4) (k row descAddr : Nat) (s : State) : State :=
  if s.ush.task = .aborted then s
  else modStrm n (fun x => { x with
    faultCtx := BitVec.ofNat 2 c.val, faultCode := BitVec.ofNat 3 k, faultRow := BitVec.ofNat 12 row,
    faultDesc := BitVec.ofNat 32 descAddr }) s

/-- Job `id` is a tile of this context that a fault has stopped. -/
def Ctx.holds (x : Ctx) (id : Nat) : Bool := x.held.any fun h => h.1 == some id

/-- The context enters HELD with its started tiles as they stand; what the faulting tile has not issued is withdrawn. -/
def holdCtx (n c : Fin 4) (job : Option Nat) (held : Nat × Desc) (s : State) : State :=
  let s := modCtx n c (fun x => { x with st := .held, held := x.held ++ [(job, held)] }) s
  let s := match job with
    | none => s
    | some id => dropFlits id (dropXfers (fun h => match h with | .strm _ _ k => k == id | _ => false)
        (dropReqs id (s.tileKeeps id) s))
  countEvt (Page.strm n) 5 s

/-- A fault of context `c` of engine `n` at `row` of the descriptor `held`. Code 5 has been logged in its tier's page
under the code of R326, with a SEQ value. A tile that a fault has stopped already stops no further. -/
def streamFault (n c : Fin 4) (k row : Nat) (job : Option Nat) (held : Nat × Desc) (push : Nat)
    (tier : Option (Page × Nat × BitVec 32)) (s : State) : State :=
  if job.any (s.ctx n c).holds then s else
  let s := recordStreamFault n c k row held.1 s
  let s := if k < 5 then logEvt (Page.strm n) k (defaultLog (streamCode k) c.val push) s else s
  if s.clu.live then holdCtx n c job held s
  else match tier with
    | some (p, code, seq) =>
      if code = 0x18 ∧ s.ush.task ≠ .running then cancelCtx n c s else abortFor p code seq s
    | none => abortFor (Page.strm n) (streamCode k) (s.seqOf (Page.strm n) k) s

/-! ## After an access, transfer or flit of a tile -/

/-- Entry `e` has no access left to issue or to complete. -/
def State.entryIdle (s : State) (e : Nat) : Bool :=
  !(s.reqs.any fun r => r.entry == some e) && !(s.access.any fun a => a.req.entry == some e)

/-- Everything a tile has issued has finished. -/
def State.tileQuiet (s : State) (j : Job) : Bool := j.left == 0 && s.outOf j.id == 0

def releaseIf (b : Bool) (e : Option Nat) (s : State) : State :=
  match e with
  | some i => if b && s.entryIdle i then release i true s else s
  | none => s

/-- Releases the entries of a tile whose last access has completed (R64, R235). -/
def releaseTile (d : Desc) (j : Job) (s : State) : State :=
  let e := tileEntries d j.entries
  let all := j.next ≥ dRows d && j.bad.isNone
  releaseIf (all && s.tileQuiet j) e.2.1 (releaseIf true e.2.2 (releaseIf all e.1 s))

/-- What follows an event of tile job `id`: rows whose index has come, flits, entries, an index out of range (R231), the
end of a voided tile. -/
def settleTile (id : Nat) (s : State) : State :=
  match s.job? id with
  | none => s
  | some j =>
    match j.kind with
    | .tile n c d da =>
      if j.voided then reapTile id s
      else if (s.ctx n c).holds id then s
      else
        let s := emitFlits id (16 * dRows d + 1) (advanceRows id (dRows d + 1) s)
        match s.job? id with
        | none => s
        | some j =>
          match j.bad with
          | some r => if s.tileQuiet j then streamFault n c 2 r (some id) (da, d) j.seq none s else s
          | none => releaseTile d j s
    | _ => s

/-- The local bytes `bs` for destination `a` of row tag `tag` are written, or kept for the fabric or a Gallery. -/
def tileBytes (id tag a : Nat) (bs : List (BitVec 8)) (s : State) : State :=
  match s.job? id with
  | none => s
  | some j =>
    match j.kind with
    | .tile n _ d _ =>
      if dDstKind d = 0 then addWrite id tag (.strm n) (tileEntries d j.entries).2.1 a bs s
      else modJob id (fun j => { j with buf := j.buf ++ cellsAt a bs }) s
    | _ => s

/-- A line read of a tile is usable: index words, or row bytes on their way. -/
def tileRead (id tag addr : Nat) (data : List Host.Cell) (s : State) : State :=
  match s.job? id with
  | none => s
  | some j =>
    match j.kind with
    | .tile _ _ d _ =>
      let s := if tag % 2 = 1 then modJob id (fun j => { j with buf := j.buf ++ data.map fun c => (idxKey c.1, c.2) }) s
        else match rowPlan d j.buf (tag / 2) with
          | .move src dst => tileBytes id tag (dst + (addr - src)) (data.map (·.2)) s
          | _ => s
      settleTile id s
    | _ => s

/-- Bytes of rows moved (STRMn_MOVED). -/
def countMoved (n : Fin 4) (k : Nat) (s : State) : State :=
  modStrm n (fun x => { x with moved := x.moved + BitVec.ofNat 48 k }) s

end Sys2Proof.Machine
end

