-- ==== Sys2Proof/Machine/Feed.lean ====
section
/-! DEFINITION. What the tile banks hold and what the arrays draw from them: shapes and their layout (R127 to R130), the
operands of an OPX (R109, R112), the lines its collectors fetch with each beat and the share of the banks (R131, R132). -/

namespace Sys2Proof.Machine

/-! ## Shapes and layout (R127 to R130) -/

def TileShape.bits (h : TileShape) : Nat := fmtBits h.fmt.toNat
def TileShape.mx (h : TileShape) : Bool := fmtMx h.fmt.toNat
/-- Row bytes RB. -/
def TileShape.rb (h : TileShape) : Nat := h.cols * h.bits / 8
/-- The least power of two that is at least `n`. -/
def pow2Up (n : Nat) : Nat := if n ≤ 1 then 1 else 2 ^ (Nat.log2 (n - 1) + 1)
/-- Pitch P. -/
def TileShape.pitch (h : TileShape) : Nat := pow2Up (max 64 h.rb)
/-- Lines per row L. -/
def TileShape.lines (h : TileShape) : Nat := h.pitch / 64

/-- A shape that R128 refuses. -/
def TileShape.bad (h : TileShape) : Bool :=
  h.bits == 0 || h.bits == 32 || h.cols * h.bits % 128 != 0 || h.pitch > 4096 || h.rows * h.pitch > 65536 ||
    (h.mx && (if h.bax then h.rows else h.cols) % 32 != 0)

/-- The shape a TCFG carries. -/
def tcfgShape (c : Cmd) : TileShape := ⟨c.extractLsb' 23 4, bitAt c 50, fld c 27 10 + 1, fld c 37 13 + 1⟩

/-- Bank of line `ln` (ln = r × L + j). -/
def TileShape.bank (h : TileShape) (ln : Nat) : Nat := (ln / h.lines % 64) ^^^ revBits 6 (ln % h.lines)

/-- Where byte 0 of line `ln` of register `t` stands in the banks. -/
def TileShape.place (h : TileShape) (t : Fin 16) (ln : Nat) : Nat := (h.bank ln * 256 + 16 * t.val + ln / 64) * 64

/-- Byte `o` of row `r` of register `t`, read under shape `h`. -/
def tileByte (s : State) (t : Fin 16) (h : TileShape) (r o : Nat) : BitVec 8 :=
  s.tile.words.get (h.place t (r * h.lines + o / 64) + o % 64)

/-- The bits of element (r, c) of register `t` (R81, R130). -/
def tileElem (s : State) (t : Fin 16) (h : TileShape) (r c : Nat) : Nat :=
  let b := c * h.bits
  let two := (tileByte s t h r (b / 8)).toNat + 256 * (tileByte s t h r (b / 8 + 1)).toNat
  two / 2 ^ (b % 8) % 2 ^ h.bits

/-- The scale byte of element (r, c): 127 for a plain format (R84, R86). -/
def tileScale (s : State) (t : Fin 16) (h : TileShape) (r c : Nat) : Nat :=
  if h.mx then
    (s.tile.regs[t].scale.get (if h.bax then r / 32 * h.cols + c else r * (h.cols / 32) + c / 32)).toNat
  else 127

def State.shapeOf (s : State) (t : Fin 16) : Option TileShape := s.tile.regs[t].shape

/-! ## Operands -/

/-- One operand of an OPX: register, reduction axis (true: rows), shared, active count per partition. -/
structure Operand where
  t : Fin 16
  ax : Bool
  shared : Bool
  act : Nat
deriving DecidableEq, Repr

def OpxCmd.a (o : OpxCmd) : Operand := ⟨o.ta, o.aAx, o.aSh, o.mact⟩
def OpxCmd.b (o : OpxCmd) : Operand := ⟨o.tb, o.bAx, o.bSh, o.nact⟩
def OpxCmd.k (o : OpxCmd) : Nat := opxK o.var
def OpxCmd.beats (o : OpxCmd) : Nat := o.klen / o.k
def OpxCmd.parts (o : OpxCmd) : Nat := (shapeDims o.shape).1
/-- The active partitions. -/
def OpxCmd.active (o : OpxCmd) : List Nat := (List.range o.parts).filter fun p => o.pmask / 2 ^ p % 2 = 1
/-- The feed count F (R112). -/
def OpxCmd.feed (o : OpxCmd) : Nat :=
  let n := o.active.length
  (if o.aSh then o.mact else n * o.mact) + (if o.bSh then o.nact else n * o.nact)
/-- Half rate: a beat every two cycles. -/
def OpxCmd.half (o : OpxCmd) : Bool := o.feed > 512

/-- The other indices of the active partitions (R109). -/
def Operand.others (x : Operand) (o : OpxCmd) : List Nat :=
  if x.shared then List.range x.act else o.active.flatMap fun p => (List.range x.act).map (p * x.act + ·)

/-- Row `r` of the register holds elements of the operand range. -/
def Operand.hasRow (x : Operand) (o : OpxCmd) (r : Nat) : Bool :=
  if x.ax then o.kstart ≤ r && r < o.kstart + o.klen else (x.others o).contains r

/-- Line `j` of a row of the operand range holds elements of it. -/
def Operand.hasLine (x : Operand) (o : OpxCmd) (h : TileShape) (j : Nat) : Bool :=
  let line (b : Nat) : Nat := b / 512
  if x.ax then (x.others o).any fun c => line (c * h.bits) ≤ j && j ≤ line (c * h.bits + h.bits - 1)
  else line (o.kstart * h.bits) ≤ j && j ≤ line ((o.kstart + o.klen) * h.bits - 1)

/-! ## Collectors (R131, R132) -/

/-- The lines of a row that hold elements `cs` of it, each once. -/
def lineSet (h : TileShape) (cs : List Nat) : List Nat :=
  (cs.flatMap fun c => [c * h.bits / 512, (c * h.bits + h.bits - 1) / 512]).eraseDups

/-- The lines of its operand that a collector fetches with beat `i`: in row order all that the beat's rows touch, in column
order those that no earlier beat fetched. -/
def Operand.beatLines (x : Operand) (o : OpxCmd) (h : TileShape) (i : Nat) : List Nat :=
  let k0 := o.kstart + o.k * i
  if x.ax then
    let js := lineSet h (x.others o)
    (List.range o.k).flatMap fun d => js.map ((k0 + d) * h.lines + ·)
  else
    let lo := k0 * h.bits / 512
    let lo := if i > 0 && (k0 * h.bits - 1) / 512 = lo then lo + 1 else lo
    let hi := ((k0 + o.k) * h.bits - 1) / 512
    (x.others o).flatMap fun r => (List.range (hi + 1 - lo)).map fun j => r * h.lines + lo + j

/-- The banks that beat `i` of OPX `c` draws on, A's lines before B's. -/
def beatBanks (s : State) (c : Cmd) (i : Nat) : List Nat :=
  let o := opxOf c
  let side (x : Operand) : List Nat := match s.shapeOf x.t with
    | some h => (x.beatLines o h i).map h.bank
    | none => []
  side o.a ++ side o.b

/-! ## Checks at a start -/

/-- Extents of a shape along the reduction axis and along the other (R107). -/
def Operand.extent (x : Operand) (h : TileShape) : Nat := if x.ax then h.rows else h.cols
def Operand.other (x : Operand) (h : TileShape) : Nat := if x.ax then h.cols else h.rows

/-- The formats an OPX variant takes (R86). -/
def varTakes (var fmt : Nat) : Bool :=
  match var with
  | 0 => fmt == 1 || fmt == 2
  | 1 => 3 ≤ fmt && fmt ≤ 8
  | 2 => fmt == 0xA
  | _ => fmt == 9

/-- The operand breaks R85, R86 or R107. -/
def Operand.bad (x : Operand) (o : OpxCmd) (h : TileShape) : Bool :=
  !varTakes o.var h.fmt.toNat || o.kstart + o.klen > x.extent h ||
    x.other h < (if x.shared then x.act else o.parts * x.act) ||
    (h.mx && (h.bax != x.ax || o.kstart % 32 != 0))

/-- TILE_SHAPE of R107. -/
def opxBad (s : State) (o : OpxCmd) : Bool :=
  match s.shapeOf o.ta, s.shapeOf o.tb with
  | some ha, some hb => o.a.bad o ha || o.b.bad o hb
  | _, _ => true

/-! ## Interlocks (R115, R118, R139) -/

/-- A TCFG or TREL on register `t` pushed before `seq` has not taken effect (R139). -/
def State.cfgPending (s : State) (t : Fin 16) (seq : Nat) : Bool :=
  let mine (e : QEntry) : Bool := (cOpc e.raw == 3 || cOpc e.raw == 6) && e.seq < seq && cTreg e.raw == t
  (s.queue 2).cmds.any mine || (match s.tile.cfg with | some (e, _) => mine e | none => false) ||
    (match s.tile.held with | some e => mine e | none => false)

/-- The scale row that starts at row `r` covers rows of the operand range. -/
def Operand.hasScale (x : Operand) (o : OpxCmd) (h : TileShape) (r : Nat) : Bool :=
  if h.bax then (List.range 32).any fun i => x.hasRow o (r + i) else x.hasRow o r

/-- A line of the operand range. -/
def Operand.covers (x : Operand) (o : OpxCmd) (h : TileShape) (ln : Nat) : Bool :=
  x.hasRow o (ln / h.lines) && x.hasLine o h (ln % h.lines)

/-- An earlier TLD has still to bring part of the operand range (R139). -/
def State.tileComing (s : State) (x : Operand) (o : OpxCmd) (h : TileShape) (seq : Nat) : Bool :=
  let mine (e : QEntry) : Bool := cOpc e.raw == 4 && e.seq < seq && cTreg e.raw == x.t
  let piece (m : TmoveCmd) (q : LineReq) : Bool :=
    let r := q.tag / 2
    if q.tag % 2 = 1 then x.hasScale o h r
    else
      let lo := (q.addr - (m.base + r * m.stride)) / 64
      let hi := (q.addr + q.len - 1 - (m.base + r * m.stride)) / 64
      x.hasRow o r && (List.range (hi + 1 - lo)).any fun k => x.hasLine o h (lo + k)
  let whole (e : QEntry) : Bool :=
    let m := tmoveOf e.raw
    (List.range m.count).any (fun i => x.hasRow o (m.first + i)) &&
      (List.range ((m.width + 63) / 64)).any fun j => x.hasLine o h j
  (s.queue 2).cmds.any (fun e => mine e && whole e) ||
    (match s.tile.held with | some e => mine e && whole e | none => false) ||
    s.jobs.any (fun j => match j.kind with
      | .tld e => mine e && (s.reqs.any (fun q => q.job == j.id && piece (tmoveOf e.raw) q) ||
          s.access.any (fun q => q.req.job == j.id && piece (tmoveOf e.raw) q.req) ||
          s.tile.landbuf.any fun l => l.job == j.id && x.covers o h l.line)
      | _ => false)

/-- Part of the operand range is still to come, or landed in this very cycle (R115 step 1, R139). -/
def State.tileLate (s : State) (x : Operand) (o : OpxCmd) (h : TileShape) (seq : Nat) : Bool :=
  s.tileComing x o h seq ||
    s.tile.landed.any fun g => g.2.1 == x.t && (if g.1 = 64 then x.hasScale o h (g.2.2 / h.lines) else x.covers o h g.2.2)

/-- Command `c` of queue 3 reads bank `b` of array `a`. -/
def readsBank (c : Cmd) (a b : Fin 2) : Bool :=
  match cOpc c with
  | 0x1A => fld c 19 1 == a.val && fld c 20 1 == b.val
  | 0x1E => goSrc c == 0 && goBank c == b && (goArrays c).contains a
  | _ => false

/-- The cycles in which a readout in progress has still to read bank `b` of array `a`. -/
def VRun.readsLeft (r : VRun) (a b : Fin 2) : Nat :=
  let c := r.e.raw
  let as_ := if cOpc c = 0x1E then goArrays c else [a]
  let per := r.n / as_.length
  if readsBank c a b then min per (per * (as_.idxOf a + 1) - r.issued.length) else 0

/-- An earlier readout of the bank is queued, or reads it in cycle `n` or later (R118). -/
def State.bankRead (s : State) (a b : Fin 2) (seq n : Nat) : Bool :=
  (s.queue 3).cmds.any (fun e => e.seq < seq && readsBank e.raw a b) ||
    s.vec.runs.any (fun r => r.readsLeft a b > n - s.now) || n ≤ (s.opa[a].banks[b]).readUntil

/-- Earlier commands target the bank and have not reached their readout point (R115, R118). -/
def State.bankPending (s : State) (a b : Fin 2) (seq : Nat) : Bool :=
  (s.opa[a].banks[b]).pend.any (fun r => match r.at_ with | some k => s.now < k | none => true) || (s.queue (opaQ a)).cmds.any fun e =>
    e.seq < seq && (if cOpc e.raw = 1 then (opxOf e.raw).bank == b else fld e.raw 19 1 == b.val)

/-! ## What the collectors take (R131, R132) -/

/-- Beats of an array command. -/
def arrayBeats (c : Cmd) : Nat := if cOpc c = 1 then (opxOf c).beats else 1

/-- Index of the beat that enters next. -/
def Opa.beatIx (x : Opa) : Nat := arrayBeats x.cur - x.left

/-- The tile registers that the running OPX still reads (R117). -/
def Opa.tiles (x : Opa) : List (Fin 16) := if x.left = 0 then [] else tileUses x.cur

/-- A beat of array `a` is due in this cycle (R117, R119). -/
def State.beatDue (s : State) (a : Fin 2) : Bool := s.opa[a].left > 0 && s.opa[a].nextBeat ≤ s.now && !s.isBubble

/-- The half-rate OPX at the head of array `a`'s queue that will start in the next cycle, as far as this one shows: its
collectors fetch the first half of its first beat's lines now (R131). -/
def State.opaAhead (s : State) (a : Fin 2) : Option Cmd :=
  let x := s.opa[a]
  match (s.queue (opaQ a)).cmds with
  | [] => none
  | e :: _ =>
    let o := opxOf e.raw
    let late (p : Operand) : Bool := match s.shapeOf p.t with | some h => s.tileComing p o h e.seq | none => true
    if cOpc e.raw = 1 && o.half && !x.held && x.left == 0 && x.freeAt ≤ s.now + 1 && s.clocked && !s.stopHeld &&
        e.pushedAt + Config.ushPush ≤ s.now + 1 && !s.cfgPending o.ta e.seq && !s.cfgPending o.tb e.seq && !opxBad s o &&
        (o.z || (x.banks[o.bank]).kindNext == (o.var == 2)) && !late o.a && !late o.b &&
        !s.bankRead a o.bank e.seq (s.now + 1)
    then some e.raw else none

/-- The banks of the lines that array `a`'s collectors ask for anew in this cycle: at full rate those of the beat that enters,
at half rate half of a beat's lines in the cycle before it enters and the rest in that cycle (R131). -/
def State.feedBanks (s : State) (a : Fin 2) : List Nat :=
  let x := s.opa[a]
  let half (ls : List Nat) : Nat := (ls.length + 1) / 2
  if x.left = 0 then
    match if x.asked then none else s.opaAhead a with
    | some c => let ls := beatBanks s c 0; ls.take (half ls)
    | none => []
  else if cOpc x.cur ≠ 1 then []
  else
    let ls := beatBanks s x.cur x.beatIx
    if s.beatDue a then (if x.asked then ls.drop (half ls) else ls)
    else if (opxOf x.cur).half && !x.asked && x.nextBeat == s.now + 1 then ls.take (half ls)
    else []

/-- The array that gives way when both ask for more than 64 lines: the one whose OPX was pushed later (R132). -/
def State.feedLoser (s : State) : Fin 2 := if s.opa[(0 : Fin 2)].curSeq < s.opa[(1 : Fin 2)].curSeq then 1 else 0

/-- The excess of R132 arises only while a full-rate OPX of SHAPE 4 with one operand shared runs. -/
def Opa.wide (x : Opa) : Bool :=
  let o := opxOf x.cur
  x.left > 0 && cOpc x.cur == 1 && o.shape == 4 && (o.aSh != o.bSh) && !o.half

/-- The two arrays together ask for more than 64 lines in this cycle: the lines of the winner and of the loser. -/
def State.feedExcess (s : State) : Option (Nat × Nat) :=
  if s.opa[(0 : Fin 2)].wide || s.opa[(1 : Fin 2)].wide then
    let l := s.feedLoser
    let n := (s.feedBanks (1 - l)).length
    let m := (s.feedBanks l).length
    if n + m > 64 then some (n, m) else none
  else none

/-- In a cycle of excess the later array takes what the earlier leaves; its beat enters when all its lines are there.
Answers that array, whether its beat is held, and the lines of beats to come that it then holds. -/
def feedShare (s : State) : Option (Fin 2 × Bool × Nat) :=
  match s.feedExcess with
  | none => none
  | some (n, m) =>
    let l := s.feedLoser
    let have_ := s.opa[l].feed + (64 - n)
    if have_ ≥ m then some (l, false, have_ - m) else some (l, true, have_)

/-- The lines array `a` asks for: those carried over before the new ones. -/
def State.feedAsks (s : State) (a : Fin 2) : List Nat := s.opa[a].carry ++ s.feedBanks a

/-- One request: granted unless its bank is taken; what is not granted carries over. -/
def takeBank (acc : List Nat × List Nat) (b : Nat) : List Nat × List Nat :=
  if acc.1.contains b then (acc.1, acc.2 ++ [b]) else (b :: acc.1, acc.2)

/-- The banks taken after both arrays' collectors had their turn, the earlier command's first, with `used` taken before, and
what array 0 and array 1 carry over: a bank grants one line in a cycle (R126, R132). -/
def State.feedTurn (s : State) (used : List Nat) : List Nat × List Nat × List Nat :=
  let l := s.feedLoser
  let x := (s.feedAsks (1 - l)).foldl takeBank (used, [])
  let y := (s.feedAsks l).foldl takeBank (x.1, [])
  if l = 1 then (y.1, x.2, y.2) else (y.1, y.2, x.2)

/-- The banks that the collectors take in this cycle; in a cycle of excess, all of them. -/
def State.collectorBanks (s : State) : List Nat :=
  match s.feedExcess with
  | some _ => List.range 64
  | none => (s.feedTurn []).1

end Sys2Proof.Machine
end

