-- ==== Sys2Proof/Machine/Tiles.lean ====
section
/-! DEFINITION. The tile unit (chapter 06): the start of TCFG, TREL, TLD and TST
with their interlocks (R135 to R141), lines landing (R137), interruption and hold (R142 to R144). -/

namespace Sys2Proof.Machine

/-! ## Uses and interlocks (R138, R139) -/

/-- An earlier OPX on register `t` is in flight. -/
def State.opxUses (s : State) (t : Fin 16) (seq : Nat) : Bool :=
  (List.finRange 2).any fun a =>
    (s.queue (opaQ a)).cmds.any (fun e => e.seq < seq && (tileUses e.raw).contains t) ||
      (s.opa[a].curSeq < seq && s.opa[a].tiles.contains t)

/-- A TLD on register `t` has started and not retired. -/
def State.loading (s : State) (t : Fin 16) : Bool :=
  s.jobs.any fun j => match j.kind with | .tld e => cTreg e.raw == t | _ => false

/-- A TST of register `t` waits for a TLD: one that runs, or that retired in this very cycle (R139). -/
def State.loadLate (s : State) (t : Fin 16) : Bool := s.loading t || s.now < s.tile.regs[t].loadedAt

/-- The tile unit has issued all accesses of its last TLD or TST before this cycle, holds nothing and waits for no TCFG or
TREL (R137, R140). -/
def State.tileFree (s : State) : Bool :=
  s.tile.cfg.isNone && s.tile.held.isNone && !(s.reqs.any fun r => r.unit == .tile) &&
    !(s.access.any fun a => a.req.unit == .tile && a.due == s.now + Config.hallLtu && a.ecc != .reread)

/-! ## Hold and fault (R142, R143) -/

/-- The unit holds `e`, to be redone from `row` (R143). -/
def holdTile (e : QEntry) (row cause : Nat) (s : State) : State :=
  let s := recordStartRow e row cause s
  countEvt .tile 1 { s with tile := { s.tile with held := some e } }

/-- TILE_SHAPE at the start of `e`, already off the queue (R128, R135, R141). -/
def tileShapeFault (e : QEntry) (row : Nat) (s : State) : State :=
  if s.clu.live then
    holdTile e row 2 (logEvt .tile 0 (defaultLog 0x10 0 e.seq) s)
  else
    engineFault .tile 0 0x10 0 e.seq (recordStartRow e row 2 (releaseAll e.entries false s))

/-- The running TLD or TST stops at its row boundary; the unit holds it when `live`. Its rows already issued complete
(R142, R143). -/
def stopTileJob (j : Job) (row : Option Nat) (cause : Nat) (s : State) : State :=
  match j.tileEntry? with
  | none => s
  | some e =>
    let r := stopRows j s
    match row.or r.1 with
    | none => r.2
    | some at_ =>
      let s := if s.clu.live then holdTile { e with entries := j.entries } at_ cause r.2 else recordStartRow e at_ cause r.2
      let keep := if s.clu.live then [] else j.entries
      reapMove j.id (modJob j.id (fun j => { j with voided := true, entries := keep }) s)

/-- A read of row `row` of tile job `id` failed, with the fault `code` logged in page `p` (R142, R143, R206). -/
def tileAccessFault (id row : Nat) (p : Page) (code : Nat) (seq : BitVec 32) (s : State) : State :=
  match s.job? id with
  | none => s
  | some j =>
    if j.voided then
      match s.tile.held, j.tileEntry? with
      | some h, some e => if h.seq = e.seq then recordStartRow e (min row s.tile.startRow.toNat) 2 s else s
      | _, _ => s
    else
      let s := stopTileJob j (some row) 2 s
      if s.clu.live then s else memAbort p code seq s

/-! ## Starts -/

/-- The head of the tile queue, when it is a command of opcode `opc` and the unit can start it; a PAUSE holds it (R143). -/
def tileStart (opc : Nat) (go : QEntry → State → State) (s : State) : State :=
  match s.head? 2 with
  | none => s
  | some e =>
    if cOpc e.raw ≠ opc || !s.tileFree then s
    else if s.tile.pause && s.clu.live then
      holdTile e (if opc = 4 ∨ opc = 5 then (tmoveOf e.raw).first else 0) 1 (popQueue 2 s)
    else go e s

/-- TCFG and TREL start; a TCFG whose shape R128 refuses faults. -/
def startCfg (e : QEntry) (s : State) : State :=
  let s := popQueue 2 s
  if cOpc e.raw = 3 ∧ (tcfgShape e.raw).bad then tileShapeFault e 0 s
  else { s with tile := { s.tile with cfg := some (e, s.now) } }

/-- A TCFG or TREL takes effect TILE.CFG cycles after its start and after the last earlier use retired (R140). -/
def tileCfgTakeEffect (s : State) : State :=
  match s.tile.cfg with
  | none => s
  | some (e, st) =>
    let t := cTreg e.raw
    let r := s.tile.regs[t]
    if !s.clocked || s.opxUses t e.seq || s.loading t || s.now < max st r.retiredAt + Config.tileCfg then s
    else
      let r := if cOpc e.raw = 3 then { r with shape := some (tcfgShape e.raw), scale := ⟨0x7F, []⟩ } else { r with shape := none }
      signalOpt (cSig e.raw) { s with tile := { s.tile with cfg := none, regs := s.tile.regs.set t { r with retiredAt := s.now } } }

/-- The element bits an SCL code fits. -/
def sclFits (scl : Nat) (h : TileShape) : Bool :=
  if scl = 0 then !h.mx else h.mx && sclBits scl == h.bits

/-- What R135 refuses at the start of a TLD or TST. -/
def moveBad (s : State) (m : TmoveCmd) : Bool :=
  match s.shapeOf m.t with
  | none => true
  | some h =>
    m.width != h.rb || m.first + m.count > h.rows || !sclFits m.scl h || (m.scl != 0 && m.sbax != h.bax)

def TmoveCmd.rows (m : TmoveCmd) : List Nat := (List.range m.count).map (m.first + ·)
/-- The scale row that goes with data row `r`, if one starts there. -/
def TmoveCmd.scaleRow? (m : TmoveCmd) (r : Nat) : Option Nat :=
  if m.scl = 0 then none else if m.sbax then (if r % 32 = 0 then some (r / 32) else none) else some r

/-- The reads of a TLD, in row order (R137). -/
def issueLoad (id : Nat) (m : TmoveCmd) (es : List Nat) (s : State) : State :=
  m.rows.foldl (fun s r =>
    let s := addRead id (2 * r) .tile es[0]? (m.base + r * m.stride) m.width s
    match m.scaleRow? r with
    | some i => addRead id (2 * r + 1) .tile es[1]? (m.sbase + i * m.sstride) m.scaleBytes s
    | none => s) s

/-- The writes of a TST, in row order: exactly WIDTH bytes a row, and the scale rows that cover them (R136). -/
def issueStore (id : Nat) (m : TmoveCmd) (h : TileShape) (es : List Nat) (s : State) : State :=
  m.rows.foldl (fun s r =>
    let s := addWrite id (2 * r) .tile es[0]? (m.base + r * m.stride)
      ((List.range m.width).map fun i => tileByte s m.t h r i) s
    match m.scaleRow? r with
    | some i => addWrite id (2 * r + 1) .tile es[1]? (m.sbase + i * m.sstride)
        ((List.range m.scaleBytes).map fun k => s.tile.regs[m.t].scale.get (i * m.scaleBytes + k)) s
    | none => s) s

/-- TLD and TST start once R139 and the slot tags let them (R61, R135); a command that RESUME restarts has its entries, and so
its slots, already (R143, R144). -/
def startMove (e : QEntry) (s : State) : State :=
  let m := tmoveOf e.raw
  let st := cOpc e.raw = 5
  let ops := e.operands
  if (if st then s.loadLate m.t else s.opxUses m.t e.seq) || (e.entries.length ≠ ops.length && !canTake s ops) then s
  else
    let s := popQueue 2 s
    match s.shapeOf m.t with
    | none => tileShapeFault e m.first s
    | some h =>
      if moveBad s m then tileShapeFault e m.first s
      else
        let r := takeAtStart .tile ops e.entries s
        let j := addJob (if st then .tst e else .tld e) r.1 e.seq (some e.thread) (cSig e.raw) r.2
        if st then issueStore j.1 m h r.1 j.2 else issueLoad j.1 m r.1 j.2

def execTcfg (s : State) : Host.Outcome State Fault Refusal := .next (tileStart 3 startCfg s)
def execTrel (s : State) : Host.Outcome State Fault Refusal := .next (tileStart 6 startCfg s)
def execTileCfgTakeEffect (s : State) : Host.Outcome State Fault Refusal := .next (tileCfgTakeEffect s)
def execTld (s : State) : Host.Outcome State Fault Refusal := .next (tileStart 4 startMove s)
def execTst (s : State) : Host.Outcome State Fault Refusal := .next (tileStart 5 startMove s)

/-! ## Rows on their way (R137) -/

/-- A TLD or TST with nothing left to do ends: it signals and releases its entries (R64, R137). -/
def finishMove (id : Nat) (s : State) : State :=
  match s.job? id with
  | none => s
  | some j =>
    if j.voided then reapMove id s
    else if j.left = 0 ∧ !(s.tile.landbuf.any fun x => x.job == id) then
      match j.tileEntry? with
      | some e => retireMove e (signalOpt j.sig (dropJob id (releaseAll j.entries true s)))
      | none => s
    else s

/-- Line `k` of row `r` of TLD `id`, once all its bytes have arrived, goes to the landing buffer, with zero in the padding
it shares (R136). -/
def tldLine (id : Nat) (m : TmoveCmd) (h : TileShape) (r k : Nat) (s : State) : State :=
  let lo := m.base + r * m.stride + 64 * k
  let len := min 64 (m.width - 64 * k)
  match s.job? id with
  | none => s
  | some j =>
    if bufHas j.buf lo len then
      let bytes := bufBytes j.buf lo len ++ List.replicate (64 - len) 0
      let s := modJob id (fun j => { j with buf := j.buf.filter fun c => c.1 < lo || lo + len ≤ c.1 }) s
      { s with tile := { s.tile with landbuf := s.tile.landbuf ++ [⟨id, r * h.lines + k, bytes⟩] } }
    else s

/-- The data of a granted read of TLD `id` has arrived: scales go to the plane, and the lines that are whole to the
landing buffer (R136, R137). -/
def tldRead (id tag addr : Nat) (data : List Host.Cell) (s : State) : State :=
  match s.job? id with
  | none => s
  | some j =>
    match j.kind with
    | .tld e =>
      let m := tmoveOf e.raw
      match s.shapeOf m.t with
      | none => s
      | some h =>
        let r := tag / 2
        if tag % 2 = 1 then
          let i := if m.sbax then r / 32 else r
          let lo := i * m.scaleBytes + (addr - (m.sbase + i * m.sstride))
          let x := s.tile.regs[m.t]
          let x := { x with scale := x.scale.fill lo data.length fun k => (data[k]?.map (·.2)).getD 0 }
          finishMove id { s with tile := { s.tile with regs := s.tile.regs.set m.t x,
                                                       landed := (64, m.t, r * h.lines) :: s.tile.landed } }
        else
          let row := m.base + r * m.stride
          let k := (addr - row) / 64
          let s := modJob id (fun j => { j with buf := j.buf ++ data }) s
          (List.range ((addr + data.length - 1 - row) / 64 + 1 - k)).foldl (fun s i => tldLine id m h r (k + i) s) s
    | _ => s

/-- An older TLD on the same register has still to bring line `x.line` (R139: lines land in issue order). -/
def State.landsAfter (s : State) (t : Fin 16) (h : TileShape) (x : LandLine) : Bool :=
  s.jobs.any fun j => j.id < x.job && (match j.kind with | .tld e => cTreg e.raw == t | _ => false) &&
    (s.tile.landbuf.any (fun y => y.job == j.id && y.line == x.line) ||
      s.access.any fun a => a.req.job == j.id && a.req.tag == 2 * (x.line / h.lines))

/-- Line `x` of the landing buffer may be written into bank `b`: its register and shape. -/
def State.landsIn (s : State) (x : LandLine) (b : Nat) : Option (Fin 16 × TileShape) :=
  match (s.job? x.job).bind Job.tileEntry? with
  | none => none
  | some e =>
    match s.shapeOf (cTreg e.raw) with
    | some h => if h.bank x.line = b ∧ !s.landsAfter (cTreg e.raw) h x then some (cTreg e.raw, h) else none
    | none => none

/-- A line of the landing buffer for bank `b` is written into its word (R126, R132, R137). -/
def landLine (b : Nat) (s : State) : State :=
  if !s.clocked || s.tile.landed.any (fun g => g.1 == b) || s.tile.read.contains b || s.collectorBanks.contains b then s
  else
    match s.tile.landbuf.find? (fun x => (s.landsIn x b).isSome) with
    | none => s
    | some x =>
      match s.landsIn x b with
      | none => s
      | some (t, h) =>
        finishMove x.job { s with tile := { s.tile with
          words := s.tile.words.fill (h.place t x.line) 64 fun i => x.bytes.getD i 0,
          landbuf := s.tile.landbuf.erase x,
          loaded := s.tile.loaded + 1,
          landed := (b, t, x.line) :: s.tile.landed } }

def execTileLineLand (b : Fin 64) (s : State) : Host.Outcome State Fault Refusal := .next (landLine b.val s)

/-- Tile lines that end within the first `o` of `w` row bytes. -/
def linesEnded (w o : Nat) : Nat := if o ≥ w then (w + 63) / 64 else o / 64

/-- The tile lines that end in row request `r` of a TLD or TST (R137); a scale row has none. -/
def State.tileLines (s : State) (r : LineReq) : Nat :=
  match (s.job? r.job).bind Job.tileEntry? with
  | some e =>
    let m := tmoveOf e.raw
    let o := r.addr - (m.base + r.tag / 2 * m.stride)
    if r.tag % 2 = 1 then 0 else linesEnded m.width (o + r.len) - linesEnded m.width o
  | none => 0

/-- The tile banks that a TST reads for its write `r` (R130, R136); scales have their own port (R126). -/
def State.tstBanks (s : State) (r : LineReq) : List Nat :=
  if r.unit != .tile || r.wr.isNone || r.tag % 2 = 1 then []
  else match (s.job? r.job).bind Job.tileEntry? with
    | none => []
    | some e =>
      let m := tmoveOf e.raw
      match s.shapeOf m.t with
      | none => []
      | some h =>
        let o := r.addr - (m.base + r.tag / 2 * m.stride)
        (List.range ((o + r.len + 63) / 64 - o / 64)).map fun k => h.bank (r.tag / 2 * h.lines + o / 64 + k)

/-- A write of a TST was granted: it has read its tile banks, its lines count when their last bytes go, and the use retires with
its last line (R126, R137, R138). -/
def tstGranted (req : LineReq) (s : State) : State :=
  match s.job? req.job with
  | none => s
  | some j =>
    match j.kind with
    | .tst e =>
      let s := { s with tile := { s.tile with
        stored := s.tile.stored + BitVec.ofNat 32 (s.tileLines req), read := s.tstBanks req ++ s.tile.read } }
      if s.reqs.any (fun r => r.job == req.job) then s else retireUse (cTreg e.raw) s
    | _ => s

/-! ## TILE_CTL (R143, R144) -/

/-- A command restarted from TILE_START_ROW.ROW. -/
def restartAt (e : QEntry) (row : Nat) : QEntry :=
  if cOpc e.raw = 4 ∨ cOpc e.raw = 5 then
    let m := tmoveOf e.raw
    let clear := e.raw &&& ~~~fieldMask [(64, 10), (74, 10)]
    { e with raw := clear ||| BitVec.ofNat 128 (row <<< 64) ||| BitVec.ofNat 128 ((m.first + m.count - row - 1) <<< 74) }
  else e

/-- A write of TILE_CTL; DISCARD goes before RESUME when both are written (assumption 12). -/
def tileCtl (v : BitVec 64) (s : State) : State :=
  let s := { s with tile := { s.tile with pause := bitAt v 0 } }
  match s.tile.held with
  | some e =>
    if bitAt v 9 then
      retireUse (cTreg e.raw)
        (releaseAll e.entries false { s with tile := { s.tile with held := none, pause := false } })
    else if bitAt v 8 then
      modQueue 2 (fun q => { q with cmds := restartAt e s.tile.startRow.toNat :: q.cmds })
        { s with tile := { s.tile with held := none, pause := false } }
    else s
  | none => s

/-- PAUSE holds back the rows of a TLD or TST that have not begun (R143). -/
def State.pausing (s : State) : Bool := s.tile.pause && s.clu.live && s.tile.held.isNone

/-- The row boundary that a PAUSE waits for: every line of the rows that have begun has issued, and the unit holds the rest
(R143). -/
def pauseTile (s : State) : State :=
  if !s.pausing then s
  else match s.jobs.find? (fun j => j.tileEntry?.isSome && !j.voided && s.reqs.any fun r => r.job == j.id) with
    | some j => if s.reqs.any (fun r => r.job == j.id && r.tag / 2 < j.top) then s else stopTileJob j none 1 s
    | none => s

end Sys2Proof.Machine
end

