-- ==== Sys2Proof/Machine/Arrays.lean ====
section
/-! DEFINITION. The outer-product arrays (chapter 05): the checks at a start (R85, R86, R90, R107), the interlocks
(R16, R115, R118, R139), beats from their entry to their commit (R109, R110, R115), readout points (R115, R116), holds (R122),
zero gating counts (R123). -/

namespace Sys2Proof.Machine

/-! ## What stands before a start (R90, R107, R115, R118) -/

/-- What the head of an array's queue is waiting for. -/
inductive OpaNext where
  | none
  | waitTile
  | waitBank
  | bad (code : Nat)
  | go
deriving DecidableEq, Repr

/-- Bank kind of a variant (R86). -/
def OpxCmd.int32 (o : OpxCmd) : Bool := o.var == 2

/-- What stands before the start of array command `e` (R90, R107, R115, R118). A command that waits here stays in its queue:
it counts as started only with its first beat, while R125's WAIT_TILE and WAIT_BANK call it started (DESIGN CHOICE,
assumption 47). -/
def State.opaNext (s : State) (a : Fin 2) (e : QEntry) : OpaNext :=
  let x := s.opa[a]
  if x.held || x.left > 0 || s.now < x.freeAt then .none
  else if cOpc e.raw = 2 then
    if s.bankRead a (Fin.ofNat 2 (fld e.raw 19 1)) e.seq s.now then .waitBank else .go
  else
    let o := opxOf e.raw
    if s.cfgPending o.ta e.seq || s.cfgPending o.tb e.seq then .waitTile
    else if opxBad s o then .bad 0x10
    else if !o.z && (x.banks[o.bank]).kindNext != o.int32 then .bad 0x11
    else
      let late (x : Operand) : Bool := match s.shapeOf x.t with | some h => s.tileLate x o h e.seq | none => false
      if late o.a || late o.b then .waitTile
      else if s.bankRead a o.bank e.seq s.now then .waitBank
      else .go

/-! ## A beat (R87, R89, R109, R110) -/

/-- Index of active row or column `i` of partition `p` along the operand's other axis (R109). -/
def Operand.index (x : Operand) (p i : Nat) : Nat := if x.shared then i else p * x.act + i

/-- The k-vectors that beat `b` takes of an operand, by their index along its other axis: the bits of each element and its
scale byte (R109). -/
def Operand.vecs (s : State) (x : Operand) (h : TileShape) (o : OpxCmd) (b : Nat) : List (List (Nat × Nat)) :=
  (List.range (if x.shared then x.act else o.parts * x.act)).map fun i => (List.range o.k).map fun u =>
    let k := o.kstart + b * o.k + u
    if x.ax then (tileElem s x.t h k i, tileScale s x.t h k i) else (tileElem s x.t h i k, tileScale s x.t h i k)

/-- What beat `b` of command `c` takes with it as it enters in cycle `s.now`. -/
def takeBeat (s : State) (c : Cmd) (b : Nat) : Beat :=
  let o := opxOf c
  let side (x : Operand) : Nat × List (List (Nat × Nat)) := match s.shapeOf x.t with
    | some h => if cOpc c = 1 then (h.fmt.toNat, x.vecs s h o b) else (0, [])
    | none => (0, [])
  ⟨s.now + Config.opaCommit, c, b = 0, (side o.a).1, (side o.b).1, (side o.a).2, (side o.b).2⟩

/-- An INT8 element as a signed number. -/
def int8 (x : Nat) : Int := (BitVec.ofNat 8 x).toInt

/-- The sticky flags an OPX sets (R89, R125). -/
structure AccFlags where
  sat : Bool
  nan : Bool
  inf : Bool
deriving DecidableEq, Repr

def AccFlags.none : AccFlags := ⟨false, false, false⟩
def AccFlags.or (x y : AccFlags) : AccFlags := ⟨x.sat || y.sat, x.nan || y.nan, x.inf || y.inf⟩

/-- The beat's dot product of one A and one B k-vector added to a cell (R87, R89). -/
def Beat.add (t : Beat) (va vb : List (Nat × Nat)) (old : BitVec 32) : BitVec 32 × AccFlags :=
  if (opxOf t.cmd).int32 then
    let r := cubeStepInt old ((va.zip vb).map fun x => (int8 x.1.1, int8 x.2.1))
    (r.1, ⟨r.2, false, false⟩)
  else
    let scale (v : List (Nat × Nat)) : Nat := match v with | x :: _ => x.2 | [] => 127
    let r := cubeStep old ((va.zip vb).map fun x => (elemNum t.fmtA x.1.1, elemNum t.fmtB x.2.1)) (scale va) (scale vb)
    let n := fpDecode fp32 r.toNat
    (r, ⟨false, n.isNan, n.isInf⟩)

/-- The partition, row and column inside it of cell (r, c) (R108). -/
def OpxCmd.locate (o : OpxCmd) (r c : Nat) : Nat × Nat × Nat :=
  let d := shapeDims o.shape
  match (List.range d.1).find? (fun p =>
    let g := shapeOrigin o.shape p
    g.1 ≤ r && r < g.1 + d.2.1 && g.2 ≤ c && c < g.2 + d.2.2) with
  | some p => let g := shapeOrigin o.shape p; (p, r - g.1, c - g.2)
  | none => (d.1, 0, 0)

/-- Cell (r, c), which held `old`, after the beat (R109 to R111). -/
def Beat.cell (t : Beat) (r c : Nat) (old : BitVec 32) : BitVec 32 × AccFlags :=
  let o := opxOf t.cmd
  let l := o.locate r c
  if cOpc t.cmd ≠ 1 then (0, AccFlags.none)
  else if !o.active.contains l.1 then (old, AccFlags.none)
  else
    let start : BitVec 32 := if o.z && t.first then 0 else old
    if l.2.1 < o.mact ∧ l.2.2 < o.nact then
      t.add (t.a.getD (o.a.index l.1 l.2.1) []) (t.b.getD (o.b.index l.1 l.2.2) []) start
    else (start, AccFlags.none)

/-- Every cell of a bank after the beat, in the order 128r + c, each with its flags. -/
def Beat.bank (t : Beat) (k : Bank) : List (BitVec 32 × AccFlags) :=
  (List.range 16384).map fun n => t.cell (n / 128) (n % 128) (k.cells.get n)

/-- An element's bits are a zero of its format. -/
def elemZero (fmt x : Nat) : Bool := if fmt = 0xA then x == 0 else (elemNum fmt x).isZero

/-- Cube steps of the beat that zero gating counts (R123). -/
def Beat.gated (t : Beat) : Nat :=
  let o := opxOf t.cmd
  let zeros (x : Operand) (fmt : Nat) (vs : List (List (Nat × Nat))) (p lo : Nat) : Bool :=
    (List.range (min 4 (x.act - lo))).all fun i =>
      (vs.getD (x.index p (lo + i)) []).all fun e => elemZero fmt e.1
  let d := shapeDims o.shape
  if cOpc t.cmd ≠ 1 then 0
  else (o.active.map fun p =>
    (((List.range (d.2.1 / 4)).flatMap fun i => (List.range (d.2.2 / 4)).map fun j => (4 * i, 4 * j)).filter fun c =>
      c.1 < o.mact && c.2 < o.nact && (zeros o.a t.fmtA t.a p c.1 || zeros o.b t.fmtB t.b p c.2)).length).sum

/-- The bank a command of an array queue works on. -/
def arrayBank (c : Cmd) : Fin 2 := if cOpc c = 1 then (opxOf c).bank else Fin.ofNat 2 (fld c 19 1)

/-- The bank kind that a command leaves its bank with (R90, R111). -/
def arrayKind (c : Cmd) (old : Bool) : Bool :=
  if cOpc c = 1 then (if (opxOf c).z then (opxOf c).int32 else old) else bitAt c 20

/-- Beat `t` of array `a` commits: the cells of its bank, with its first beat the kind, and the sticky flags (R115, R125). -/
def commitBeat (a : Fin 2) (t : Beat) (s : State) : State :=
  let b := arrayBank t.cmd
  let k := s.opa[a].banks[b]
  let out := t.bank k
  let fl : AccFlags := out.foldl (fun f c => f.or c.2) AccFlags.none
  let k := { k with
    cells := k.cells.fill 0 16384 fun i => (out[i]?.map (·.1)).getD 0,
    int32 := if t.first then arrayKind t.cmd k.int32 else k.int32 }
  let p := Page.opa a
  let s := ((s.noteIf fl.sat p 40).noteIf fl.nan p 41).noteIf fl.inf p 42
  modOpa a (fun x => { x with
    sat := x.sat || fl.sat, nan := x.nan || fl.nan, inf := x.inf || fl.inf, banks := x.banks.set b k }) s

/-- The beats of array `a` whose commit falls in this cycle. -/
def commitBeats (a : Fin 2) (s : State) : State :=
  let due := s.opa[a].pipe.filter fun t => t.commitAt ≤ s.now
  due.foldl (fun s t => commitBeat a t s)
    (modOpa a (fun x => { x with pipe := x.pipe.filter fun t => s.now < t.commitAt }) s)

/-- The uses of tile registers `ts` retire in this cycle (R117, R138). -/
def retireTiles (ts : List (Fin 16)) (s : State) : State := ts.foldl (fun s t => retireUse t s) s

/-- The readout point of the command whose last beat enters now (R115, R116). -/
def setReadout (at_ : Nat) (rs : List Readout) : List Readout :=
  rs.mapIdx fun i r => if i + 1 = rs.length then { r with at_ := some at_ } else r

/-- A beat of array `a` enters: the counts, the pipeline, and with the last of its command the readout point, the end of its
use of the tile registers, and the next start (R115, R117, R125). -/
def enterBeat (a : Fin 2) (s : State) : State :=
  let x := s.opa[a]
  let t := takeBeat s x.cur x.beatIx
  let b := arrayBank x.cur
  let gap := if cOpc x.cur = 1 ∧ (opxOf x.cur).half then 2 else 1
  let last := x.left = 1
  let s' := modOpa a (fun x => { x with
    left := x.left - 1, nextBeat := s.now + gap, asked := false, pipe := x.pipe ++ [t],
    beats := x.beats + 1, beatIdx := BitVec.ofNat 16 x.beatIx,
    zgated := if x.zgEn then x.zgated + BitVec.ofNat 48 t.gated else x.zgated,
    freeAt := if last then s.now + gap else x.freeAt,
    banks := if last then
        x.banks.set b { x.banks[b] with pend := setReadout (s.now + Config.opaCommit + Config.opaReady) (x.banks[b]).pend }
      else x.banks }) (s.spend (.beat t.fmtA t.fmtB (if x.zgEn then t.gated else 0)) (some x.curThread) 1)
  if last then retireTiles (tileUses x.cur) s' else s'

/-- The cycle's turn of array `a`'s collectors and of the beat that is due, unless R132 holds it. -/
def arrayCycle (a : Fin 2) (carry : List Nat) (held : Bool) (s : State) : State :=
  let x := s.opa[a]
  let asked := if x.left = 0 then (s.opaAhead a).isSome else x.asked || (!s.beatDue a && !(s.feedBanks a).isEmpty)
  let due := s.beatDue a
  let s := modOpa a (fun x => { x with carry := carry, asked := asked }) s
  if due && !held then enterBeat a s else s

/-- Both arrays in one cycle: what the collectors take and carry over, the beats that enter, and the cycle that R132 holds one
(R131, R132); TILE_WAIT.FEED counts it. -/
def arrayCycles (s : State) : State :=
  match feedShare s with
  | some (l, held, left) =>
    let c (a : Fin 2) : List Nat := s.opa[a].carry
    let s := modOpa l (fun x => { x with feed := left }) s
    let s := { s with tile := { s.tile with waitFeed := upIf held s.tile.waitFeed } }
    arrayCycle 1 (c 1) (held && l = 1) (arrayCycle 0 (c 0) (held && l = 0) s)
  | none =>
    let r := s.feedTurn (s.tile.landed.map (·.1) ++ s.tile.read)
    arrayCycle 1 r.2.2 false (arrayCycle 0 r.2.1 false s)

/-! ## Starts -/

/-- A fault of an array command at its start (R69, R107, R122). -/
def opaFault (a : Fin 2) (e : QEntry) (code : Nat) (s : State) : State :=
  let bit := code - 0x10
  let bank := (arrayBank e.raw).val
  if s.clu.live then
    countEvt (Page.opa a) 2
      (modOpa a (fun x => { x with held := true }) (logEvt (Page.opa a) bit (defaultLog code bank e.seq) s))
  else engineFault (Page.opa a) bit code bank e.seq (popQueue (opaQ a) s)

/-- Array command `e` starts: its beats enter from this cycle on (R111, R117). PAGE_STAT.SHAPE keeps its value at an OPA.CLR,
which has none (DESIGN CHOICE, assumption 48). -/
def runArray (a : Fin 2) (e : QEntry) (s : State) : State :=
  let b := arrayBank e.raw
  modOpa a (fun x => { x with
    shape := if cOpc e.raw = 1 then BitVec.ofNat 3 (opxOf e.raw).shape else x.shape, bank := b == 1,
    cur := e.raw, curSeq := e.seq, curThread := e.thread, left := arrayBeats e.raw, nextBeat := s.now, feed := 0,
    banks := x.banks.set b { x.banks[b] with
      kindNext := arrayKind e.raw (x.banks[b]).kindNext,
      pend := (x.banks[b]).pend ++ [⟨none, cSig e.raw⟩] } }) (popQueue (opaQ a) s)

/-- The head of array `a`'s queue starts when it has opcode `opc` and nothing holds it. -/
def opaStart (opc : Nat) (a : Fin 2) (s : State) : State :=
  match s.head? (opaQ a) with
  | none => s
  | some e =>
    if cOpc e.raw ≠ opc then s
    else match s.opaNext a e with
      | .bad code => opaFault a e code s
      | .go => runArray a e s
      | _ => s

def execOpx (a : Fin 2) (s : State) : Host.Outcome State Fault Refusal := .next (opaStart 1 a s)
def execOpaClr (a : Fin 2) (s : State) : Host.Outcome State Fault Refusal := .next (opaStart 2 a s)

/-- A readout point is reached: the bank may be read and the command signals (R115, R116). -/
def bankReadoutPoint (a b : Fin 2) (s : State) : State :=
  match (s.opa[a].banks[b]).pend with
  | ⟨some at_, sig⟩ :: r =>
    if !s.clocked || s.now < at_ then s
    else signalOpt sig (modOpa a (fun x => { x with banks := x.banks.set b { x.banks[b] with pend := r } }) s)
  | _ => s

def execBankReadoutPoint (a b : Fin 2) (s : State) : Host.Outcome State Fault Refusal := .next (bankReadoutPoint a b s)

/-- A write of OPAn_CTL: ZG_EN, and RESUME of a held command (R122, R125). -/
def opaCtl (a : Fin 2) (v : BitVec 64) (s : State) : State :=
  let s := modOpa a (fun x => { x with zgEn := bitAt v 0 }) s
  if bitAt v 8 && s.opa[a].held then popQueue (opaQ a) (modOpa a (fun x => { x with held := false }) s) else s

end Sys2Proof.Machine
end

