-- ==== Sys2Proof/Machine/Vector.lean ====
section
/-! DEFINITION. The vector engine (chapter 07): registers and masks (R148, R155, R156), issue and interlocks (R152 to
R154), the lane datapath, loads and stores (R159 to R161), the readout VACC.RD (R167, R168), inspection holds. A command is
a run of passes; each pass reads its sources as it issues, and its result reaches the registers when it is usable
(assumption 13). -/

namespace Sys2Proof.Machine

/-! ## Registers -/

/-- Lane `e` of V register `r`. -/
def State.lane (s : State) (r e : Nat) : BitVec 32 := s.vec.v.get (65536 * r + e)

/-- Mask bit `e` of K register `k`; K0 reads as all ones (R148). -/
def State.mask (s : State) (k e : Nat) : Bool := k == 0 || s.vec.k.get (65536 * k + e) == 1

/-- Body lane `e` is active for command `c` (R155). -/
def State.active (s : State) (c : Cmd) (e : Nat) : Bool := s.mask (cKm c) e

/-- Passes of a command over `vl` lanes (R150). -/
def passCount (b : Build) (vl : Nat) : Nat := (vl + b.vlen - 1) / b.vlen

/-! ## Register use and interlocks (R152 to R154)

V register r is numbered r, K register k is numbered 32 + k. -/

/-- Registers a command reads, and registers it writes. -/
def regUse (c : Cmd) : List Nat × List Nat :=
  let fn := cFn c
  let km : List Nat := if cKm c = 0 then [] else [32 + cKm c]
  let k (n : Nat) : List Nat := if n = 0 then [] else [32 + n]
  match cOpc c with
  | 0x0A => ([cVa c] ++ (if fn < 6 then [cVb c] else []) ++ (if fn = 3 then [cVc c] else []) ++ km, [cVd c])
  | 0x0B => ([cVa c] ++ (if fn = 8 then [] else [cVb c]) ++ km, [cVd c])
  | 0x0C => ([cVa c, cVb c] ++ km, k (fld c 23 3))
  | 0x0D => ((if fn = 2 then [] else [cVa c]) ++ (if fn = 1 then [cVb c] ++ k (fld c 38 3) else []) ++ km, [cVd c])
  | 0x0E => (k (fld c 28 3) ++ (if fn = 3 then [] else k (fld c 33 3)), k (fld c 23 3))
  | 0x0F | 0x10 => ([cVa c] ++ km, [cVd c])
  | 0x11 | 0x12 => ([cVa c] ++ (if fn / 16 = 1 then k (fld c 49 3) else []) ++ km, [cVd c])
  | 0x13 => ([cVa c] ++ (if fn = 0 then [cVb c] else []) ++ (if fn ≥ 2 then k (fld c 49 3) else km), [cVd c])
  | 0x14 | 0x16 => (km, [cVd c])
  | 0x15 | 0x17 => (cVd c :: km, [])
  | 0x18 => (cVa c :: km, [cVd c])
  | 0x19 => (cVd c :: cVa c :: km, [])
  | 0x1A => ([], [fld c 31 5])
  | _ => ([], [])

/-- V registers a Flight reads (R177). -/
def flightRegs (c : Cmd) (cap : List Cmd) : List Nat :=
  (if goSrc c = 1 then [goVs c] else []) ++
    (((goStages c).map (capStage cap)).filter fun q => 2 ≤ stOk q && stOk q ≤ 4).map stOreg

/-- Registers that a queue entry reads, and registers it writes. -/
def QEntry.regs (e : QEntry) : List Nat × List Nat :=
  if cOpc e.raw = 0x1E then (flightRegs e.raw e.cap, []) else regUse e.raw

/-- The unit a lane command, a load, a store or a readout runs on (R152). -/
def unitOf (c : Cmd) : VUnit :=
  match cOpc c with
  | 0x10 => .trans
  | 0x11 | 0x12 | 0x13 => .xnet
  | 0x14 | 0x16 | 0x18 => .read
  | 0x15 | 0x17 | 0x19 => .write
  | 0x1A => .readout
  | 0x1E => .flight
  | _ => .alu

/-- Cycles from one pass of a unit to the next. -/
def VUnit.rate : VUnit → Nat | .trans => 4 | _ => 1

/-- The lane datapath and its memory ports, whose passes a bubble holds back and VEC_PASSES counts (R173, R318). -/
def VUnit.lanes : VUnit → Bool | .readout => false | .flight => false | _ => true

/-- Cycles after which a pass of command `c` is usable; of a load, the least (R152, R168). -/
def passLat (b : Build) (c : Cmd) : Nat :=
  match unitOf c with
  | .alu => Config.vecAlu
  | .trans => Config.vecTrans
  | .xnet => if cOpc c = 0x13 then Config.vecPerm else Config.vecScan b.lanes
  | .read => accessLat b (vmBase c)
  | _ => 1

/-- The command needs its sources whole: a permute, VRED, a Flight (R154, R177). -/
def readsWhole (c : Cmd) : Bool := cOpc c == 0x12 || cOpc c == 0x13 || cOpc c == 0x1E

/-- The 512 lanes that cycle `t` of a VACC.RD writes start at this one (R167, R168). -/
def readoutLo (c : Cmd) (t : Nat) : Nat := fld c 36 7 * 512 + 512 * t

/-- The read cycles of a VACC.RD that write lanes of slice `p`. -/
def readoutCycles (vlen : Nat) (r : VRun) (p : Nat) : List Nat :=
  (List.range r.n).filter fun t => let lo := readoutLo r.e.raw t; lo < (p + 1) * vlen && p * vlen < lo + 512

/-- The slice that pass `p` of command `c` works on. -/
def sliceOf (vlen : Nat) (c : Cmd) (p : Nat) : Nat := if cOpc c = 0x1A then readoutLo c p / vlen else p

/-- The cycle from which what run `r` writes to slice `p` of its destination is usable; `none` while it is not known. -/
def VRun.usable (b : Build) (r : VRun) (p : Nat) : Option Nat :=
  let lat := passLat b r.e.raw
  match r.unit with
  | .readout =>
    (readoutCycles b.vlen r p).foldl (fun m t => match m, r.issued[t]? with | some x, some k => some (max x (k + lat)) | _, _ => none)
      (some 0)
  | .read => if r.n ≤ p then some 0 else (r.done.find? fun d => d.1 == p).map (·.2)
  | _ =>
    if r.n ≤ p then some 0
    else if cOpc r.e.raw = 0x12 then (if r.issued.length = r.n then r.issued.getLast?.map (· + lat) else none)
    else r.issued[p]?.map (· + lat)

/-- The cycle in which run `r` read slice `p` of its sources; `none` while it has not (R154, R177). -/
def VRun.readAt (r : VRun) (p : Nat) : Option Nat :=
  if r.unit = .flight then (if r.done.length = r.n then r.done.getLast?.map (·.2) else none)
  else if readsWhole r.e.raw then (if r.issued.length = r.n then r.issued.getLast? else none)
  else if r.n ≤ p then some 0
  else r.issued[p]?

/-- A known cycle that is no later than `n`. -/
def byCycle (n : Nat) : Option Nat → Bool | some k => k ≤ n | none => false

/-- Slice `p` of what run `r` writes is usable in cycle `n`; with `whole`, every slice. -/
def VRun.ready (b : Build) (r : VRun) (whole : Bool) (p n : Nat) : Bool :=
  if whole then (List.range 32).all fun i => byCycle n (r.usable b i) else byCycle n (r.usable b p)

/-- The interlocks of R154 let pass `p` of `e` issue in cycle `n`, with the runs `ahead` started before it. -/
def passOk (b : Build) (ahead : List VRun) (e : QEntry) (whole : Bool) (p n : Nat) : Bool :=
  let u := e.regs
  let i := sliceOf b.vlen e.raw p
  ahead.all fun r =>
    let w := r.e.regs
    (!u.1.any (w.2.contains ·) || r.ready b whole i n) &&
      (!u.2.any (w.2.contains ·) || byCycle (n + passLat b e.raw - 1) (r.usable b i)) &&
      (!u.2.any (w.1.contains ·) || (n > 0 && byCycle (n - 1) (r.readAt i)))

/-- The engine may start the command at the head of queue 3 (R153). -/
def State.vecHead (s : State) : Option QEntry :=
  if s.vec.held || s.vec.heldFlt || s.vec.startedAt > s.now then none else s.head? 3

/-- A load, a store or a TRD.LOAD has a request that no bank has granted. -/
def State.portBusy (s : State) (wr : Bool) : Bool :=
  s.reqs.any fun r => r.unit == .vec && r.wr.isSome == wr &&
    match s.job? r.job with | some j => (match j.kind with | .flight _ _ => false | _ => true) | none => false

/-- The last pass of the command before on unit `u` has issued (R153). -/
def State.unitFree (s : State) (u : VUnit) : Bool :=
  !(s.vec.runs.any fun r => r.unit == u && r.issued.length < r.n) &&
    (match u with | .read => !s.portBusy false | .write => !s.portBusy true | _ => true)

/-- The readout path is free: no VACC.RD and no Flight still reads a bank (R168). -/
def State.pathFree (s : State) : Bool :=
  !(s.vec.runs.any fun r => r.issued.length < r.n && (r.unit == .readout || (r.unit == .flight && goSrc r.e.raw == 0)))

/-- The unit is free and the interlocks let the first pass of `e` issue (R153, R154). -/
def State.passReady (s : State) (e : QEntry) : Bool :=
  s.unitFree (unitOf e.raw) && passOk s.build s.vec.runs e (readsWhole e.raw) 0 s.now

/-- The command at the head has started: it leaves the queue (R153). -/
def vecStarted (e : QEntry) (s : State) : State :=
  let s := popQueue 3 s
  { s with vec := { s.vec with startedAt := s.now + 1, lastVl := e.vl } }

/-- A run of `e`, no pass of it issued. -/
def newRun (e : QEntry) (n : Nat) (job : Option Nat) : VRun := ⟨e, unitOf e.raw, job, n, [], [], [], [], []⟩

def addRun (r : VRun) (s : State) : State := { s with vec := { s.vec with runs := s.vec.runs ++ [r] } }

/-- The run at place `i` becomes `r`. -/
def setRun (i : Nat) (r : VRun) (s : State) : State := { s with vec := { s.vec with runs := s.vec.runs.set i r } }

/-- The lanes of pass `p` of a command over `vl` lanes. -/
def passLanes (b : Build) (vl p : Nat) : List Nat :=
  (List.range (min b.vlen (vl - p * b.vlen))).map (p * b.vlen + ·)

/-! ## Lane values: arithmetic, logic, compare, move, conversion (R95, R157, R158, R395) -/

/-- What lane `e` of a command on V registers gives an active lane. -/
def laneValue (s : State) (c : Cmd) (e : Nat) : BitVec 32 :=
  let a := s.lane (cVa c) e
  let b := s.lane (cVb c) e
  match cOpc c with
  | 0x0A => vfpLane (bitAt c 48) (cFn c) a b (s.lane (cVc c) e)
  | 0x0B => vintLane (cFn c) a b
  | 0x0D =>
    (match cFn c with
    | 0 => a
    | 1 => if s.mask (fld c 38 3) e then a else b
    | _ => c.extractLsb' 49 32)
  | 0x0F => vcvtLane (fld c 49 2) (fld c 51 2) (bitAt c 53) (fld c 54 3) (srBits (c.extractLsb' 64 64) e 0) a 0
  | _ => transLane (cFn c) a

/-- The bits of a lane that command `c` writes: a conversion to BF16 writes one half (R158). -/
def laneBits (c : Cmd) : BitVec 32 :=
  if cOpc c = 0x0F ∧ fld c 51 2 = 2 then (if bitAt c 53 then 0xFFFF0000 else 0x0000FFFF) else 0xFFFFFFFF

/-- What command `c` writes to lane `e` of `vd`, whose active value is `x` (R155, R156). A conversion to BF16 with MZ clears an
inactive lane whole: R156 zeroes the lane and R158 keeps its other half (DESIGN CHOICE, assumption 50). -/
def laneCell (s : State) (c : Cmd) (vd e : Nat) (x : BitVec 32) : List VCell :=
  let key := 65536 * vd + e
  if s.active c e then [⟨false, key, laneBits c, x⟩]
  else if s.clu.live && cMz c then [⟨false, key, 0xFFFFFFFF, 0⟩]
  else []

/-- The mask bit `v` for lane `e` of `kd`; writes to K0 are ignored (R148). -/
def maskCell (kd e : Nat) (v : Bool) : List VCell := if kd = 0 then [] else [⟨true, 65536 * kd + e, 1, BitVec.ofNat 32 (b2n v)⟩]

/-- What a VCMP writes for lane `e`. -/
def cmpCell (s : State) (c : Cmd) (e : Nat) : List VCell :=
  let kd := fld c 23 3
  if s.active c e then maskCell kd e (vcmpLane (cFn c) (s.lane (cVa c) e) (s.lane (cVb c) e))
  else if s.clu.live && cMz c then maskCell kd e false
  else []

/-- What mask logic writes for lane `e`: every body bit (R155). -/
def klogCell (s : State) (c : Cmd) (e : Nat) : List VCell :=
  let a := s.mask (fld c 28 3) e
  let b := s.mask (fld c 33 3) e
  maskCell (fld c 23 3) e (match cFn c with | 0 => a && b | 1 => a || b | 2 => a != b | _ => !a)

/-! ## Scans and reductions (R162 to R164) -/

/-- The combination of lanes under a scan's op; of none, its identity. MAX and MIN fold the lanes without the identity, so that
lanes that are all NaN give canonical NaN (DESIGN CHOICE, assumption 51). -/
def scanCombine (op : Nat) (xs : List (BitVec 32)) : BitVec 32 :=
  let num (x : BitVec 32) : Num := fpIn fp32 x.toNat
  match op, xs with
  | 0, [] => 0
  | 0, xs => BitVec.ofNat 32 (fpOut fp32 (sumTerms none (xs.map num)))
  | 1, xs => xs.foldl (· + ·) 0
  | 2, [] => 0xFF800000
  | 2, x :: r => BitVec.ofNat 32 (fpOut fp32 ((r.map num).foldl numMax (num x)))
  | 3, [] => 0x7F800000
  | 3, x :: r => BitVec.ofNat 32 (fpOut fp32 ((r.map num).foldl numMin (num x)))
  | 4, xs => xs.foldl (vintLane 4) 0x80000000
  | _, xs => xs.foldl (vintLane 3) 0x7FFFFFFF

/-- What a pass takes from lane `e` of its source: VSCAN, VRED and the gathers (R154, R161, R162). -/
def takeLane (s : State) (c : Cmd) (e : Nat) : VSrc :=
  ⟨e, s.active c e, e == 0 || (cFn c / 16 == 1 && s.mask (fld c 49 3) e), s.lane (cVa c) e⟩

/-- First lane of the segment of lane `e`. -/
def segLo (src : List VSrc) (e : Nat) : Nat := ((src.filter fun q => q.seg && q.e ≤ e).map (·.e)).foldl max 0

/-- The first lane after the segment of lane `e`, or `hi`. -/
def segHi (src : List VSrc) (hi e : Nat) : Nat := ((src.filter fun q => q.seg && e < q.e).map (·.e)).foldl min hi

/-- The active source lanes from `lo` to `hi - 1`. -/
def coveredLanes (src : List VSrc) (lo hi : Nat) : List (BitVec 32) :=
  (src.filter fun q => q.on && lo ≤ q.e && q.e < hi).map (·.x)

/-- A scan's result for lane `e`, inclusive or exclusive. -/
def scanValue (c : Cmd) (src : List VSrc) (e : Nat) : BitVec 32 :=
  scanCombine (cFn c % 8) (coveredLanes src (segLo src e) (if cFn c / 8 % 2 = 1 then e else e + 1))

/-- A reduction's result for lane `e`: its whole segment. -/
def redValue (c : Cmd) (src : List VSrc) (vl e : Nat) : BitVec 32 :=
  scanCombine (cFn c % 8) (coveredLanes src (segLo src e) (segHi src vl e))

/-! ## Permutes (R165, R166) -/

/-- What lane `e` of a VPERM or VBCAST receives. -/
def permValue (s : State) (c : Cmd) (vl e : Nat) : BitVec 32 :=
  let i := if cFn c = 0 then (s.lane (cVb c) e).toNat else fld c 49 16
  if i < vl then s.lane (cVa c) i else 0

/-- What every lane of a VCOMPRESS or VEXPAND receives, in order; both write all body lanes (R155). -/
def packValues (s : State) (c : Cmd) (vl : Nat) : List (BitVec 32) :=
  let k (e : Nat) : Bool := s.mask (fld c 49 3) e
  if cFn c = 2 then
    let src := ((List.range vl).filter k).map fun e => s.lane (cVa c) e
    (List.range vl).map fun e => src.getD e 0
  else (List.range vl).map fun e => if k e then s.lane (cVa c) ((List.range e).filter k).length else 0

/-- All that a permute or VRED writes, formed with its first pass. -/
def wholeCells (s : State) (c : Cmd) (vl : Nat) (src : List VSrc) : List VCell :=
  if cOpc c = 0x12 then (List.range vl).flatMap fun e => laneCell s c (cVd c) e (redValue c src vl e)
  else if cFn c ≥ 2 then
    (packValues s c vl).mapIdx fun e x => ⟨false, 65536 * cVd c + e, 0xFFFFFFFF, x⟩
  else (List.range vl).flatMap fun e => laneCell s c (cVd c) e (permValue s c vl e)

/-! ## A pass of the lane datapath (R150, R152) -/

/-- What the pass over `lanes` writes, of a command that is neither permute nor VRED. -/
def sliceCells (s : State) (c : Cmd) (src : List VSrc) (lanes : List Nat) : List VCell :=
  match cOpc c with
  | 0x0C => lanes.flatMap (cmpCell s c)
  | 0x0E => lanes.flatMap (klogCell s c)
  | 0x11 => lanes.flatMap fun e => laneCell s c (cVd c) e (scanValue c src e)
  | _ => lanes.flatMap fun e => laneCell s c (cVd c) e (laneValue s c e)

/-- Results `cells`, usable in cycle `at_`. -/
def addWrites (at_ : Nat) (cells : List VCell) (s : State) : State :=
  { s with vec := { s.vec with writes := s.vec.writes ++ [⟨at_, cells⟩] } }

/-- A pass of command `e` has issued: VEC_PASSES counts it (R173). -/
def countPass (e : QEntry) (s : State) : State :=
  ({ s with vec := { s.vec with passes := s.vec.passes + 1 } } : State).spend (.pass (cOpc e.raw) (fld e.raw 43 10)) (some e.thread) 1

/-- The next pass of lane command `r` issues in this cycle: it reads its lanes, and its results are usable after the unit's
latency; those of a VRED, after its last pass (R152, R163, R164). -/
def issueLanes (r : VRun) (s : State) : VRun × State :=
  let c := r.e.raw
  let p := r.issued.length
  let lanes := passLanes s.build r.e.vl p
  let whole := readsWhole c
  let src := if cOpc c = 0x11 then r.src ++ lanes.map (takeLane s c)
    else if cOpc c = 0x12 && p == 0 then (List.range r.e.vl).map (takeLane s c) else r.src
  let out := if whole && p == 0 then wholeCells s c r.e.vl src else r.out
  let cells := if whole then out.filter fun x => x.key % 65536 / s.build.vlen == p else sliceCells s c src lanes
  let at_ := s.now + passLat s.build c
  let last := p + 1 = r.n
  let s := countPass r.e s
  ({ r with issued := r.issued ++ [s.now], src := src, out := if last then [] else out },
    if cOpc c = 0x12 then (if last then addWrites at_ out s else s) else addWrites at_ cells s)

/-- The head `e` starts on its lane unit: its first pass issues. -/
def laneStart (e : QEntry) (s : State) : State :=
  let x := issueLanes (newRun e (passCount s.build e.vl) none) (vecStarted e s)
  addRun x.1 x.2

/-- The row of a lane command: the head starts when `sel` holds of it and its unit and its registers allow. -/
def laneRow (sel : Cmd → Bool) (s : State) : State :=
  match s.vecHead with
  | none => s
  | some e => if sel e.raw && s.passReady e then laneStart e s else s

def isFn (opc fn : Nat) (c : Cmd) : Bool := cOpc c == opc && cFn c == fn

def execVadd (s : State) : Host.Outcome State Fault Refusal := .next (laneRow (isFn 0x0A 0) s)
def execVsub (s : State) : Host.Outcome State Fault Refusal := .next (laneRow (isFn 0x0A 1) s)
def execVmul (s : State) : Host.Outcome State Fault Refusal := .next (laneRow (isFn 0x0A 2) s)
def execVfma (s : State) : Host.Outcome State Fault Refusal := .next (laneRow (isFn 0x0A 3) s)
def execVmin (s : State) : Host.Outcome State Fault Refusal := .next (laneRow (isFn 0x0A 4) s)
def execVmax (s : State) : Host.Outcome State Fault Refusal := .next (laneRow (isFn 0x0A 5) s)
def execVabs (s : State) : Host.Outcome State Fault Refusal := .next (laneRow (isFn 0x0A 6) s)
def execVneg (s : State) : Host.Outcome State Fault Refusal := .next (laneRow (isFn 0x0A 7) s)
def execVaddI (s : State) : Host.Outcome State Fault Refusal := .next (laneRow (isFn 0x0B 0) s)
def execVsubI (s : State) : Host.Outcome State Fault Refusal := .next (laneRow (isFn 0x0B 1) s)
def execVmulI (s : State) : Host.Outcome State Fault Refusal := .next (laneRow (isFn 0x0B 2) s)
def execVminI (s : State) : Host.Outcome State Fault Refusal := .next (laneRow (isFn 0x0B 3) s)
def execVmaxI (s : State) : Host.Outcome State Fault Refusal := .next (laneRow (isFn 0x0B 4) s)
def execVand (s : State) : Host.Outcome State Fault Refusal := .next (laneRow (isFn 0x0B 5) s)
def execVor (s : State) : Host.Outcome State Fault Refusal := .next (laneRow (isFn 0x0B 6) s)
def execVxor (s : State) : Host.Outcome State Fault Refusal := .next (laneRow (isFn 0x0B 7) s)
def execVnot (s : State) : Host.Outcome State Fault Refusal := .next (laneRow (isFn 0x0B 8) s)
def execVshl (s : State) : Host.Outcome State Fault Refusal := .next (laneRow (isFn 0x0B 9) s)
def execVshr (s : State) : Host.Outcome State Fault Refusal := .next (laneRow (isFn 0x0B 10) s)
def execVsra (s : State) : Host.Outcome State Fault Refusal := .next (laneRow (isFn 0x0B 11) s)
def execVcmp (s : State) : Host.Outcome State Fault Refusal :=
  .next (laneRow (fun c => cOpc c == 0x0C) s)
def execVmov (s : State) : Host.Outcome State Fault Refusal := .next (laneRow (isFn 0x0D 0) s)
def execVsel (s : State) : Host.Outcome State Fault Refusal := .next (laneRow (isFn 0x0D 1) s)
def execVsplat (s : State) : Host.Outcome State Fault Refusal := .next (laneRow (isFn 0x0D 2) s)
def execKand (s : State) : Host.Outcome State Fault Refusal := .next (laneRow (isFn 0x0E 0) s)
def execKor (s : State) : Host.Outcome State Fault Refusal := .next (laneRow (isFn 0x0E 1) s)
def execKxor (s : State) : Host.Outcome State Fault Refusal := .next (laneRow (isFn 0x0E 2) s)
def execKnot (s : State) : Host.Outcome State Fault Refusal := .next (laneRow (isFn 0x0E 3) s)
def execVcvt (s : State) : Host.Outcome State Fault Refusal :=
  .next (laneRow (fun c => cOpc c == 0x0F) s)
def execVrcp (s : State) : Host.Outcome State Fault Refusal := .next (laneRow (isFn 0x10 0) s)
def execVrsqrt (s : State) : Host.Outcome State Fault Refusal := .next (laneRow (isFn 0x10 1) s)
def execVexp2 (s : State) : Host.Outcome State Fault Refusal := .next (laneRow (isFn 0x10 2) s)
def execVlog2 (s : State) : Host.Outcome State Fault Refusal := .next (laneRow (isFn 0x10 3) s)
def execVscan (s : State) : Host.Outcome State Fault Refusal := .next (laneRow (fun c => cOpc c == 0x11) s)
def execVred (s : State) : Host.Outcome State Fault Refusal := .next (laneRow (fun c => cOpc c == 0x12) s)

/-! ## Lane faults (R156, R161, R166) -/

/-- The engine holds the head `e` for a lane fault (R156). -/
def holdLane (e : QEntry) (lane code : Nat) (s : State) : State :=
  let s := logEvt .vec 0 (defaultLog (0x1B + code) 0 e.seq) s
  { s with vec := { s.vec with
    held := true, faultLane := BitVec.ofNat 16 lane, faultCode := BitVec.ofNat 4 code,
    faultInactive := !s.active e.raw lane, faultSeq := BitVec.ofNat 32 e.seq } }

/-- Lane `i` of `e` has an index that is out of range. -/
def oobLane (s : State) (e : QEntry) (i : Nat) : Bool :=
  let c := e.raw
  match cOpc c with
  | 0x13 => if cFn c = 0 then (s.lane (cVb c) i).toNat ≥ e.vl else fld c 49 16 ≥ e.vl
  | _ => (s.lane (cVa c) i).toNat ≥ vmWindow c

/-- Counts the active lanes of `lanes` that are out of range in normal service (R161, R166). -/
def countOob (e : QEntry) (lanes : List Nat) (s : State) : State :=
  let n := (lanes.filter fun i => s.active e.raw i && oobLane s e i).length
  if n = 0 then s
  else if cOpc e.raw = 0x13 then
    State.noteSet { s with vec := { s.vec with permOob := true, oobPerm := s.vec.oobPerm + BitVec.ofNat 32 n } } .vec 32
  else State.noteSet { s with vec := { s.vec with idxOob := true, oobIdx := s.vec.oobIdx + BitVec.ofNat 32 n } } .vec 33

/-- A command with a lane check: in inspection mode, once its index operand is wholly usable, a lane out of range holds the
engine before any lane is written (R156). -/
def laneChecked (e : QEntry) (code : Nat) (go : State → State) (s : State) : State :=
  if s.clu.live then
    if !passOk s.build s.vec.runs e true 0 s.now then s
    else match (List.range e.vl).find? (oobLane s e) with
      | some l => holdLane e l code s
      | none => go s
  else go s

/-- A permute with a lane check. -/
def permRow (fn : Nat) (s : State) : State :=
  match s.vecHead with
  | none => s
  | some e =>
    if isFn 0x13 fn e.raw && s.passReady e then
      laneChecked e 1 (fun s => laneStart e (countOob e (List.range e.vl) s)) s
    else s

def execVperm (s : State) : Host.Outcome State Fault Refusal := .next (permRow 0 s)
def execVbcast (s : State) : Host.Outcome State Fault Refusal := .next (permRow 1 s)
def execVcompress (s : State) : Host.Outcome State Fault Refusal := .next (laneRow (isFn 0x13 2) s)
def execVexpand (s : State) : Host.Outcome State Fault Refusal := .next (laneRow (isFn 0x13 3) s)

/-! ## Loads and stores (R159 to R161) -/

/-- The lane a memory element of format `f` loads as (R159). -/
def loadLane (f x : Nat) : BitVec 32 :=
  match f with
  | 0 | 1 => BitVec.ofNat 32 x
  | 6 => (BitVec.ofNat 8 x).signExtend 32
  | _ => widen (f - 1) x

/-- The memory element a lane stores as (R159). -/
def storeLane (f rm u : Nat) (x : BitVec 32) : Nat :=
  match f with
  | 0 | 1 => x.toNat
  | 6 => (BitVec.ofInt 8 (max (-128) (min 127 x.toInt))).toNat
  | _ => narrow (f - 1) rm u (fpIn fp32 x.toNat)

/-- The rounding mode and seed of a store. -/
def storeRm (c : Cmd) : Nat :=
  match cOpc c with | 0x15 => fld c 56 3 | 0x17 => fld c 86 3 | _ => fld c 85 3
def QEntry.seed (e : QEntry) : BitVec 64 := if cOpc e.raw = 0x15 then e.raw.extractLsb' 64 64 else e.ext

/-- The element of `bits` bits at bit `lo` of the bytes from `a` that have arrived. -/
def bufElem (buf : List Host.Cell) (a lo bits : Nat) : Nat :=
  leNat (bufBytes buf (a + lo / 8) ((lo % 8 + bits + 7) / 8)) / 2 ^ (lo % 8) % 2 ^ bits

/-- The value of lane `i` that load `c` brings, from the bytes that have arrived; `x` is the index a gather's pass read. -/
def loadedLane (c : Cmd) (buf : List Host.Cell) (i : Nat) (x : BitVec 32) : BitVec 32 :=
  match cOpc c with
  | 0x16 =>
    let f := vmFmt c
    let sc := leNat (bufBytes buf (vmSbase c + i / 32) 1)
    if sc = 255 then 0x7FC00000
    else BitVec.ofNat 32 (fpOut fp32 (scaleNum ((sc : Int) - 127) (elemNum f (bufElem buf (vmBase c) (i * fmtBits f) (fmtBits f)))))
  | 0x18 =>
    let b := mfmtBits (vmFmt c)
    if x.toNat < vmWindow c then loadLane (vmFmt c) (bufElem buf (vmBase c) (x.toNat * b) b) else 0
  | _ => let b := mfmtBits (vmFmt c); loadLane (vmFmt c) (bufElem buf (vmBase c) (i * b) b)

/-- Applies a result to the registers. -/
def putCell (v : Vec) (c : VCell) : Vec :=
  if c.toK then { v with k := v.k.set c.key (c.val.truncate 1) }
  else { v with v := v.v.set c.key ((v.v.get c.key &&& ~~~c.bits) ||| (c.val &&& c.bits)) }
def putCells (cs : List VCell) (s : State) : State := { s with vec := cs.foldl putCell s.vec }

/-- The run of job `id` goes. -/
def dropRun (id : Nat) (s : State) : State :=
  { s with vec := { s.vec with runs := s.vec.runs.filter fun r => r.job != some id } }

/-- Something of pass `p` of job `id` is still on its way; its requests carry the tags 2p and 2p + 1. -/
def State.passInFlight (s : State) (id p : Nat) : Bool :=
  s.reqs.any (fun r => r.job == id && r.tag / 2 == p) || s.access.any fun a => a.req.job == id && a.req.tag / 2 == p

/-- What pass `p` of load `r` writes once its data has arrived. -/
def loadCells (s : State) (r : VRun) (buf : List Host.Cell) (p : Nat) : List VCell :=
  let c := r.e.raw
  (r.src.filter fun q => q.e / s.build.vlen == p).flatMap fun q =>
    let key := 65536 * cVd c + q.e
    if q.on then [⟨false, key, 0xFFFFFFFF, loadedLane c buf q.e q.x⟩]
    else if s.clu.live && cMz c then [⟨false, key, 0xFFFFFFFF, 0⟩]
    else []

/-- The passes of load `id` whose data has all arrived write their lanes; the last of them signals and releases the entries
(R60, R64, R152, R159). -/
def loadArrived (id : Nat) (s : State) : State :=
  match s.job? id with
  | none => s
  | some j =>
    match s.vec.runs.findIdx? (fun r => r.job == some id) with
    | none => if j.voided && j.left == 0 then dropJob id (releaseAll j.entries false s) else s
    | some i =>
      match s.vec.runs[i]? with
      | none => s
      | some r =>
        let new := (List.range r.issued.length).filter fun p => !(r.done.any fun d => d.1 == p) && !s.passInFlight id p
        let r' := { r with done := r.done ++ new.map fun p => (p, s.now) }
        let s := setRun i r' (new.foldl (fun s p => putCells (loadCells s r j.buf p) s) s)
        if r'.done.length = r.n then signalOpt j.sig (dropJob id (releaseAll j.entries true (dropRun id s))) else s

/-- A store whose writes have all completed signals and releases its entries (R60, R64). -/
def storeDone (id : Nat) (s : State) : State :=
  match s.job? id with
  | none => s
  | some j =>
    let whole := s.vec.runs.all fun r => r.job != some id || r.issued.length == r.n
    if j.left ≠ 0 || (!whole && !j.voided) then s
    else signalOpt (if j.voided then none else j.sig) (dropJob id (releaseAll j.entries (!j.voided) s))

/-- Writes the cells `cs`, whose addresses rise, one request per line. -/
def addCells (job tag : Nat) (entry : Option Nat) (lo n : Nat) (cs : List Host.Cell) (s : State) : State :=
  (lineChunks lo n).foldl (fun s p =>
    match cs.filter (fun c => p.1 ≤ c.1 && c.1 < p.1 + p.2) with
    | [] => s
    | w => addReq job tag (rankOf .vec) .vec entry p.1 p.2 (some w) s) s

/-- The scale bytes of the blocks of lanes `lanes`, which start at a block's first lane. -/
def blocksOf (lanes : List Nat) : List Nat := (lanes.filter fun i => i % 32 == 0).map (· / 32)

/-- The reads of a load's pass over `lanes` (R159 to R161). -/
def loadReqs (c : Cmd) (id p : Nat) (es : List Nat) (lanes : List Nat) (s : State) : State :=
  let lo := lanes.headD 0
  match cOpc c with
  | 0x18 =>
    let b := mfmtBits (vmFmt c) / 8
    (lanes.filter fun i => s.active c i && (s.lane (cVa c) i).toNat < vmWindow c).foldl (fun t i =>
      addRead id (2 * p) .vec es[0]? (vmBase c + (s.lane (cVa c) i).toNat * b) b t) s
  | 0x16 =>
    let b := fmtBits (vmFmt c)
    addRead id (2 * p + 1) .vec es[1]? (vmSbase c + lo / 32) (blocksOf lanes).length
      (addRead id (2 * p) .vec es[0]? (vmBase c + lo * b / 8) (lanes.length * b / 8) s)
  | _ =>
    let b := mfmtBits (vmFmt c)
    addRead id (2 * p) .vec es[0]? (vmBase c + lo * b / 8) (lanes.length * b / 8) s

/-- The bits a VST.MX stores for lane `i`, in a block with an active lane; `none` for an inactive lane (R160). -/
def mxLane (s : State) (e : QEntry) (i : Nat) : Option Nat :=
  let c := e.raw
  let num (k : Nat) : Num := fpIn fp32 (s.lane (cVd c) k).toNat
  let block := ((List.range 32).map (i / 32 * 32 + ·)).filter fun k => s.active c k
  if s.active c i then
    some (mxElem (vmFmt c) (storeRm c) (srBits e.seed i 0) (mxScale (vmFmt c) (block.map num)) (num i))
  else none

/-- The byte a VST.MX stores at offset `o` of its data; `none` where no active lane has bits. Inactive lanes keep their
bits of the byte that memory holds. -/
def mxByte (s : State) (e : QEntry) (o : Nat) : Option (BitVec 8) :=
  let c := e.raw
  let b := fmtBits (vmFmt c)
  let bits := (List.range 8).map fun i =>
    let k := 8 * o + i
    (mxLane s e (k / b)).map fun x => x / 2 ^ (k % b) % 2
  if bits.all Option.isNone then none
  else
    let old := memByte s (vmBase c + o)
    some (BitVec.ofNat 8 ((bits.mapIdx fun i x => (x.getD (b2n (bitAt old i))) * 2 ^ i).sum))

/-- A byte of the store holds bits of active and of inactive lanes. -/
def mxMerges (s : State) (e : QEntry) : Bool :=
  let b := fmtBits (vmFmt e.raw)
  b != 8 && (List.range (e.vl * b / 8)).any fun o =>
    let act := (List.range 8).map fun i => s.active e.raw ((8 * o + i) / b)
    act.any id && !act.all id

/-- The scale byte that a VST.MX stores for block `b`; `none` without an active lane. -/
def mxScaleByte (s : State) (c : Cmd) (b : Nat) : Option (BitVec 8) :=
  let act := ((List.range 32).map (32 * b + ·)).filter fun k => s.active c k
  if act.isEmpty then none
  else some (BitVec.ofNat 8 (mxScale (vmFmt c) (act.map fun k => fpIn fp32 (s.lane (cVd c) k).toNat)))

/-- The bits that a VST or VSTX stores for lane `i`. -/
def storeBits (s : State) (e : QEntry) (i : Nat) : Nat :=
  storeLane (vmFmt e.raw) (storeRm e.raw) (srBits e.seed i 0) (s.lane (cVd e.raw) i)

/-- The writes of a store's pass over `lanes` (R159 to R161). -/
def storeReqs (e : QEntry) (id p : Nat) (es : List Nat) (lanes : List Nat) (s : State) : State :=
  let c := e.raw
  let lo := lanes.headD 0
  match cOpc c with
  | 0x19 =>
    let b := mfmtBits (vmFmt c) / 8
    let ix (i : Nat) : Nat := (s.lane (cVa c) i).toNat
    let act := lanes.filter fun i => s.active c i && ix i < vmWindow c
    (act.filter fun i => !(act.any fun k => i < k && ix k == ix i)).foldl (fun t i =>
      addWrite id (2 * p) .vec es[0]? (vmBase c + ix i * b) (leBytes (storeBits s e i) b) t) s
  | 0x17 =>
    let b := fmtBits (vmFmt c)
    let o := lo * b / 8
    let n := lanes.length * b / 8
    let data := (List.range n).filterMap fun k => (mxByte s e (o + k)).map fun x => (vmBase c + o + k, x)
    let bs := blocksOf lanes
    let scales := bs.filterMap fun k => (mxScaleByte s c k).map fun x => (vmSbase c + k, x)
    addCells id (2 * p + 1) es[1]? (vmSbase c + lo / 32) bs.length scales (addCells id (2 * p) es[0]? (vmBase c + o) n data s)
  | _ =>
    let b := mfmtBits (vmFmt c) / 8
    let cs := (lanes.filter fun i => s.active c i).flatMap fun i => cellsAt (vmBase c + i * b) (leBytes (storeBits s e i) b)
    addCells id (2 * p) es[0]? (vmBase c + lo * b) (lanes.length * b) cs s

/-- The next pass of load or store `r` issues: it reads its lanes and makes its requests (R152, R154). -/
def issueMem (id : Nat) (es : List Nat) (r : VRun) (s : State) : VRun × State :=
  let c := r.e.raw
  let p := r.issued.length
  let lanes := passLanes s.build r.e.vl p
  let s := countPass r.e s
  let s := if (cOpc c == 0x18 || cOpc c == 0x19) && !s.clu.live then countOob r.e lanes s else s
  let src := if r.unit = .read then r.src ++ lanes.map (takeLane s c) else r.src
  ({ r with issued := r.issued ++ [s.now], src := src },
    if r.unit = .read then loadReqs c id p es lanes s else storeReqs r.e id p es lanes s)

/-- Nothing but the registers holds the next pass of store `r` back: a VST.MX that must keep bits of a byte waits until no older
entry conflicts with its own (R15, R160). -/
def State.storeFree (s : State) (es : List Nat) (e : QEntry) : Bool :=
  !(cOpc e.raw == 0x17 && mxMerges s e && es.any s.blocked)

/-- What a pass of a load or store takes of its port, in pieces of 64 bytes or lanes of a gather (R152). -/
def passWeight (b : Build) (e : QEntry) : Nat :=
  let c := e.raw
  if cOpc c = 0x18 ∨ cOpc c = 0x19 then min e.vl b.vlen
  else min e.vl b.vlen * (if cOpc c = 0x16 ∨ cOpc c = 0x17 then fmtBits (vmFmt c) else mfmtBits (vmFmt c)) / 512

/-- The load or store at the head starts: its job, its entries, its first pass. -/
def memStart (e : QEntry) (s : State) : State :=
  let r := takeAtStart .vec e.operands e.entries s
  let wr := unitOf e.raw == .write
  let j := addJob (if wr then .vstore e else .vload e) r.1 e.seq (some e.thread) (cSig e.raw) (vecStarted e r.2)
  let x := newRun e (passCount j.2.build e.vl) (some j.1)
  let x := if wr && !j.2.storeFree r.1 e then (x, j.2) else issueMem j.1 r.1 x j.2
  let s := addRun x.1 x.2
  if wr then storeDone j.1 s else loadArrived j.1 s

/-- A load or store that RETRY restarts has its entries, and so its slots, already. -/
def State.mayTake (s : State) (e : QEntry) : Bool := e.entries.length == e.operands.length || canTake s e.operands

/-- The row of a load or store with opcode `opc`. -/
def memRow (opc : Nat) (check : Bool) (s : State) : State :=
  match s.vecHead with
  | none => s
  | some e =>
    if cOpc e.raw = opc && s.passReady e && s.mayTake e then
      if check then laneChecked e 2 (memStart e) s else memStart e s
    else s

def execVld (s : State) : Host.Outcome State Fault Refusal := .next (memRow 0x14 false s)
def execVst (s : State) : Host.Outcome State Fault Refusal := .next (memRow 0x15 false s)
def execVldMx (s : State) : Host.Outcome State Fault Refusal := .next (memRow 0x16 false s)
def execVstMx (s : State) : Host.Outcome State Fault Refusal := .next (memRow 0x17 false s)
def execVldx (s : State) : Host.Outcome State Fault Refusal := .next (memRow 0x18 true s)
def execVstx (s : State) : Host.Outcome State Fault Refusal := .next (memRow 0x19 true s)

/-! ## VACC.RD and VCFG (R149, R167, R168) -/

/-- The readout path is free, and R16 and R118 allow a readout of bank `b` of array `a`. -/
def State.readoutReady (s : State) (a b : Fin 2) (seq : Nat) : Bool := s.pathFree && !s.bankPending a b seq

/-- A cycle of a readout of bank `b` of array `a` (R118, R168, R173). -/
def bankReads (a b : Fin 2) (s : State) : State :=
  let s := modOpa a (fun x => { x with banks := x.banks.set b { x.banks[b] with readUntil := s.now } }) s
  { s with vec := { s.vec with rdCyc := s.vec.rdCyc + 1 } }

/-- The next cycle of VACC.RD `r`: it reads 512 cells, which are usable from the next cycle (R167, R168). -/
def issueReadout (r : VRun) (s : State) : VRun × State :=
  let c := r.e.raw
  let t := r.issued.length
  let a : Fin 2 := Fin.ofNat 2 (fld c 19 1)
  let b : Fin 2 := Fin.ofNat 2 (fld c 20 1)
  let from_ := 128 * (fld c 21 5 * 4) + 512 * t
  let cells := (List.range 512).map fun i =>
    (⟨false, 65536 * fld c 31 5 + readoutLo c t + i, 0xFFFFFFFF, (s.opa[a].banks[b]).cells.get (from_ + i)⟩ : VCell)
  ({ r with issued := r.issued ++ [s.now] }, addWrites (s.now + 1) cells (bankReads a b s))

def vaccRd (s : State) : State :=
  match s.vecHead with
  | none => s
  | some e =>
    let c := e.raw
    if cOpc c = 0x1A && s.readoutReady (Fin.ofNat 2 (fld c 19 1)) (Fin.ofNat 2 (fld c 20 1)) e.seq && s.passReady e then
      let x := issueReadout (newRun e (fld c 26 5 + 1) none) (vecStarted e s)
      addRun x.1 x.2
    else s

def execVaccRd (s : State) : Host.Outcome State Fault Refusal := .next (vaccRd s)

def vcfg (s : State) : State :=
  match s.vecHead with
  | none => s
  | some e =>
    if cOpc e.raw ≠ 0x1B then s
    else
      let s := vecStarted e s
      let vl := (fld e.raw 19 11 + 1) * 32
      signalOpt (cSig e.raw) { s with vec := { s.vec with vl := vl, lastVl := vl } }

def execVcfg (s : State) : Host.Outcome State Fault Refusal := .next (vcfg s)

/-! ## The passes of commands in progress (R150, R153, R154) -/

/-- The rate of its unit lets the next pass of run `r` issue in cycle `n`. -/
def VRun.due (r : VRun) (n : Nat) : Bool :=
  r.issued.length < r.n && match r.issued.getLast? with | some k => k + r.unit.rate ≤ n | none => true

/-- The registers hold the next pass of the run at place `i` (R154). A VACC.RD is held at each of its cycles like a pass, as R154
says, though R168 counts them from its start (DEDUCED, assumption 52). -/
def State.regsHold (s : State) (i : Nat) (r : VRun) : Bool :=
  !passOk s.build (s.vec.runs.take i) r.e (readsWhole r.e.raw) r.issued.length s.now

/-- A pass of the run at place `i` is due and the registers hold it; a Flight's are never held (R174). -/
def State.runHeld (s : State) (i : Nat) (r : VRun) : Bool := r.unit != .flight && r.due s.now && s.regsHold i r

/-- The turn of the run at place `i` at the end of a cycle: a lane unit's or a readout's next pass. -/
def lanePass (i : Nat) (s : State) : State :=
  match s.vec.runs[i]? with
  | none => s
  | some r =>
    if !r.due s.now || s.runHeld i r then s
    else match r.unit with
      | .alu | .trans | .xnet => if s.isBubble then s else let x := issueLanes r s; setRun i x.1 x.2
      | .readout => let x := issueReadout r s; setRun i x.1 x.2
      | _ => s

def lanePasses (s : State) : State := (List.range s.vec.runs.length).foldl (fun s i => lanePass i s) s

/-- The requests of loads or of stores that no bank has granted, as the port counts them. -/
def State.portLoad (s : State) (wr : Bool) : Nat :=
  ((s.reqs.filter fun r => r.unit == .vec && r.wr.isSome == wr && match s.job? r.job with
    | some j => (match j.kind with | .flight _ _ => false | _ => true)
    | none => false).map fun r => (r.len + 63) / 64).sum

/-- The turn of the run at place `i` as a cycle begins: a load's or store's next pass, while its port has room. -/
def memPass (i : Nat) (s : State) : State :=
  match s.vec.runs[i]? with
  | none => s
  | some r =>
    match r.job.bind s.job? with
    | none => s
    | some j =>
      let wr := r.unit == .write
      let load := s.portLoad wr
      if !(r.unit == .read || wr) || r.n ≤ r.issued.length || j.voided || s.isBubble || s.regsHold i r || !s.storeFree j.entries r.e ||
          !(load == 0 || load + passWeight s.build r.e ≤ 64) then s
      else
        let x := issueMem j.id j.entries r s
        let s := setRun i x.1 x.2
        if wr then storeDone j.id s else loadArrived j.id s

/-- Loads and stores take up to two passes in a cycle, as narrow elements allow. -/
def memPasses (s : State) : State :=
  let ids := s.vec.runs.map (·.job)
  (ids ++ ids).foldl (fun s id => match id with
    | some _ => (match s.vec.runs.findIdx? (fun r => r.job == id) with | some i => memPass i s | none => s)
    | none => s) s

/-- Results that are usable from this cycle reach the registers. -/
def applyWrites (s : State) : State :=
  let due := s.vec.writes.filter fun w => w.at_ ≤ s.now
  due.foldl (fun s w => putCells w.cells s)
    { s with vec := { s.vec with writes := s.vec.writes.filter fun w => s.now < w.at_ } }

/-- The cycle in which the last result of lane command or readout `r` is usable. -/
def VRun.end? (b : Build) (r : VRun) : Option Nat :=
  if r.issued.length = r.n then r.issued.getLast?.map (· + passLat b r.e.raw) else none

/-- Run `r` is done with the registers: its last result is usable, its last lane read, or its last value gone. -/
def VRun.over (b : Build) (now : Nat) (r : VRun) : Bool :=
  match r.unit with
  | .read => false
  | .write => r.issued.length == r.n && byCycle (now - 1) r.issued.getLast?
  | .flight => r.done.length == r.n && byCycle (now - 1) (r.done.getLast?.map (·.2))
  | _ => byCycle now (r.end? b)

/-- Lane commands and readouts whose last result is usable signal, and runs that are over go (R60). -/
def endRuns (s : State) : State :=
  let gone := s.vec.runs.filter fun r => r.over s.build s.now
  gone.foldl (fun s r => match r.unit with | .write => s | .flight => s | _ => signalOpt (cSig r.e.raw) s)
    { s with vec := { s.vec with runs := s.vec.runs.filter fun r => !r.over s.build s.now } }

/-! ## Holds (R156, R195) -/

/-- A command that has left the queue is held again at its head, with its entries; what it has in flight comes to
nothing. -/
def holdBack (e : QEntry) (j : Job) (s : State) : State :=
  let s := dropReqs j.id (fun _ => false) s
  let s := modJob j.id (fun x => { x with voided := true, entries := [] }) (dropRun j.id s)
  modQueue 3 (fun q => { q with cmds := { e with entries := j.entries } :: q.cmds }) s

/-- A write of VEC_CTL; DISCARD goes before RETRY when both are written (assumption 12). -/
def vecCtl (v : BitVec 64) (s : State) : State :=
  if s.vec.held || s.vec.heldFlt then
    let free (s : State) : State := { s with vec := { s.vec with held := false, heldFlt := false } }
    if bitAt v 9 then
      let es := match (s.queue 3).cmds with | e :: _ => e.entries | [] => []
      free (popQueue 3 (releaseAll es false s))
    else if bitAt v 8 then free s
    else s
  else s

/-- A read of load `id` failed, with the fault `code` logged in page `p` (R206). -/
def vloadFault (id : Nat) (p : Page) (code : Nat) (seq : BitVec 32) (s : State) : State :=
  match s.job? id with
  | none => s
  | some j =>
    match j.kind with
    | .vload e =>
      if j.voided then s
      else if s.clu.live then
        countEvt .vec 0 (holdBack e j { s with vec := { s.vec with held := true } })
      else
        memAbort p code seq (modJob id (fun x => { x with voided := true }) (dropRun id (dropReqs id (fun _ => false) s)))
    | _ => s

end Sys2Proof.Machine
end

