-- ==== Sys2Proof/Machine/Flights.lean ====
section
/-! DEFINITION. Flights and Treads (chapter 08): definitions and records (R178, R179), the start of a Flight (R177,
R193), its values and their stages (R174 to R176, R183 to R189), narrowing and block scales (R170, R184), destination
writes (R179), Tread programs (R187 to R191), faults (R194, R195). -/

namespace Sys2Proof.Machine

/-! ## Tread programs (R187 to R190) -/

abbrev Tread := BitVec 1536

def trN (p : Tread) : Nat := fld p 0 8
def trIns (p : Tread) (i : Nat) : BitVec 32 := p.extractLsb' (8 * (16 + 4 * i)) 32
def trConst (p : Tread) (i : Nat) : BitVec 32 := p.extractLsb' (8 * (144 + 4 * i)) 32

/-- Sources an operation reads (R189). -/
def trArity : Nat → Nat
  | 0x01 | 0x08 | 0x09 | 0x0A | 0x10 | 0x11 | 0x12 | 0x13 => 1
  | 0x05 | 0x0B => 3
  | _ => 2

def trOpOk (op : Nat) : Bool := (1 ≤ op && op ≤ 0x0C) || (0x10 ≤ op && op ≤ 0x13)
def trTrans (op : Nat) : Bool := 0x10 ≤ op && op ≤ 0x13

/-- What R191 and R402 refuse in one micro-instruction: a reserved OP, a reserved bit, a source it does not read. -/
def trInsBad (w : BitVec 32) : Bool :=
  let op := fld w 27 5
  !trOpOk op || fld w 0 12 != 0 || (trArity op < 3 && fld w 12 4 != 0) || (trArity op < 2 && fld w 16 4 != 0)

/-- TREAD_BAD of R191. -/
def treadBad (p : Tread) : Bool :=
  let n := trN p
  n == 0 || n > 32 || fld p 8 8 != 1 || fld p 16 112 != 0 || fld p (8 * 176) 128 != 0 ||
    (List.range 32).any (fun i => if i < n then trInsBad (trIns p i) else trIns p i != 0) ||
    ((List.range n).filter fun i => trTrans (fld (trIns p i) 27 5)).length > 8

/-- A comparison of flushed values; false with a NaN. -/
def fpLess (a b : BitVec 32) : Bool := numLt false (fpIn fp32 a.toNat) (fpIn fp32 b.toNat)

/-- The result of a micro-instruction (R189). -/
def trOp (op : Nat) (a b c : BitVec 32) : BitVec 32 :=
  match op with
  | 0x01 => a
  | 0x02 => vfpLane false 0 a b 0
  | 0x03 => vfpLane false 1 a b 0
  | 0x04 => vfpLane false 2 a b 0
  | 0x05 => vfpLane false 3 a b c
  | 0x06 => vfpLane false 4 a b 0
  | 0x07 => vfpLane false 5 a b 0
  | 0x08 => vfpLane false 6 a 0 0
  | 0x09 => vfpLane false 7 a 0 0
  | 0x0A => floorFp a
  | 0x0B => if fpLess 0 c then a else b
  | 0x0C => if fpLess a b then 0x3F800000 else 0
  | op => transLane (op - 0x10) a

/-- A Tread on one value with operand `o` (R187). -/
def runTread (p : Tread) (x o : BitVec 32) : BitVec 32 :=
  let t := (List.range (trN p)).foldl (fun (t : Vector (BitVec 32) 8) i =>
    let w := trIns p i
    let src (lo : Nat) : BitVec 32 :=
      let k := fld w lo 4
      if k < 8 then (t[k]?).getD 0 else trConst p (k - 8)
    t.set (Fin.ofNat 8 (fld w 24 3)) (trOp (fld w 27 5) (src 20) (src 16) (src 12)))
    (((Vector.replicate 8 (0 : BitVec 32)).set 0 x).set 1 o)
  t[0]

/-! ## Values of a Flight -/

/-- Source values of a readout or a register wait in a Flight's buffer above every address. -/
def srcKey (e : Nat) : Nat := 2 ^ 65 + 4 * e

/-- The element of a memory record at row `r` and column `f`, widened to FP32 (R159, R174); FP32 keeps its bits. -/
def recElem (buf : List Host.Cell) (m : Cmd) (r f : Nat) : BitVec 32 :=
  let b := fmtBits (arTap m)
  let x := bufElem buf (arBase m + r * arStride m) (f * b) b
  if arTap m = 0 then BitVec.ofNat 32 x else widen (arTap m) x

/-- The value at position `e` as it enters stage 0 (R174). -/
def flightIn (c : Cmd) (cap : List Cmd) (buf : List Host.Cell) (e : Nat) : BitVec 32 :=
  if goSrc c = 2 then let p := goPos c e; recElem buf (capRec cap 4) p.1 p.2.1
  else BitVec.ofNat 32 (leNat (bufBytes buf (srcKey e) 4))

/-- The operand of a stage at position `e` (R186). -/
def stageOperand (s : State) (c q : Cmd) (cap : List Cmd) (buf : List Host.Cell) (e : Nat) : BitVec 32 :=
  let p := goPos c e
  match stOk q with
  | 1 => stImm q
  | 2 => s.lane (stOreg q) (stOofs q + p.2.1)
  | 3 => s.lane (stOreg q) (stOofs q + p.1)
  | 4 => s.lane (stOreg q) (stOofs q + e)
  | 5 => recElem buf (capRec cap 5) p.1 p.2.1
  | _ => 0

/-- What a stage passes on (R183, R184, R187). -/
def stageOut (s : State) (q : Cmd) (x o : BitVec 32) : BitVec 32 :=
  match stKind q with
  | 0x01 => vfpLane false 0 x o 0
  | 0x02 => vfpLane false 2 x o 0
  | 0x03 => vfpLane false 3 x o (stImm q)
  | 0x04 => vfpLane false 5 x o 0
  | 0x05 => vfpLane false 4 x o 0
  | 0x06 => if (fpIn fp32 x.toNat).isNan then 0x7FC00000 else if fpLess 0 x then x else 0
  | 0x07 => activation 0 x
  | 0x08 => activation 1 x
  | 0x09 => activation 2 x
  | 0x0A => activation 3 x
  | 0x1F => runTread (s.flt.treads.get (stProg q).val) x o
  | _ => x

/-- The value at position `e` as it enters stage `n` (n stages applied). -/
def flightAt (s : State) (c : Cmd) (cap : List Cmd) (buf : List Host.Cell) (e n : Nat) : BitVec 32 :=
  (List.range n).foldl (fun x i =>
    let q := capStage cap i
    stageOut s q x (stageOperand s c q cap buf e)) (flightIn c cap buf e)

/-- The position of row `r`, column `f` of the source: the inverse of `goPos` (R169, R175). -/
def goIndex (c : Cmd) (r f : Nat) : Nat :=
  if goSrc c = 0 then
    let k := f / 128
    let per := goNrows c * goNcols c
    if goSquare c then
      let q := (r - goRow0 c) / 32 * (goNcols c / 32) + (f % 128 - goCol0 c) / 32
      k * per + q * 1024 + r % 32 * 32 + f % 32
    else k * per + (r - goRow0 c) * 128 + f % 128
  else r * goW c + f

/-- The 32 positions of the block of (r, f): a row block, or a column block (R170). -/
def blockOf (c : Cmd) (col : Bool) (r f : Nat) : List Nat :=
  (List.range 32).map fun i => if col then goIndex c (r / 32 * 32 + i) f else goIndex c r (f / 32 * 32 + i)

/-- What destination record `r` stores for the value at (row, f): the element's bits, or `none` where it cannot be formed
from positions below `lim` (R176, R179, R194). -/
def destElem (s : State) (c : Cmd) (cap : List Cmd) (buf : List Host.Cell) (vl lim : Nat) (d : Cmd) (r f : Nat) :
    Option Nat :=
  let e := goIndex c r f
  let tap := arTap d
  let q := capStage cap tap
  let seed := goSeed c
  if e ≥ lim then none
  else if tap ≥ 8 then some (flightIn c cap buf e).toNat
  else match stKind q with
    | 0x10 => some (narrow (stFmt q) (stRm q) (srBits seed e tap) (fpIn fp32 (flightAt s c cap buf e tap).toNat))
    | 0x11 =>
      let col := arCopy d = 1
      let block := blockOf c col r f
      if block.any (· ≥ lim) then none
      else
        let num (k : Nat) : Num := fpIn fp32 (flightAt s c cap buf k tap).toNat
        let idx := if col ∧ stBlk q = 2 then goCount c vl + e else e
        some (mxElem (stFmt q) (stRm q) (srBits seed idx tap) (mxScale (stFmt q) (block.map num)) (num e))
    | _ => some (flightAt s c cap buf e (tap + 1)).toNat

/-- The scale byte of the block of (r, f) for destination `d`. -/
def destScale (s : State) (c : Cmd) (cap : List Cmd) (buf : List Host.Cell) (lim : Nat) (d : Cmd) (r f : Nat) :
    Option (BitVec 8) :=
  let q := capStage cap (arTap d)
  let block := blockOf c (arCopy d = 1) r f
  if block.any (· ≥ lim) then none
  else some (BitVec.ofNat 8 (mxScale (stFmt q)
    (block.map fun k => fpIn fp32 (flightAt s c cap buf k (arTap d)).toNat)))

/-- The positions that read cycle `k` of a Flight takes, in the order of their reads (R174); in group order 32 rows of 16 columns
(R407). -/
def cyclePos (c : Cmd) (cap : List Cmd) (vl k : Nat) : List Nat :=
  if goSrc c != 0 && goGrouped c cap then
    let per := goW c / 16
    (List.range 32).flatMap fun r => (List.range 16).map fun f => (k / per * 32 + r) * goW c + k % per * 16 + f
  else (List.range (min 512 (goCount c vl - 512 * k))).map (512 * k + ·)

/-- The runs of consecutive columns of one row among positions: row, first column, length (R175). -/
def runsOf (c : Cmd) (es : List Nat) : List (Nat × Nat × Nat) :=
  (es.foldl (fun (acc : List (Nat × Nat × Nat)) e =>
    let p := goPos c e
    match acc with
    | (r, f, n) :: rest => if p.1 = r ∧ p.2.1 = f + n then (r, f, n + 1) :: rest else (p.1, p.2.1, 1) :: acc
    | [] => [(p.1, p.2.1, 1)]) []).reverse

/-- The bytes of consecutive elements of `bits` bits; `none` where some bit is not to be written. -/
def packBytes (bits : Nat) (xs : List (Option Nat)) : List (Option (BitVec 8)) :=
  (List.range (xs.length * bits / 8)).map fun o =>
    let b := (List.range 8).map fun i =>
      let k := 8 * o + i
      ((xs[k / bits]?).join).map fun x => x / 2 ^ (k % bits) % 2
    if b.any Option.isNone then none else some (BitVec.ofNat 8 ((b.mapIdx fun i x => x.getD 0 * 2 ^ i).sum))

/-- The data bytes that a Flight stores through destination `d` for positions `es`. -/
def destCells (s : State) (c : Cmd) (cap : List Cmd) (buf : List Host.Cell) (vl lim : Nat) (d : Cmd) (es : List Nat) :
    List Host.Cell :=
  let bits := fmtBits (destFmt cap d)
  (runsOf c es).flatMap fun run =>
    let a := arBase d + run.1 * arStride d + run.2.1 * bits / 8
    let xs := (List.range run.2.2).map fun i => destElem s c cap buf vl lim d run.1 (run.2.1 + i)
    ((packBytes bits xs).mapIdx fun i b => b.map fun x => (a + i, x)).filterMap id

/-- The scale bytes that a Flight stores through block-scaled destination `d` with positions `es`: those of the blocks that end
among them (R179). -/
def scaleCells (s : State) (c : Cmd) (cap : List Cmd) (buf : List Host.Cell) (lim : Nat) (d : Cmd) (es : List Nat) :
    List Host.Cell :=
  es.filterMap fun e =>
    let p := goPos c e
    let r := p.1
    let f := p.2.1
    if arCopy d = 0 then
      if f % 32 = 31 then (destScale s c cap buf lim d r f).map fun x => (arSbase d + r * arSstride d + f / 32, x) else none
    else if r % 32 = 31 then (destScale s c cap buf lim d r f).map fun x => (arSbase d + r / 32 * arSstride d + f, x)
    else none

/-! ## Timing (R174, R183, R187) -/

def State.progLen (s : State) (q : Cmd) : Nat := if stKind q = 0x1F then trN (s.flt.treads.get (stProg q).val) else 0

/-- FLT.DEPTH of a Flight. -/
def State.flightDepth (s : State) (c : Cmd) (cap : List Cmd) : Nat :=
  Config.fltDepth + ((goStages c).map fun i => 4 + s.progLen (capStage cap i)).sum

/-- Cycles a Flight reads. -/
def flightCycles (c : Cmd) (vl : Nat) : Nat := (goCount c vl + 511) / 512

/-! ## Faults (R193 to R195) -/

/-- FLT_FAULT. -/
def recordFlt (code stage pos seq : Nat) (s : State) : State :=
  { s with flt := { s.flt with
    faultCode := BitVec.ofNat 4 code, faultStage := BitVec.ofNat 3 stage, faultPos := BitVec.ofNat 24 pos,
    faultSeq := BitVec.ofNat 32 seq } }

/-- The page, event bit, code of R326 of a fault code of FLT_FAULT. -/
def fltCode : Nat → Page × Nat × Nat
  | 1 => (.flt, 0, 0x12) | 2 => (.flt, 1, 0x13) | 3 => (.vec, 1, 0x11) | _ => (.flt, 2, 0x18)

/-- The engine holds for a fault of chapter 08 (R195). -/
def holdFlight (s : State) : State := countEvt .vec 0 { s with vec := { s.vec with heldFlt := true } }

/-- A fault of the command at the head of queue 3, before anything is read (R172, R193). -/
def flightFault (e : QEntry) (code stage : Nat) (s : State) : State :=
  let s := recordFlt code stage 0 e.seq s
  let f := fltCode code
  let detail := if f.1 = .flt then stage else 0
  if s.clu.live then holdFlight (logEvt f.1 f.2.1 (defaultLog f.2.2 detail e.seq) s)
  else engineFault f.1 f.2.1 f.2.2 detail e.seq (vecStarted e (releaseAll e.entries false s))

/-! ## Starts -/

/-- Program slots a Flight names. -/
def flightProgs (c : Cmd) (cap : List Cmd) : List (Fin 64) :=
  (((goStages c).map (capStage cap)).filter fun q => stKind q == 0x1F).map stProg

/-- A TRD.LOAD of slot `p` has started and not loaded. -/
def State.loadingProg (s : State) (p : Fin 64) : Bool :=
  s.jobs.any fun j => match j.kind with | .tread e => fld e.raw 19 6 == p.val && !j.voided | _ => false

/-- A readout of an INT32 bank with a narrowing stage (R172). -/
def narrowsInt (s : State) (c : Cmd) (cap : List Cmd) : Bool :=
  goSrc c == 0 && (goArrays c).any (fun a => (s.opa[a].banks[goBank c]).int32) &&
    (goStages c).any fun i => let k := stKind (capStage cap i); k == 0x10 || k == 0x11

/-- A Flight may start (R177): paths, registers, programs, entries; with ARR = 2, R16 may still hold OPA1's part (R169). -/
def State.flightReady (s : State) (e : QEntry) : Bool :=
  let c := e.raw
  s.passReady e &&
    (goSrc c != 0 || s.readoutReady ((goArrays c).headD 0) (goBank c) e.seq) &&
    (flightProgs c e.cap).all (fun p => !s.loadingProg p) &&
    !(s.jobs.any fun j => j.seq == e.seq && match j.kind with | .flight _ _ => true | _ => false) &&
    s.mayTake e && !(e.entries.any s.blocked) &&
    (e.entries.length == e.operands.length || (gatedOf s e.operands).all fun g =>
      let r := s.ring g.1
      let lo := r.lo + g.2.1 * r.slotBytes
      !(s.range.any fun x => x.lo < lo + r.slotBytes && lo ≤ x.hi && (g.2.2 || x.wr)))

/-- The first Tread stage at which the micro-instructions pass 64 (R193). -/
def treadOver (s : State) (c : Cmd) (cap : List Cmd) : Option Nat :=
  (goStages c).find? fun i =>
    stKind (capStage cap i) == 0x1F && (((List.range (i + 1)).map fun k => s.progLen (capStage cap k)).sum) > 64

/-- A cell of bank `b` of array `a` as a Flight reads it (R185). -/
def readoutLane (s : State) (b a : Fin 2) (r c : Nat) : BitVec 32 :=
  let k := s.opa[a].banks[b]
  let w := k.cells.get (128 * r + c)
  if k.int32 then BitVec.ofNat 32 (intToFp32 0 0 w) else w

/-- The source values at positions `es` of a readout or a register, as cells (R174, R185). -/
def sourceCells (s : State) (c : Cmd) (es : List Nat) : List Host.Cell :=
  if goSrc c = 2 then []
  else es.flatMap fun e =>
    let x : BitVec 32 :=
      if goSrc c = 1 then s.lane (goVs c) e
      else match (goPos c e).2.2 with
        | (a, r, k) => readoutLane s (goBank c) a r k
    cellsAt (srcKey e) (leBytes x.toNat 4)

/-- The entry of a memory record among a Flight's entries: M0 and M1 follow the destinations (R181). -/
def memEntry (c : Cmd) (cap : List Cmd) (es : List Nat) (m1 : Bool) : Option Nat :=
  let d := ((destRecs cap).map fun r => if fmtMx (destFmt cap r) then 2 else 1).sum
  es[d + (if m1 && goSrc c = 2 then 1 else 0)]?

/-- Cell `x` joined to the latest group of its line, when its address follows the group's; groups newest first, and the
cells of a group too. -/
def joinGroup (x : Host.Cell) : List (List Host.Cell) → Option (List (List Host.Cell))
  | [] => none
  | g :: gs =>
    match g with
    | [] => none
    | y :: _ =>
      if lineOf y.1 = lineOf x.1 then (if y.1 < x.1 then some ((x :: g) :: gs) else none)
      else (joinGroup x gs).map (g :: ·)

/-- The line writes that carry cells `cs`: one per line, or per visit of a line whose addresses do not rise. -/
def lineGroups (cs : List Host.Cell) : List (List Host.Cell) :=
  ((cs.foldl (fun gs x => (joinGroup x gs).getD ([x] :: gs)) []).map List.reverse).reverse

/-! ## Read cycles (R174) -/

/-- Requests the elements of memory record `m` that positions `es` need. -/
def recReads (id tag : Nat) (entry : Option Nat) (c m : Cmd) (es : List Nat) (s : State) : State :=
  let b := fmtBits (arTap m)
  (runsOf c es).foldl (fun s run =>
    addRead id tag .vec entry (arBase m + run.1 * arStride m + run.2.1 * b / 8) (run.2.2 * b / 8) s) s

/-- The next read cycle of Flight `r`: it reads its source, and makes the requests of its memory operands; those of the source
carry the tag 2k in cycle k, those of M1 2k + 1. -/
def issueFlight (id : Nat) (entries : List Nat) (r : VRun) (s : State) : VRun × State :=
  let c := r.e.raw
  let cap := r.e.cap
  let k := r.issued.length
  let es := cyclePos c cap r.e.vl k
  let s := modJob id (fun j => { j with buf := j.buf ++ sourceCells s c es }) s
  let s := match goSrc c, es with
    | 0, e :: _ => bankReads (goPos c e).2.2.1 (goBank c) s
    | _, _ => s
  let s := if goSrc c = 2 then recReads id (2 * k) (memEntry c cap entries false) c (capRec cap 4) es s else s
  let s := if usesM1 c cap then recReads id (2 * k + 1) (memEntry c cap entries true) c (capRec cap 5) es s else s
  let fall := match r.fall.getLast? with | some x => max s.now (x + 1) | none => s.now
  ({ r with issued := r.issued ++ [s.now], fall := r.fall ++ [fall] }, s)

/-- A read of Flight `id` is asked for. -/
def State.flightAsks (s : State) (id : Nat) : Bool := s.reqs.any fun r => r.job == id && r.wr.isNone

/-- The next read cycle of Flight `r` falls in the cycle that begins: R16 may hold OPA1's part of a readout, and a memory source
waits for the grants and the replays of the cycle before (R169, R174). -/
def State.flightDue (s : State) (id : Nat) (r : VRun) : Bool :=
  let c := r.e.raw
  let k := r.issued.length
  k < r.n && match goSrc c with
    | 0 => !(goArr c = 2 && 2 * k = r.n && s.bankPending 1 (goBank c) r.e.seq)
    | 1 => true
    | _ => !s.flightAsks id && byCycle (s.now - 1) r.fall.getLast?

/-- Read cycle `k` of Flight `id` falls `d` cycles later, and every later one with it (R174). -/
def slipFlight (id k d : Nat) (s : State) : State :=
  let slip (r : VRun) : VRun := { r with fall := r.fall.mapIdx fun i x => if k ≤ i then x + d else x }
  { s with vec := { s.vec with runs := s.vec.runs.map fun r => if r.job = some id then slip r else r } }

/-- A read of cycle `k` that was to happen in the cycle of `r.fall` happens in cycle `at_`. -/
def flightRead (id k at_ : Nat) (s : State) : State :=
  match s.vec.runs.find? (fun r => r.job == some id) with
  | some r => (match r.fall[k]? with | some x => if x < at_ then slipFlight id k (at_ - x) s else s | none => s)
  | none => s

/-! ## Values leave (R177) -/

/-- The last read cycle whose values the values of cycle `k` need: a quantiser's blocks end with the second cycle of a pair. -/
def blockCycle (c : Cmd) (cap : List Cmd) (n k : Nat) : Nat :=
  if (goStages c).any fun i => stKind (capStage cap i) == 0x11 then min (k / 2 * 2 + 1) (n - 1) else k

/-- The values of the oldest read cycle of Flight `r` leave it now: FLT.DEPTH after that cycle, once all they need has come. -/
def State.valuesLeave (s : State) (id : Nat) (r : VRun) : Bool :=
  let k := r.done.length
  let m := blockCycle r.e.raw r.e.cap r.n k
  m < r.issued.length && byCycle s.now (r.fall[k]?.map (· + s.flightDepth r.e.raw r.e.cap)) &&
    !(s.reqs.any fun q => q.job == id && q.wr.isNone && q.tag / 2 ≤ m) &&
    !(s.access.any fun a => a.req.job == id && a.req.wr.isNone && a.req.tag / 2 ≤ m)

/-- The line writes of cells `cs` of Flight `id`. -/
def putLines (id : Nat) (entry : Option Nat) (cs : List Host.Cell) (s : State) : State :=
  (lineGroups cs).foldl (fun s g =>
    let lo := (g.head?.map (·.1)).getD 0
    addReq id 0 (rankOf .vec) .vec entry lo ((g.getLast?.map (·.1)).getD lo + 1 - lo) (some g) s) s

/-- The values of one read cycle leave Flight `r`, job `j`: FLT_ELEMS counts them and their destination writes are requested; of
positions whose read failed, or beyond them, nothing is (R177, R194). With the last of them only writes remain. -/
def leaveFlight (j : Job) (r : VRun) (s : State) : State :=
  let c := r.e.raw
  let cap := r.e.cap
  let es := cyclePos c cap r.e.vl r.done.length
  let lim := j.bad.getD (goCount c r.e.vl)
  let dests := destRecs cap
  let s' := (dests.foldl (fun (acc : Nat × State) d =>
    let t := putLines j.id j.entries[acc.1]? (destCells s c cap j.buf r.e.vl lim d es) acc.2
    if fmtMx (destFmt cap d) then (acc.1 + 2, putLines j.id j.entries[acc.1 + 1]? (scaleCells s c cap j.buf lim d es) t)
    else (acc.1 + 1, t)) (0, s)).2
  let n := (es.filter (· < lim)).length
  let s' := ({ s' with flt := { s'.flt with elems := s'.flt.elems + BitVec.ofNat 48 n } } : State).spend
    (.value (if goSrc c = 2 then 16 + arTap (capRec cap 4) else goSrc c)) (some r.e.thread) n
  if r.done.length + 1 = r.n then modJob j.id (fun x => { x with kind := .flight r.e true, buf := [] }) s' else s'

/-- The turn of the run at place `i` as a cycle begins, if it is a Flight: values leave, and the next read cycle. -/
def flightTurn (i : Nat) (s : State) : State :=
  match s.vec.runs[i]? with
  | none => s
  | some r =>
    match r.unit, r.job.bind s.job? with
    | .flight, some j =>
      let s := if s.valuesLeave j.id r then
          setRun i { r with done := r.done ++ [(r.done.length, s.now)] } (leaveFlight j r s)
        else s
      match s.vec.runs[i]? with
      | some r => if s.flightDue j.id r then let x := issueFlight j.id j.entries r s; setRun i x.1 x.2 else s
      | none => s
    | _, _ => s

def flightTurns (s : State) : State := (List.range s.vec.runs.length).foldl (fun s i => flightTurn i s) s

/-! ## Starts -/

/-- A Flight starts, and its first read cycle with it (R174, R177). -/
def startFlight (e : QEntry) (s : State) : State :=
  let c := e.raw
  match (goStages c).find? (fun i => let q := capStage e.cap i; stKind q == 0x1F && s.flt.treads.get (stProg q).val == 0) with
  | some i => flightFault e 1 i s
  | none =>
    match treadOver s c e.cap with
    | some i => flightFault e 2 i s
    | none =>
      if narrowsInt s c e.cap then
        flightFault e 3 (((goStages c).find? fun i => let k := stKind (capStage e.cap i); k == 0x10 || k == 0x11).getD 0) s
      else
        let r := takeAtStart .vec e.operands e.entries s
        let j := addJob (.flight e false) r.1 e.seq (some e.thread) (cSig c) (vecStarted e r.2)
        let s := { j.2 with flt := { j.2.flt with lastDef := BitVec.ofNat 4 (goDef c) } }
        let x := issueFlight j.1 r.1 (newRun e (flightCycles c e.vl) (some j.1)) s
        addRun x.1 x.2

/-- The row of a command of queue 3 with opcode `opc` that has no lane unit. -/
def fltRow (opc : Nat) (ok : State → QEntry → Bool) (go : QEntry → State → State) (s : State) : State :=
  match s.vecHead with
  | none => s
  | some e => if cOpc e.raw = opc && ok s e then go e s else s

/-- FLT.STG writes one stage entry (R178). -/
def startStg (e : QEntry) (s : State) : State :=
  let s := vecStarted e s
  signalOpt (cSig e.raw) { s with flt := { s.flt with
    defs := s.flt.defs.set (8 * fld e.raw 19 4 + fld e.raw 23 3) e.raw } }

/-- FLT.ADR writes one address record (R179). -/
def startAdr (e : QEntry) (s : State) : State :=
  let s := vecStarted e s
  signalOpt (cSig e.raw) { s with flt := { s.flt with recs := s.flt.recs.set (arRec e.raw) e.raw } }

/-- An earlier Flight that names slot `p` has values that have not left it (R182). -/
def State.flightNames (s : State) (p : Nat) : Bool :=
  s.jobs.any fun j => match j.kind with
    | .flight e wr => !wr && (flightProgs e.raw e.cap).any (fun q => q.val == p)
    | _ => false

/-- TRD.LOAD starts reading its image (R191). -/
def startTrd (e : QEntry) (s : State) : State :=
  let r := takeAtStart .vec (e.operands) e.entries s
  let j := addJob (.tread e) r.1 e.seq (some e.thread) (cSig e.raw) (vecStarted e r.2)
  addRead j.1 0 .vec r.1[0]? (vmBase e.raw) 192 j.2

def execFltStg (s : State) : Host.Outcome State Fault Refusal := .next (fltRow 0x1C (fun _ _ => true) startStg s)
def execFltAdr (s : State) : Host.Outcome State Fault Refusal := .next (fltRow 0x1D (fun _ _ => true) startAdr s)
def execFltGo (s : State) : Host.Outcome State Fault Refusal := .next (fltRow 0x1E State.flightReady startFlight s)
def execTrdLoad (s : State) : Host.Outcome State Fault Refusal :=
  .next (fltRow 0x1F (fun s e => canTake s (e.operands) && !s.flightNames (fld e.raw 19 6) &&
    !s.loadingProg (Fin.ofNat 64 (fld e.raw 19 6))) startTrd s)

/-! ## Ends -/

/-- A Flight whose last write has completed signals and releases its entries (R177, R194). -/
def flightComplete (s : State) : State :=
  match s.jobs.find? (fun j => (match j.kind with | .flight _ true => true | _ => false) && j.left == 0 && j.due ≤ s.now) with
  | none => s
  | some j =>
    if !s.clocked then s
    else
      let ok := j.bad.isNone && !j.voided
      signalOpt (if ok then j.sig else none) (dropJob j.id (releaseAll j.entries ok s))

def execFlightComplete (s : State) : Host.Outcome State Fault Refusal := .next (flightComplete s)

/-- The image that has arrived for slot `p` is its program, or raises TREAD_BAD (R191, R195). -/
def treadLoaded (p : Fin 64) (s : State) : State :=
  match s.jobs.find? (fun j => j.left == 0 &&
      match j.kind with | .tread e => fld e.raw 19 6 == p.val | _ => false) with
  | none => s
  | some j =>
    match j.kind with
    | .tread e =>
      if !s.clocked then s
      else if j.voided then dropJob j.id (releaseAll j.entries false s)
      else
        let img : Tread := BitVec.ofNat 1536 (leNat (bufBytes j.buf (vmBase e.raw) 192))
        if treadBad img then
          let s := recordFlt 2 0 0 e.seq s
          if s.clu.live then
            dropJob j.id (holdBack e j (holdFlight (logEvt .flt 1 (defaultLog 0x13 0 e.seq) s)))
          else engineFault .flt 1 0x13 0 e.seq (dropJob j.id (releaseAll j.entries false s))
        else
          let s := { s with flt := { s.flt with treads := s.flt.treads.set p.val img } }
          signalOpt j.sig (dropJob j.id (releaseAll j.entries true s))
    | _ => s

def execTreadProgramLoaded (p : Fin 64) (s : State) : Host.Outcome State Fault Refusal := .next (treadLoaded p s)

/-! ## Failed reads (R194, R195) -/

/-- The lowest position whose value needs the bytes of memory record `m` from `addr` on. -/
def failPos (c m : Cmd) (vl addr len : Nat) : Nat :=
  let b := fmtBits (arTap m)
  ((List.range (goCount c vl)).find? fun e =>
    let p := goPos c e
    let lo := arBase m + p.1 * arStride m + p.2.1 * b / 8
    lo < addr + len && addr ≤ lo + (b - 1) / 8).getD 0

/-- The first stage that takes the memory operand. -/
def memStage (c : Cmd) (cap : List Cmd) : Nat := ((goStages c).find? fun i => stOk (capStage cap i) == 5).getD 0

/-- A read of `len` bytes at `addr` of Flight `id` failed, of M1 where the tag is odd. RD_ERR and FLT_FAULT record a line that could
not be corrected; a line of an OFF group is recorded by its tier alone (R196, R326). -/
def flightAccessFault (id tag addr len : Nat) (p : Page) (code : Nat) (seq : BitVec 32) (s : State) : State :=
  match s.job? id with
  | none => s
  | some j =>
    match j.kind with
    | .flight e _ =>
      let m1 := tag % 2 = 1
      let pos := min (j.bad.getD (2 ^ 24)) (failPos e.raw (capRec e.cap (if m1 then 5 else 4)) e.vl addr len)
      let stage := if m1 then memStage e.raw e.cap else 0
      let first := j.bad.isNone
      let s := modJob id (fun x => { x with bad := some pos }) s
      let rec_ := code = 0x18
      let s := if rec_ then logEvt .flt 2 (defaultLog code stage e.seq) (recordFlt 4 stage pos e.seq s) else s
      if s.clu.live then
        if first then
          holdFlight (modQueue 3 (fun q => { q with cmds := { e with entries := j.entries } :: q.cmds })
            (modJob id (fun x => { x with entries := [] }) s))
        else s
      else
        let t := memAbort p code seq s
        if t.ush.task = s.ush.task && rec_ then jobFatal .flt code (s.seqOf .flt 2) t else t
    | _ => s

/-- A write of Flight `id` met an OFF group: the task aborts, and the Flight does not signal (R209). -/
def flightWriteFault (id : Nat) (p : Page) (code : Nat) (seq : BitVec 32) (s : State) : State :=
  memAbort p code seq (modJob id (fun j => { j with bad := some (j.bad.getD (2 ^ 24)) }) s)

/-- A read of TRD.LOAD `id` failed (R191, R206). -/
def treadFault (id : Nat) (p : Page) (code : Nat) (seq : BitVec 32) (s : State) : State :=
  match s.job? id with
  | none => s
  | some j =>
    match j.kind with
    | .tread e =>
      if j.voided then s
      else if s.clu.live then holdFlight (holdBack e j s)
      else
        memAbort p code seq (modJob id (fun x => { x with voided := true }) s)
    | _ => s

end Sys2Proof.Machine
end

