-- ==== Sys2Proof/Machine/Issue.lean ====
section
/-! DEFINITION. How Usher issues one instruction: the two slots of a cycle (R53, R54), the fetch (R66, R400), the wait on
a pending register (R50), and what a result does to the thread. -/

namespace Sys2Proof.Machine

/-- What an instruction comes to: it is performed and the thread goes on at `pc`; it raises a precise fault, which
changes nothing; or it does not issue and its thread waits. -/
inductive Res where
  | next (s : State) (pc : BitVec 18)
  | fault (code : Nat)
  /-- A fault whose instruction has discarded a held first entry (R399 rule 2). -/
  | trap (code : Nat) (s : State)
  | wait (st : TState)

/-- The code of a result that is a fault. -/
def Res.code? : Res → Option Nat
  | .fault c => some c
  | .trap c _ => some c
  | _ => none

/-- The meaning of an instruction word for thread `t`. -/
abbrev Body := Fin 16 → BitVec 32 → State → Res

/-- Whose turn a slot is. -/
inductive Turn where
  | none
  /-- Slot 0, with the READY threads in order. -/
  | first (order : List (Fin 16))
  /-- Slot 1 of another thread. -/
  | second
  /-- Slot 1 of the only READY thread. -/
  | pair (u : SlotUse)
  /-- A slot of a task thread that an abort stopped in this cycle (R69 step 2). -/
  | stopped
deriving DecidableEq

/-- Thread `t`'s turn in the present cycle (R53). -/
def State.turn (s : State) (t : Fin 16) : Turn :=
  if !s.mayIssue then .none
  else if s.ush.stopped.contains t && (s.thread t).st = .halted then .stopped
  else match s.ush.slot0 with
    | none => if s.issueOrder.head? = some t then .first s.issueOrder else .none
    | some u =>
      if s.ush.slotsUsed ≥ 2 then .none
      else match u.order.drop 1 with
        | x :: _ =>
          if x = t ∧ s.canIssue t then .second else .none
        | [] => if u.thread = t ∧ s.canIssue t then .pair u else .none

/-- The pair rule of R54 for the second instruction `o`, word `w`, after `u`. -/
def pairOk (u : SlotUse) (o : UOp) (w : BitVec 32) : Bool :=
  (u.alu || o.isAlu) && !u.branch &&
    match u.writes with
    | none => true
    | some r => !((o.reads w).contains r) && o.writes w != some r

/-- A write of S0 writes no register (R52). -/
def realWrite (r : Option (Fin 32)) : Option (Fin 32) := if r = some 0 then none else r

/-- Slot use of the instruction `o`, word `w`, of thread `t`. -/
def useSlot (t : Fin 16) (turn : Turn) (o : UOp) (w : BitVec 32) (s : State) : State :=
  match turn with
  | .first order =>
    { s with ush := { s.ush with slotsUsed := 1, slot0 := some ⟨t, order, o.isAlu, o.isBranch, realWrite (o.writes w)⟩ } }
  | _ => { s with ush := { s.ush with slotsUsed := 2 } }

/-- The instruction word at thread `t`'s pc. -/
def fetchWord (s : State) (pc : BitVec 18) : BitVec 32 := BitVec.ofNat 32 (memNat s (Config.imemBase + pc.toNat) 4)

/-- A task thread fetches from the firmware's part (R66). -/
def fetchPriv (s : State) (t : Fin 16) : Bool :=
  t != fwThread && (s.thread t).pc.toNat < s.ush.fwTop.toNat * 4096

/-- The first register of the instruction whose load is pending (R50). -/
def pendingReg (th : Thread) (o : UOp) (w : BitVec 32) : Option (Fin 32) :=
  (o.reads w ++ (o.writes w).toList).find? fun r => th.pend.any fun p => p.2 == r

/-- Completes an issue (R52, R69). -/
def applyRes (t : Fin 16) (r : Res) (s : State) : State :=
  match r with
  | .next s pc =>
    modThread t (fun th =>
      let th := { th with pc := pc, issued := th.issued + 1 }
      if th.st = .ready then th.resume else th) s
  | .fault c => preciseFault t c s
  | .trap c s => preciseFault t c s
  | .wait st => modThread t (fun th => { th with st := st }) s

/-- The instruction at thread `t`'s pc, read as row `op`: fetch, decode, the register wait, then its body. `none` when
the word is another row's instruction. FW.RET in a task thread is ILLEGAL (R401); a word that is no instruction takes its
slot as that one does, as something other than an ALU instruction (R54). -/
def readIns (op : UOp) (body : Body) (t : Fin 16) (s : State) : Option (UOp × BitVec 32 × Res) :=
  let th := s.thread t
  let w := fetchWord s th.pc
  if fetchPriv s t then some (.fwRet, w, .fault 0x03)
  else match decodeUsher w with
    | none => some (.fwRet, w, .fault 0x04)
    | some o =>
      if o = op then
        if o = .fwRet ∧ t ≠ fwThread then some (o, w, .fault 0x04)
        else match pendingReg th o w with
          | some r => some (o, w, .wait (.waitData (.reg r)))
          | none => some (o, w, body t w s)
      else none

/-- The step of one Usher row for thread `t`: nothing happens unless a slot is the thread's and its instruction is this
row's. -/
def usherRow (op : UOp) (body : Body) (t : Fin 16) (s : State) : State :=
  match s.turn t with
  | .none => s
  | .stopped =>
    match readIns op body t s with
    | some (_, _, r) =>
      (match r.code? with
      | some c =>
        modThread t (fun th => { th with st := .faulted, fault := BitVec.ofNat 8 c })
          (logEvt .ush 1 (defaultLog c t.val s.ush.pushSeq.toNat) s)
      | none => s)
    | none => s
  | turn =>
    match readIns op body t s with
    | none => s
    | some (o, w, r) =>
      let ok := match turn with | .pair u => pairOk u o w | _ => true
      if ok then
        match r with
        | .next s' pc => applyRes t (.next ((useSlot t turn o w s').spend .issue (some t) 1) pc) s
        | .trap c s' => applyRes t (.trap c (useSlot t turn o w s')) s
        | r => applyRes t r (useSlot t turn o w s)
      else s

/-- The pc after the instruction at thread `t`'s pc. -/
def State.pcNext (s : State) (t : Fin 16) : BitVec 18 := (s.thread t).pc + 4

end Sys2Proof.Machine
end

