-- ==== Sys2Proof/Machine/Sync.lean ====
section
/-! DEFINITION. Sync objects, queue contexts and atomics as Usher uses them (chapter 12), and the step instructions of
R22, R24 and R68. -/

namespace Sys2Proof.Machine

/-! ## SYNC.WAIT, SYNC.ADD, SYNC.SET, SYNC.RD (R276, R277, R401) -/

/-- The sync object an instruction names: an immediate, or a register value, which must be below 8,192. -/
def objOf (imm : Bool) (w : BitVec 32) (r : BitVec 64) : Option Nat :=
  if imm then some (fld w 0 13) else if r.toNat < 8192 then some r.toNat else none

def syncWaitBody : Body := fun t w s =>
  let th := s.thread t
  match objOf (bitAt w 23) w (th.reg (wRb w)) with
  | none => .fault 0x01
  | some n =>
    let target := (th.reg (wRa w)).extractLsb' 0 32
    if syncSatisfied (syncGet s n) target then .next s (s.pcNext t)
    else .next (modThread t (fun th => { th with st := .waitSync (.obj (BitVec.ofNat 13 n) target none) }) s) (s.pcNext t)

/-- The object of SYNC.ADD, SYNC.SET and SYNC.RD. -/
def objOf5 (w : BitVec 32) (th : Thread) : Option Nat := objOf (bitAt w 13) w (th.reg (Fin.ofNat 32 (fld w 0 5)))

/-- The count before goes to rd when the row writes it; `f` gives the new count. -/
def syncOpBody (wr : Bool) (f : BitVec 32 → BitVec 32 → Option (BitVec 32)) : Body := fun t w s =>
  let th := s.thread t
  match objOf5 w th with
  | none => .fault 0x01
  | some n =>
    let old := syncBase s n
    let s := match f old ((th.reg (wRa w)).extractLsb' 0 32) with
      | some v => syncOther n v s
      | none => s
    let s := if wr then modThread t (fun th => th.setReg (wRd w) (old.zeroExtend 64)) s else s
    .next s (s.pcNext t)

/-- An operation on object `n` that this cycle's other operation makes wait: it is performed in a later one (R278). -/
def deferSync (n : Nat) (op : SyncOp) (s : State) : Nat × State :=
  let j := addJob (.syncOp n op) [] 0 none none s
  (j.1, modJob j.1 (fun j => { j with due := s.now + 1 }) j.2)

/-- SYNC.ADD and SYNC.SET: as `syncOpBody`, unless the object has taken an operation in this cycle. The register that waits
for the count is pending meanwhile (R50). -/
def syncChangeBody (wr : Bool) (f : BitVec 32 → BitVec 32 → Option (BitVec 32)) : Body := fun t w s =>
  let th := s.thread t
  let k := (th.reg (wRa w)).extractLsb' 0 32
  match objOf5 w th with
  | none => .fault 0x01
  | some n =>
    if s.syncTaken n then
      let j := deferSync n (if wr then .add t (wRd w) k else .set k) s
      let s := modThread t (fun th =>
        { th with pend := th.pend ++ (if wr ∧ wRd w ≠ 0 then [(j.1, wRd w)] else []) }) j.2
      .next s (s.pcNext t)
    else syncOpBody wr f t w s

def execSyncWait (t : Fin 16) (s : State) : Host.Outcome State Fault Refusal := .next (usherRow .syncWait syncWaitBody t s)
def execSyncAdd (t : Fin 16) (s : State) : Host.Outcome State Fault Refusal :=
  .next (usherRow .syncAdd (syncChangeBody true fun c a => some (c + a)) t s)
def execSyncSet (t : Fin 16) (s : State) : Host.Outcome State Fault Refusal :=
  .next (usherRow .syncSet (syncChangeBody false fun _ a => some a) t s)
def execSyncRd (t : Fin 16) (s : State) : Host.Outcome State Fault Refusal :=
  .next (usherRow .syncRd (syncOpBody true fun _ _ => none) t s)

/-- The waits whose SYNC.LOCAL has passed end (R277). -/
def Thread.wakeSync (now : Nat) (th : Thread) : Thread :=
  match th.st with
  | .waitSync (.obj _ _ (some at_)) => if at_ ≤ now then th.resume else th
  | _ => th

def execSyncWake (s : State) : Host.Outcome State Fault Refusal :=
  .next { s with ush := { s.ush with threads := s.ush.threads.map (Thread.wakeSync s.now) } }

/-- A write of SYNC_VAL: set under EXPECT (R297). -/
def syncVal (v : BitVec 64) (s : State) : State :=
  let n := s.sync.sel.toNat
  if s.syncTaken n then (deferSync n (.val (v.extractLsb' 0 32) (v.extractLsb' 32 32)) s).2
  else if syncBase s n = v.extractLsb' 32 32 then syncOther n (v.extractLsb' 0 32) s else countEvt .sync 0 s

/-! ## Queue contexts (R279 to R281) -/

/-- A context that has never been configured. -/
def QueCtx.off : QueCtx := ⟨false, 0, 0, 0, 0, 0, []⟩

def State.que (s : State) (q : Nat) : QueCtx := cellsGet QueCtx.off s.sync.ques q
def modQue (q : Nat) (f : QueCtx → QueCtx) (s : State) : State :=
  { s with sync := { s.sync with ques := cellsSet QueCtx.off q (f (s.que q)) s.sync.ques } }

def QueCtx.depth (x : QueCtx) : Nat := 2 ^ x.depthLog2.toNat
def QueCtx.slot (x : QueCtx) (i : Nat) : Nat := x.base.toNat + 8 * (i % x.depth)

/-- Threads that wait on context `q`. -/
def State.queWaiters (s : State) (q : Nat) : Bool :=
  allThreads.any fun t => match (s.thread t).st with
    | .waitSync (.quePut n) => n.toNat == q
    | .waitSync (.queGet n) => n.toNat == q
    | _ => false

/-- The threads that wait for room in context `q`, or for an entry of it, try again. -/
def wakeQue (put : Bool) (q : Nat) (s : State) : State :=
  { s with ush := { s.ush with threads := s.ush.threads.map fun th => match th.st with
    | .waitSync (.quePut n) => if put && n.toNat == q then { th with st := .ready } else th
    | .waitSync (.queGet n) => if !put && n.toNat == q then { th with st := .ready } else th
    | _ => th } }

def queCfgBody : Body := fun t w s =>
  let th := s.thread t
  let q := (th.reg (wRd w)).toNat
  let a := th.reg (wRa w)
  let base := (th.reg (wRb w)).toNat
  let en := bitAt a 0
  let lg := fld a 8 4
  let x := s.que q
  if q ≥ 8192 then .fault 0x0B
  else if (en && x.en) || !(1 ≤ lg && lg ≤ 12) || base % (8 * 2 ^ lg) ≠ 0 || !inHall base (8 * 2 ^ lg) ||
      (!en && (s.queWaiters q || x.res ≠ x.tail)) then .fault 0x0B
  else
    .next (modQue q (fun x =>
      if en then ⟨true, BitVec.ofNat 4 lg, BitVec.ofNat 32 base, 0, 0, 0, []⟩
      else { x with en := false, depthLog2 := BitVec.ofNat 4 lg, base := BitVec.ofNat 32 base }) s) (s.pcNext t)

/-- A put into an enabled context with room: its entry write at the rank of `unit`, and the index it takes. -/
def quePutNow (q : Nat) (v : BitVec 64) (unit : MemUnit) (by_ : Option (Fin 16 × BitVec 18)) (s : State) : Nat × State :=
  let x := s.que q
  let a := x.slot x.res
  let e := takeEntry a (a + 7) true unit none s
  let j := addJob (.quePut (BitVec.ofNat 13 q) x.res by_) [e.1] s.ush.pushSeq.toNat (by_.map (·.1)) none e.2
  let s := addWrite j.1 0 unit (some e.1) a (leBytes v.toNat 8) j.2
  (x.res, modQue q (fun x => { x with res := x.res + 1 }) s)

def quePutBody : Body := fun t w s =>
  let th := s.thread t
  let q := (th.reg (wRa w)).toNat
  let x := s.que q
  if q ≥ 8192 ∨ !x.en then .fault 0x0B
  else if x.res - x.head ≥ x.depth then .wait (.waitSync (.quePut (BitVec.ofNat 13 q)))
  else if s.rangeFull then .wait (.waitRange none)
  else .next (quePutNow q (th.reg (wRb w)) .usher (some (t, th.pc)) s).2 (s.pcNext t)

def queGetBody : Body := fun t w s =>
  let th := s.thread t
  let q := (th.reg (wRa w)).toNat
  let x := s.que q
  if q ≥ 8192 ∨ !x.en then .fault 0x0B
  else if x.head = x.tail then .wait (.waitSync (.queGet (BitVec.ofNat 13 q)))
  else if s.rangeFull then .wait (.waitRange none)
  else
    let a := x.slot x.head
    let e := takeEntry a (a + 7) false .usher none s
    let j := addJob (.queGet t (wRd w) a th.pc) [e.1] s.ush.pushSeq.toNat (some t) none e.2
    let s := addRead j.1 0 .usher (some e.1) a 8 j.2
    let s := modThread t (fun th => { th with pend := th.pend ++ (if wRd w = 0 then [] else [(j.1, wRd w)]) }) s
    .next (wakeQue true q (modQue q (fun x => { x with head := x.head + 1 }) s)) (s.pcNext t)

def execQueCfg (t : Fin 16) (s : State) : Host.Outcome State Fault Refusal := .next (usherRow .queCfg queCfgBody t s)
def execQuePut (t : Fin 16) (s : State) : Host.Outcome State Fault Refusal := .next (usherRow .quePut quePutBody t s)
def execQueGet (t : Fin 16) (s : State) : Host.Outcome State Fault Refusal := .next (usherRow .queGet queGetBody t s)

/-- TAIL passes every entry whose write, with those of all lower indices, has completed. -/
def tailRun : Nat → QueCtx → QueCtx
  | 0, x => x
  | fuel + 1, x =>
    if x.done.contains x.tail then tailRun fuel { x with tail := x.tail + 1, done := x.done.filter (· ≠ x.tail) } else x

/-- The write of entry `idx` of context `q` has completed. -/
def putDone (q idx : Nat) (s : State) : State :=
  wakeQue false q (modQue q (fun x => tailRun (x.done.length + 1) { x with done := idx :: x.done }) s)

/-- ATOM.QPUT at its destination (R281), from `unit`: the index, or all ones and a refusal. -/
def qput (unit : MemUnit) (q : Nat) (v : BitVec 64) (s : State) : BitVec 64 × State :=
  let x := s.que q
  if !x.en ∨ x.res - x.head ≥ x.depth then
    (BitVec.allOnes 64, countEvt .que 0 { s with sync := { s.sync with queRefused := s.sync.queRefused + 1 } })
  else
    let r := quePutNow q v unit none s
    (BitVec.ofNat 64 r.1, r.2)

/-! ## Atomic operations (R283) -/

/-- The new value of a Hall or Lower Hall word; `none` where the table marks the operation "—". -/
def atomWord (op : AtomOp) (old b c : BitVec 64) : Option (BitVec 64) :=
  match op with
  | .add => some (old + b)
  | .max => some (if old.ult b then b else old)
  | .min => some (if b.ult old then b else old)
  | .and => some (old &&& b)
  | .or => some (old ||| b)
  | .swap => some b
  | .cas => some (if old = b then c else old)
  | .qput => none

/-- The new count of a sync object. -/
def atomCount (op : AtomOp) (old b c : BitVec 32) : Option (BitVec 32) :=
  match op with
  | .add => some (old + b)
  | .max => some (if old.ult b then b else old)
  | .min => some (if b.ult old then b else old)
  | .swap => some b
  | .cas => some (if old = b then c else old)
  | _ => none

/-- An atomic on sync object `n`: the old count, zero-extended; `none` where it is not supported. -/
def atomSync (n : Nat) (op : AtomOp) (b c : BitVec 64) (s : State) : Option (BitVec 64 × State) :=
  let old := syncBase s n
  (atomCount op old (b.extractLsb' 0 32) (c.extractLsb' 0 32)).map fun v => (old.zeroExtend 64, syncOther n v s)

/-! ## ATOM and ATOM.H (R283 to R288) -/

/-- What a local target is (R197, R283). -/
inductive LocalTarget where
  | word (a : Nat) | obj (n : Nat) | que (q : Nat)
deriving DecidableEq

def localTarget (b : Build) (a : Nat) : Option LocalTarget :=
  if a % 8 ≠ 0 then none
  else if inSram b a 8 then some (.word a)
  else if Config.syncBase ≤ a ∧ a < Config.syncBase + 0x10000 then some (.obj ((a - Config.syncBase) / 8))
  else if Config.queBase ≤ a ∧ a < Config.queBase + 0x10000 then some (.que ((a - Config.queBase) / 8))
  else none

def AtomReq.isOwn (s : State) (a : AtomReq) : Bool := !bitAt a.addr 40 &&
  fld a.addr 48 16 == s.fab.node.toNat && fld a.addr 45 3 == s.fab.die.toNat && fld a.addr 41 4 == s.fab.cluster.toNat

/-- The local target of an atomic of this cluster, when its operation is defined there. -/
def AtomReq.target? (s : State) (a : AtomReq) : Option LocalTarget :=
  if fld a.addr 32 8 ≠ 0 then none
  else match localTarget s.build (fld a.addr 0 32) with
    | some (.word x) => if a.op = .qput then none else some (.word x)
    | some (.obj n) => if a.home ∨ (atomCount a.op 0 0 0).isNone then none else some (.obj n)
    | some (.que q) => if a.op = .qput ∧ !a.home then some (.que q) else none
    | none => none

/-- Sd = S0 makes a scoped atomic posted (R285). -/
def AtomReq.posted (a : AtomReq) : Bool := a.rd == 0 && !a.home

/-- The cluster an address names lies in scope `sc` of this cluster (R282). -/
def inScope (s : State) (sc : Scope) (addr : BitVec 64) : Bool :=
  let node := fld addr 48 16 == s.fab.node.toNat
  let die := fld addr 45 3 == s.fab.die.toNat
  let cl := fld addr 41 4 == s.fab.cluster.toNat
  match sc with
  | .cl => node && die && cl
  | .dy => node && die
  | .pk => node
  | .fb => true

/-- Numbers of the atomics of the cluster that have not been performed or answered, within a scope (R284): those under way,
and those that wait in their own release fence. -/
def State.openAtoms (s : State) (sc : Scope) : List Nat :=
  let own (a : AtomReq) : Option Nat := if inScope s sc a.addr then some a.id else none
  (s.jobs.filterMap fun j => match j.kind with
    | .atomMem _ a _ => own a
    | _ => none) ++
  (s.fab.xfers.filterMap fun x => match x.holder, x.kind with
    | .usher .., .atom a => own a
    | _, _ => none) ++
  (allThreads.filterMap fun t => match (s.thread t).st with
    | .waitSync (.fence a _ _ _) => own a
    | _ => none)

/-- Posted atomics outstanding (SYNC_STAT). -/
def State.postedAtoms (s : State) : Nat :=
  (s.fab.xfers.filter fun x => match x.holder with | .usher _ _ _ p => p | _ => false).length

/-- Atomics that have left, or wait to leave, the cluster (R242). -/
def State.remoteAtoms (s : State) : Nat :=
  (s.fab.xfers.filter fun x => match x.holder with | .usher .. => true | _ => false).length

/-- Thread `t` performs or sends its atomic, its fence passed. A local word access has taken its entry `own` at issue, and
takes one grant; a local sync or queue operation follows from the next cycle on (R283). -/
def sendAtom (t : Fin 16) (a : AtomReq) (own : Option Nat) (s : State) : State :=
  let pc := (s.thread t).pc
  let after (id : Nat) (s : State) : State :=
    modThread t (fun th => if a.posted then { th.resume with pc := pc + 4 } else { th with st := .waitData (.atom id) }) s
  if a.isOwn s then
    match a.target? s with
    | some (.word x) =>
      let j := addJob (.atomMem t a pc) own.toList s.ush.pushSeq.toNat (some t) none s
      after j.1 (addRead j.1 0 .usher own x 8 j.2)
    | _ =>
      let j := addJob (.atomMem t a pc) [] s.ush.pushSeq.toNat (some t) none s
      after j.1 (modJob j.1 (fun j => { j with due := s.now + 1 }) j.2)
  else
    let n := s.fresh
    after n.1 (addXfer ⟨.usher t n.1 a.rd a.posted, .atom a, a.addr, 0, 0, none, 0, s.now, false⟩ n.2)

/-- The atomic needs a range entry, and none is free. -/
def atomNeedsEntry (s : State) (a : AtomReq) : Bool :=
  a.isOwn s && s.rangeFull && (match a.target? s with | some (.word _) => true | _ => false)

/-- The entry that an atomic on a local word takes at issue (R283); any other takes none. -/
def takeAtomEntry (a : AtomReq) (s : State) : Option Nat × State :=
  match a.isOwn s, a.target? s with
  | true, some (.word x) => let e := takeEntry x (x + 7) true .usher none s; (some e.1, e.2)
  | _, _ => (none, s)

/-- A remote atomic of a cluster that has 16 outstanding waits before it is sent (R242). -/
def atomAtLimit (s : State) (a : AtomReq) : Bool := !a.isOwn s && s.remoteAtoms ≥ Config.atomOut

def atomBody (home : Bool) (op : AtomOp) : Body := fun t w s =>
  let th := s.thread t
  let sc := if home then .fb else scopeOf (fld w 1 2)
  let a : AtomReq := ⟨s.nextId, wRd w, th.reg (wRa w), op, th.reg (wRb w), th.reg (wRc w), sc, home⟩
  let entries := (s.range.filter fun e => e.wr && e.live).map (·.id)
  let atoms := s.openAtoms sc
  let fenced := sc ≠ .cl ∧ !(entries.isEmpty && atoms.isEmpty)
  if a.isOwn s ∧ (a.target? s).isNone then .fault 0x01
  else if atomNeedsEntry s a then .wait (.waitRange none)
  else if !fenced ∧ atomAtLimit s a then .wait .ready
  else
    let r := takeAtomEntry a s.fresh.2
    if fenced then .next (modThread t (fun th => { th with st := .waitSync (.fence a r.1 entries atoms) }) r.2) th.pc
    else
      let s := sendAtom t a r.1 r.2
      .next s (s.thread t).pc

def execAtomAdd (t : Fin 16) (s : State) : Host.Outcome State Fault Refusal := .next (usherRow .atomAdd (atomBody false .add) t s)
def execAtomMax (t : Fin 16) (s : State) : Host.Outcome State Fault Refusal := .next (usherRow .atomMax (atomBody false .max) t s)
def execAtomMin (t : Fin 16) (s : State) : Host.Outcome State Fault Refusal := .next (usherRow .atomMin (atomBody false .min) t s)
def execAtomAnd (t : Fin 16) (s : State) : Host.Outcome State Fault Refusal := .next (usherRow .atomAnd (atomBody false .and) t s)
def execAtomOr (t : Fin 16) (s : State) : Host.Outcome State Fault Refusal := .next (usherRow .atomOr (atomBody false .or) t s)
def execAtomSwap (t : Fin 16) (s : State) : Host.Outcome State Fault Refusal := .next (usherRow .atomSwap (atomBody false .swap) t s)
def execAtomCas (t : Fin 16) (s : State) : Host.Outcome State Fault Refusal := .next (usherRow .atomCas (atomBody false .cas) t s)
def execAtomQput (t : Fin 16) (s : State) : Host.Outcome State Fault Refusal := .next (usherRow .atomQput (atomBody false .qput) t s)
def execAtomHAdd (t : Fin 16) (s : State) : Host.Outcome State Fault Refusal := .next (usherRow .atomHAdd (atomBody true .add) t s)
def execAtomHSwap (t : Fin 16) (s : State) : Host.Outcome State Fault Refusal := .next (usherRow .atomHSwap (atomBody true .swap) t s)
def execAtomHCas (t : Fin 16) (s : State) : Host.Outcome State Fault Refusal := .next (usherRow .atomHCas (atomBody true .cas) t s)

/-- The fence of thread `t` has cleared: its atomic is performed or sent (R284). -/
def execReleaseFenceClear (t : Fin 16) (s : State) : Host.Outcome State Fault Refusal :=
  match (s.thread t).st with
  | .waitSync (.fence a own entries atoms) =>
    let live := s.openAtoms a.scope
    .next (if s.clocked && !(s.range.any fun e => e.live && entries.contains e.id) && !(atoms.any live.contains) &&
        !atomAtLimit s a then sendAtom t a own s else s)
  | _ => .next s

/-- The result of an atomic of thread `t` that has been performed or answered; its thread goes on at the next
instruction. -/
def atomResult (t : Fin 16) (id : Nat) (rd : Fin 32) (v : BitVec 64) (from_ : Nat) (s : State) : State :=
  modThread t (fun th =>
    if th.st = .waitData (.atom id) then { (th.setReg rd v).resume with pc := th.pc + 4, notBefore := from_ } else th) s

/-! ## STEP.WAIT, STEP.END, TASK.END (R22, R24, R68) -/

/-- The operand of STEP.WAIT: Sa + imm16, zero-extended. -/
def stepWaitBody : Body := fun t w s =>
  let c := ((s.thread t).reg (wRa w) + wZimm w).toNat
  if s.step.cycle.toNat ≥ c then .next s (s.pcNext t)
  else .next (modThread t (fun th => { th with st := .waitStep c }) s) (s.pcNext t)

def execStepWait (t : Fin 16) (s : State) : Host.Outcome State Fault Refusal := .next (usherRow .stepWait stepWaitBody t s)

def execTaskEnd (t : Fin 16) (s : State) : Host.Outcome State Fault Refusal :=
  .next (usherRow .taskEnd (fun t _ s => .next (modThread t (fun th => { th with st := .halted }) s) (s.pcNext t)) t s)

/-- Every task thread HALTED or FREE, every engine queue empty, the range table without an entry (R68). -/
def State.taskDone (s : State) : Bool :=
  s.ush.task = .running && s.queuesEmpty && s.range.isEmpty &&
    allThreads.all fun t => t = fwThread || (s.thread t).st = .halted || (s.thread t).st = .free

def execTaskEnded (s : State) : Host.Outcome State Fault Refusal :=
  .next (if s.taskDone then { s with ush := { s.ush with task := .ended } } else s)

end Sys2Proof.Machine
end

