-- ==== Sys2Proof/Machine/Windows.lean ====
section
/-! DEFINITION. Inbound windows (R264 to R268): which accesses they let in, where they lead, and how they change. -/

namespace Sys2Proof.Machine

def Window.lo (w : Window) : Nat := w.base.toNat * 4096
def Window.size (w : Window) : Nat := 2 ^ w.sizeLog2.toNat
/-- The window's offset range holds every byte of the access. -/
def Window.holds (w : Window) (o n : Nat) : Bool := w.lo ≤ o && o + n ≤ w.lo + w.size

/-- The number of a port in WIN_CTL.PORTS and PAGE_ERR_LOG. -/
def portNum : LinkPort → Nat
  | .fab => 0
  | .gal g => g.val + 1

/-- (source xor SRC) and MASK is 0 in every field. -/
def Window.source (w : Window) (i : Identity) : Bool :=
  (i.node ^^^ w.node) &&& w.nodeMask == 0 && (i.die ^^^ w.die) &&& w.dieMask == 0 &&
    (i.cluster ^^^ w.cluster) &&& w.clusterMask == 0

/-- The permission an access needs. -/
inductive Need where
  | rd | wr | atom
deriving DecidableEq

def Window.grants (w : Window) : Need → Bool
  | .rd => w.rd
  | .wr => w.wr
  | .atom => w.atom

def Window.counter (w : Window) (adv : Option Advance) : Bool :=
  match adv with
  | none => true
  | some a => w.cntEn && w.cntLo.toNat ≤ a.counter.toNat && a.counter.toNat ≤ w.cntHi.toNat

/-- The window of an admitted job. -/
def Job.win? (j : Job) : Option (Fin 64) :=
  match j.kind with
  | .inRead _ _ _ _ _ w => some w
  | .inWrite _ _ _ w => some w
  | .inAtom _ _ _ w => some w
  | .galTile _ w => some w
  | .syncOp _ (.inSet _ _ _ _ w) => some w
  | .syncOp _ (.inAtom _ _ _ _ _ w) => some w
  | _ => none

/-- Window `w` has admitted accesses in flight (WIN_BUSY). -/
def State.winBusy (s : State) (w : Fin 64) : Bool := s.jobs.any fun j => j.win? == some w

/-- Admission (R265): the window, or the reason of the refusal: 1 no window, 2 permission, 3 source, 4 counter range, 5
window closing. -/
def admission (s : State) (p : LinkPort) (src : Identity) (o n : Nat) (need : Need) (adv : Option Advance) :
    Except Nat (Fin 64) :=
  let hit (w : Fin 64) : Bool := let x := s.window w; x.holds o n && bitAt x.ports (portNum p)
  match (List.finRange 64).find? (fun w => (s.window w).en && hit w) with
  | none =>
    if (List.finRange 64).any (fun w => !(s.window w).en && hit w && s.winBusy w) then .error 5 else .error 1
  | some w =>
    let x := s.window w
    if !x.source src then .error 3
    else if !x.grants need then .error 2
    else if !x.counter adv then .error 4
    else .ok w

/-- A refusal is counted and logged; it changes nothing else (R266). -/
def refuse (p : LinkPort) (src : Identity) (o reason : Nat) (s : State) : State :=
  logEvt .win 0 (put 0 src.node.toNat ||| put 16 src.die.toNat ||| put 19 src.cluster.toNat ||| put 23 (portNum p) |||
    put 26 reason ||| put 32 (o / 4096 % 2 ^ 28)) { s with win := { s.win with refused := s.win.refused + 1 } }

/-- What an offset leads to inside an admitting window (R264). -/
inductive WinTarget where
  | mem (a : Nat)
  | obj (n : Nat)
deriving DecidableEq

def Window.target? (w : Window) (o : Nat) : WinTarget :=
  if w.sync then .obj (w.target.toNat + (o - w.lo) / 8) else .mem (w.target.toNat + (o - w.lo))

/-! ## WIN registers (R267) -/

/-- WIN_CTL as it reads. -/
def Window.ctl (w : Window) : BitVec 64 :=
  put 0 (b2n w.en) ||| put 1 (b2n w.sync) ||| put 2 (b2n w.rd) ||| put 3 (b2n w.wr) ||| put 4 (b2n w.atom) |||
    put 5 (b2n w.cntEn) ||| put 8 w.ports.toNat

/-- The cases in which a write that sets EN is refused. -/
def winBad (s : State) (k : Fin 64) (w : Window) : Bool :=
  let lg := w.sizeLog2.toNat
  lg < 12 || 40 < lg || w.lo % w.size != 0 ||
    (!w.sync && !inSram s.build w.target.toNat w.size) ||
    (w.sync && w.target.toNat + w.size / 8 > 8192) ||
    w.cntHi.toNat < w.cntLo.toNat ||
    (List.finRange 64).any fun j => j != k &&
      (let x := s.win.windows[j]; x.en && x.lo < w.lo + w.size && w.lo < x.lo + x.size && x.ports &&& w.ports != 0)

def setWin (k : Fin 64) (w : Window) (s : State) : State :=
  { s with win := { s.win with windows := s.win.windows.set k w } }

/-- A write of WIN_CTL[k] (R267): STALE on a wrong EXPECT; a write with EN = 1 is checked; one with EN = 0 leaves the window in
force to the end of the cycle (R268). -/
def winCtl (k : Fin 64) (v : BitVec 64) (s : State) : State :=
  let x := s.win.windows[k]
  let w : Window := { x with
    en := bitAt v 0, sync := bitAt v 1, rd := bitAt v 2, wr := bitAt v 3, atom := bitAt v 4, cntEn := bitAt v 5,
    ports := v.extractLsb' 8 5 }
  if bitAt v 16 ≠ x.en then countEvt .win 2 s
  else if w.en then
    if winBad s k w then countEvt .win 1 s else setWin k w s
  else if x.en then setWin k w { s with win := { s.win with closing := s.win.closing ++ [(k, x)] } }
  else setWin k w s

/-- A write of WIN_BASE, WIN_TGT or WIN_SRC (fields 0, 1, 2): their fields change only while EN is 0. -/
def winField (k : Fin 64) (f : Nat) (v : BitVec 64) (s : State) : State :=
  let x := s.win.windows[k]
  if x.en then s
  else match f with
    | 0 => setWin k { x with base := v.extractLsb' 12 28, sizeLog2 := v.extractLsb' 40 6 } s
    | 1 => setWin k { x with target := v.extractLsb' 0 32, cntLo := v.extractLsb' 32 13, cntHi := v.extractLsb' 48 13 } s
    | _ => setWin k { x with
        node := v.extractLsb' 0 16, die := v.extractLsb' 16 3, cluster := v.extractLsb' 19 4,
        nodeMask := v.extractLsb' 32 16, dieMask := v.extractLsb' 48 3, clusterMask := v.extractLsb' 51 4 } s

end Sys2Proof.Machine
end

