-- ==== Sys2Proof/Machine/Fabric.lean ====
section
/-! DEFINITION. The fabric port: outbound transfers under the slot wheel (R242, R243, R271), responses (R261, R263), link
loss (R272), and inbound requests (R262, R264, R276, R281, R283). -/

namespace Sys2Proof.Machine

/-! ## What a packet does at the pins -/

def modFab (f : Fab → Fab) (s : State) : State := { s with fab := f s.fab }
/-- The port drives a packet; the list holds those of the present cycle, oldest first (R261). -/
def drive (p : FabPacket) (s : State) : State := modFab (fun x => { x with tx := x.tx ++ [p] }) s

/-- `k` lines of data have come for thread `t`'s work, or for none's (R273, R323). -/
def fabReceived (t : Option (Fin 16)) (k : Nat) (s : State) : State :=
  (modFab (fun x => { x with received := x.received + BitVec.ofNat 32 k }) s).spend .fabLine t k

/-- The thread whose work a transfer does (R323). -/
def State.holderThread (s : State) : Holder → Option (Fin 16)
  | .strm _ _ j => (s.job? j).bind (·.thread)
  | .landing .. => none
  | .usher t .. => some t

/-- Lines that `n` bytes from `a` touch. -/
def linesOf (a n : Nat) : Nat := (lineChunks a n).length

/-! ## Landing spills (R215, R216) as the port moves their lines -/

/-- Every transfer of job `id` has sent its last line. -/
def State.allSent (s : State) (id : Nat) : Bool :=
  s.fab.xfers.all fun x => match x.holder with
    | .landing _ j => j != id || (x.tag.isSome && x.sent ≥ linesOf x.addr.toNat x.len)
    | _ => true

/-- A spill whose slot is free and whose lines have all left ends its Landing's move (R218). -/
def settleSpill (l : Fin 64) (id : Nat) (s : State) : State :=
  match (s.ring l).xfer with
  | some x => if x.spill ∧ x.job = id ∧ x.hallDone ∧ s.allSent id then modRing l (fun r => { r with xfer := none }) s else s
  | none => s

/-! ## The slot wheel (R243) -/

/-- n of R230: STEP_CYCLE while a step is open, else the free-running count. -/
def State.wheelPos (s : State) : Nat := (if s.stepOpen then s.step.cycle.toNat else s.step.freeCycles) % 16
/-- Class of the present slot: 0 idle, 1 read, 2 write, 3 remote. -/
def State.wheelClass (s : State) : Nat := fld s.fab.wheel (2 * s.wheelPos) 2

def Xfer.isRead (x : Xfer) : Bool := match x.kind with | .read _ => true | _ => false
/-- Wheel slots a transfer spends: its lines, or one for an atomic request. -/
def Xfer.slots (x : Xfer) : Nat := match x.kind with | .atom _ => 1 | _ => linesOf x.addr.toNat x.len

/-- Outstanding transfers (R242). -/
def State.fabOut (s : State) : Nat := (s.fab.xfers.filter fun x => x.tag.isSome).length
def State.strmOut (s : State) (n : Fin 4) : Nat :=
  (s.fab.xfers.filter fun x => x.tag.isSome && (match x.holder with | .strm m _ _ => m == n | _ => false)).length
def State.landOut (s : State) : Nat :=
  (s.fab.xfers.filter fun x => x.tag.isSome && (match x.holder with | .landing _ _ => true | _ => false)).length
def State.atomOut (s : State) : Nat :=
  (s.fab.xfers.filter fun x => x.tag.isSome && (match x.holder with | .usher .. => true | _ => false)).length

/-- Age order: request cycle, then STRM0 to STRM3, Landings, Usher. -/
def Holder.rank : Holder → Nat
  | .strm n _ _ => n.val
  | .landing _ _ => 4
  | .usher .. => 5

/-- The bytes of the next line of a write transfer, with their first address. -/
def Xfer.nextLine (x : Xfer) : Nat × Nat := ((lineChunks x.addr.toNat x.len)[x.sent]?).getD (0, 0)

/-- The job whose buffer holds a write's bytes. -/
def Xfer.job? (x : Xfer) : Option Nat :=
  match x.holder with | .strm _ _ j => some j | .landing _ j => some j | .usher .. => none

/-- The transfer may become outstanding: its holder and the port are below their limits (R242). -/
def State.xferWithin (s : State) (x : Xfer) : Bool :=
  x.tag.isSome || x.done || (s.fabOut < Config.fabTags && match x.holder with
    | .strm n _ _ => s.strmOut n < Config.strmOut
    | .landing _ _ => s.landOut < Config.landOut
    | .usher .. => s.atomOut < Config.atomOut)

/-- The transfer waits for a slot of its class in this cycle: with its credit, its bytes at hand, and no bubble for a
stream engine (R318). -/
def State.xferReady (s : State) (x : Xfer) : Bool :=
  let credit := x.tag.isSome || x.done || (if x.isRead then s.fab.credits[0] > 0 else s.fab.credits[1] > 0)
  let bytes := match x.kind with
    | .write _ _ => (match x.job?.bind s.job? with
      | some j => let l := x.nextLine; bufHas j.buf l.1 l.2
      | none => false)
    | _ => true
  let bubble := match x.holder with | .strm .. => !s.isBubble | _ => true
  x.sent < x.slots && credit && bytes && bubble

/-- The oldest transfer that waits for a slot of the class. -/
def State.wheelHead (s : State) (read : Bool) : Option (Nat × Xfer) :=
  let cand := (s.fab.xfers.mapIdx fun i x => (i, x)).filter fun p => p.2.isRead == read && s.xferReady p.2
  cand.foldl (fun (best : Option (Nat × Xfer)) p => match best with
    | none => some p
    | some b => if p.2.at_ < b.2.at_ ∨ (p.2.at_ = b.2.at_ ∧ p.2.holder.rank < b.2.holder.rank) then some p else some b) none

/-- The transfer that uses the slot: the oldest; where it is at a limit, the slot goes unused (R242). -/
def State.wheelPick (s : State) (read : Bool) : Option (Nat × Xfer) :=
  (s.wheelHead read).filter fun p => s.xferWithin p.2

/-- The limiter holds the line that the slot would send (R271): a write line or a response is one outbound line; only a
write line pays a token. -/
def State.fabLimited (s : State) : Bool :=
  s.fab.rate != 0 && s.fab.tokens < 64 && s.wheelClass == 2 &&
    (match s.wheelPick false with | some (_, x) => (match x.kind with | .write _ _ => true | _ => false) | none => false)

def payToken (s : State) : State :=
  if s.fab.rate = 0 then s else modFab (fun x => { x with tokens := x.tokens - 64 }) s

/-- The lowest free port tag. -/
def State.freeTag (s : State) : Fin 512 :=
  ((List.finRange 512).find? fun t => !(s.fab.xfers.any fun x => x.tag == some t)).getD 0

def modXfer (i : Nat) (f : Xfer → Xfer) (s : State) : State := modFab (fun x => { x with xfers := x.xfers.modify i f }) s

/-- HIGH fields after a transfer has become outstanding. -/
def noteOut (h : Holder) (s : State) : State :=
  let s := modFab (fun x => { x with outHigh := BitVec.ofNat 10 (max x.outHigh.toNat s.fabOut) }) s
  match h with
  | .strm n _ _ => modStrm n (fun x => { x with outHigh := BitVec.ofNat 8 (max x.outHigh.toNat (s.strmOut n)) }) s
  | _ => s

/-- Features `SCOPED_ATOM` (17) and `DCNT_PKT` (18) are in force on the port when it runs version 3 and both words set them
(R269); this cluster's word does. -/
def State.fabFeature (s : State) (i : Nat) : Bool := s.fab.version ≠ 2 && bitAt s.fab.capPeer i

/-- The transfer asks for a feature that is not in force. -/
def State.fabLacks (s : State) (x : Xfer) : Bool :=
  match x.kind with
  | .atom a => !a.home && !s.fabFeature 17
  | .write _ (some adv) => adv.packets && !s.fabFeature 18
  | _ => false

/-- Transfer `i`, whose data has come, spends one more of its read slots (R243). -/
def spendDone (i : Nat) (x : Xfer) (s : State) : State :=
  if x.sent + 1 < x.slots then modXfer i (fun y => { y with sent := y.sent + 1 }) s
  else modFab (fun f => { f with xfers := f.xfers.eraseIdx i }) s

/-- Transfer `i` spends the slot: its request with its first slot, a line of a write, an atomic's request. -/
def spendSlot (i : Nat) (x : Xfer) (s : State) : State :=
  if x.done then spendDone i x s else
  let tag := x.tag.getD s.freeTag
  let s := if x.tag.isNone then
      noteOut x.holder (modFab (fun f => { f with
        credits := if x.isRead then f.credits.set 0 (f.credits[0] - 1) else f.credits.set 1 (f.credits[1] - 1) })
        (modXfer i (fun y => { y with tag := some tag }) s))
    else s
  let s := modXfer i (fun y => { y with sent := y.sent + 1 }) s
  match x.kind with
  | .read _ => if x.sent = 0 then drive (.rdReq tag.val x.addr x.len) s else s
  | .atom a => drive (.atomReq tag.val x.addr a.op a.b a.c a.scope a.home) s
  | .write _ adv =>
    let s := (payToken (modFab (fun f => { f with sent := f.sent + 1 }) s)).spend .fabLine (s.holderThread x.holder) 1
    let s := if x.sent + 1 = x.slots then
        match x.job?.bind s.job? with
        | some j => drive (.wr tag.val x.addr (bufBytes j.buf x.addr.toNat x.len) adv) s
        | none => s
      else s
    match x.holder with
    | .landing l id => settleSpill l id s
    | _ => s

/-- A line of the oldest served read that still has lines to send. -/
def sendRemote (s : State) : State :=
  match s.fab.remote with
  | [] => s
  | r :: rest =>
    if s.fab.credits[2] = 0 ∧ r.sent = 0 then s
    else
      let s := modFab (fun f => { f with
        slotUsed := true, sent := f.sent + 1,
        credits := if r.sent = 0 then f.credits.set 2 (f.credits[2] - 1) else f.credits,
        remote := if 128 * (r.sent + 1) ≥ r.data.length then rest else { r with sent := r.sent + 1 } :: rest }) (s.spend .fabLine none 1)
      drive (.rdRsp r.tag r.sent ((r.data.drop (128 * r.sent)).take 128)) s

def execFabCreditReturn (k : FabCredit) (s : State) : Host.Outcome State Fault Refusal :=
  let i : Fin 3 := match k with | .request => 0 | .write => 1 | .response => 2
  .next (modFab (fun f => { f with credits := f.credits.set i (f.credits[i] + 1) }) s)

/-! ## Responses -/

def State.xferOf (s : State) (tag : Fin 512) : Option Xfer := s.fab.xfers.find? (fun x => x.tag == some tag)
def modTagged (tag : Fin 512) (f : Xfer → Xfer) (s : State) : State :=
  modFab (fun x => { x with xfers := x.xfers.map fun y => if y.tag == some tag then f y else y }) s
def dropXfer (tag : Fin 512) (s : State) : State :=
  modFab (fun f => { f with xfers := f.xfers.filter fun x => x.tag != some tag }) s

/-- The bytes of `data`, lines from line `first` of a transfer of `len` bytes at `addr` on: transfer offset and bytes. -/
def lineBytes (addr len first : Nat) (data : List (BitVec 1024)) : List (Nat × List (BitVec 8)) :=
  (data.mapIdx fun i line =>
    match (lineChunks addr len)[first + i]? with
    | some (a, n) => some (a - addr, ((leBytes line.toNat 128).drop (a % 128)).take n)
    | none => none).filterMap id

/-- The whole lines that carry the bytes `bs` from address `a`; their other bytes are not stated (assumption 11). -/
def lineImage (a : Nat) (bs : List (BitVec 8)) (s : State) : List (BitVec 8) × State :=
  let lo := a % 128
  let hi := (128 - (lo + bs.length) % 128) % 128
  let free (i : Nat) : BitVec 8 := (Config.freeBits (s.freeIx + i)).extractLsb' 0 8
  ((List.range lo).map free ++ bs ++ (List.range hi).map fun i => free (lo + i), { s with freeIx := s.freeIx + lo + hi })

/-- Read data of a transfer: lines of a stream tile or of a refill (R218, R229). -/
def fabReadData (tag : Fin 512) (data : List (BitVec 1024)) (s : State) : State :=
  match s.xferOf tag with
  | none => s
  | some x =>
    match x.kind with
    | .read dst =>
      let bs := lineBytes x.addr.toNat x.len x.got data
      let s := fabReceived (s.holderThread x.holder) data.length s
      let got := x.got + data.length
      let s := if got ≥ linesOf x.addr.toNat x.len then
          (if x.sent ≥ x.slots then dropXfer tag s
          else modTagged tag (fun y => { y with tag := none, got := got, done := true }) s)
        else modTagged tag (fun y => { y with got := got }) s
      (match x.holder with
      | .strm _ _ id => settleTile id (bs.foldl (fun s b => tileBytes id 0 (dst + b.1) b.2 s) s)
      | .landing _ id =>
        let e := match s.job? id with | some j => j.entries.head? | none => none
        bs.foldl (fun s b => addWrite id 0 .landing e (dst + b.1) b.2 s) s
      | .usher .. => s)
    | _ => s

def execFabRdRsp (tag : Fin 512) (data : List (BitVec 1024)) (s : State) : Host.Outcome State Fault Refusal :=
  .next (if s.alive then fabReadData tag data s else s)

/-- A write has been acknowledged (R235, R216). -/
def fabAcked (tag : Fin 512) (s : State) : State :=
  match s.xferOf tag with
  | none => s
  | some x =>
    match x.kind, x.holder with
    | .write _ _, .strm n _ id => settleTile id (countMoved n x.len (dropXfer tag s))
    | .write _ _, .landing l _ => reapLanding l (dropXfer tag s)
    | _, _ => s

def execFabWrAck (tag : Fin 512) (s : State) : Host.Outcome State Fault Refusal :=
  .next (if s.alive then fabAcked tag s else s)

/-- The response of an atomic (R285). -/
def fabAtomAnswer (tag : Fin 512) (v : BitVec 64) (s : State) : State :=
  match s.xferOf tag with
  | none => s
  | some x =>
    match x.holder with
    | .usher t id rd _ => atomResult t id rd v s.now (dropXfer tag s)
    | _ => s

def execFabAtomRsp (tag : Fin 512) (v : BitVec 64) (s : State) : Host.Outcome State Fault Refusal :=
  .next (if s.alive then fabAtomAnswer tag v s else s)

/-! ## Error responses and link loss (R239, R263, R272, R289) -/

/-- The row of a tile that a fabric or Gallery address belongs to. -/
def rowOfAddr (j : Job) (d : Desc) (a : Nat) : Nat :=
  ((List.range (dRows d)).find? fun r => match rowPlan d j.buf r with
    | .move src dst => (dSrcKind d != 0 && src ≤ a && a < src + dRb d) || (dDstKind d != 0 && dst ≤ a && a < dst + dRb d)
    | _ => false).getD 0

/-- A fabric or Gallery transfer of a stream tile ended in error (`k` 3 or 4). -/
def tileXferError (k id addr : Nat) (s : State) : State :=
  match s.job? id with
  | some j =>
    (match j.kind with
    | .tile n c d da =>
      if j.voided then settleTile id s
      else streamFault n c k (rowOfAddr j d addr) (some id) (da, d) j.seq none s
    | _ => s)
  | none => s

/-- ATOM_ERR (R289): a precise fault at the atomic of a thread that waits; for a posted atomic an engine fault, or in
inspection mode a stop of its thread; after an abort, nothing. -/
def atomError (t : Fin 16) (id : Nat) (posted : Bool) (s : State) : State :=
  if posted then
    if s.ush.task = .aborted then s
    else
      let s := logEvt .ush 1 (defaultLog 0x1B t.val s.ush.pushSeq.toNat) s
      if s.clu.live then modThread t (fun th => { th with st := .faulted, fault := 0x0A }) s
      else abortFor .ush 0x1B (s.seqOf .ush 1) s
  else if (s.thread t).st = .waitData (.atom id) then preciseFault t 0x0A s
  else s

/-- An outstanding transfer ends in error. Read data of it that no bank has taken yet is not written (R239). -/
def xferError (x : Xfer) (s : State) : State :=
  match x.holder with
  | .strm _ _ id =>
    let s := match x.kind with
      | .read dst => dropReqs id (fun r => !(r.wr.isSome && dst ≤ r.addr && r.addr < dst + x.len)) s
      | _ => s
    tileXferError 3 id x.addr.toNat s
  | .landing l id =>
    let s := reapLanding l (modJob id (fun j => { j with voided := true }) s)
    engineFault .land 4 0x16 l.val 0 s
  | .usher t id _ posted => atomError t id posted s

/-- An error code less one (R263, FAB_ERRCNT). -/
def errIx : ErrCode → Fin 5
  | .window => 0 | .uncorr => 1 | .transport => 2 | .unsupported => 3 | .off => 4

/-- An error response arrives: counted, flagged, and given to its requester. -/
def fabErrAnswer (tag : Fin 512) (code : ErrCode) (s : State) : State :=
  let k := errIx code
  let s := countEvt .fab 3 (modFab (fun f => { f with err := f.err.set k (satInc f.err[k]) }) s)
  match s.xferOf tag with
  | none => s
  | some x => xferError x (dropXfer tag s)

def execFabErrRsp (tag : Fin 512) (code : ErrCode) (s : State) : Host.Outcome State Fault Refusal :=
  .next (if s.alive then fabErrAnswer tag code s else s)

/-! ## The slot of this cycle (R243, R269) -/

/-- The path answers UNSUPPORTED to transfer `i`, which asks for a feature that is not in force: it ends in its slot as by an
error response (R263, R269, R288). -/
def fabUnsupported (i : Nat) (x : Xfer) (s : State) : State :=
  let k := errIx .unsupported
  xferError x (countEvt .fab 3 (modFab (fun f => { f with
    err := f.err.set k (satInc f.err[k]), xfers := f.xfers.eraseIdx i }) s))

/-- FAB_TRANSFER_ISSUE: the wheel slot of this cycle. -/
def fabIssue (s : State) : State :=
  if !s.clocked || s.fab.link ≠ .up || s.fab.slotUsed then s
  else match s.wheelClass with
    | 0 => s
    | 3 => sendRemote s
    | k =>
      if s.fabLimited then s
      else match s.wheelPick (k == 1) with
        | some (i, x) =>
          let s := modFab (fun f => { f with slotUsed := true }) s
          if s.fabLacks x then fabUnsupported i x s else spendSlot i x s
        | none => s

def execFabTransferIssue (s : State) : Host.Outcome State Fault Refusal := .next (fabIssue s)

/-- The fabric port goes DOWN (R272): LINK_DOWN is job-fatal, and every outstanding transfer ends with FAB_ERR. -/
def fabDown (s : State) : State :=
  if s.fab.link ≠ .up ∨ !s.alive then s
  else
    let out := s.fab.xfers.filter fun x => x.tag.isSome
    let s := jobEvent .fab 0 0x23 0 (modFab (fun f => { f with link := .down, xfers := f.xfers.filter fun x => x.tag.isNone && !x.done }) s)
    out.foldl (fun s x => xferError x s) s

def execFabLinkLoss (s : State) : Host.Outcome State Fault Refusal := .next (fabDown s)

/-! ## Inbound requests (R262, R276, R283) -/

/-- Inbound requests the port holds. -/
def State.inboundHeld (s : State) : Nat :=
  (s.jobs.filter fun j => match j.kind with
    | .inRead .fab .. => true
    | .inWrite .. => true
    | .inAtom .. => true
    | .syncOp _ (.inSet ..) => true
    | .syncOp _ (.inAtom ..) => true
    | _ => false).length + s.fab.remote.length

/-- The offset of a global fabric address. -/
def fabOffset (a : BitVec 64) : Nat := fld a 0 40

def fabAdmit (s : State) (src : Identity) (a : BitVec 64) (n : Nat) (need : Need) (adv : Option Advance) : Except Nat (Fin 64) :=
  if bitAt a 40 then .error 1 else admission s .fab src (fabOffset a) n need adv

def fabRefuse (src : Identity) (tag : Nat) (a : BitVec 64) (reason : Nat) (s : State) : State :=
  drive (.errRsp tag .window) (refuse .fab src (fabOffset a) reason s)

/-- FAB_RXCR for requests and writes: with 64 inbound requests held the port withholds its credits, and no request can come
(R262, R354). -/
def State.fabRxCredit (s : State) : Bool := s.inboundHeld < Config.inboundOut

/-- The port can take a request: the link is up, and it has given a credit for it. -/
def State.fabAccepts (s : State) : Bool := s.alive && s.fab.link = .up && s.fabRxCredit

/-- An inbound read: lines of a MEM window, or 8 bytes of a sync object. -/
def fabRead (src : Identity) (tag : Nat) (a : BitVec 64) (n : Nat) (s : State) : State :=
  if !s.fabAccepts then s
  else match fabAdmit s src a n .rd none with
    | .error r => fabRefuse src tag a r s
    | .ok w =>
      match (s.window w).target? (fabOffset a) with
      | .mem x =>
        let j := addJob (.inRead .fab src tag x n w) [] 0 none none s
        addRead j.1 0 .inbound none x n j.2
      | .obj k =>
        if n = 8 ∧ a.toNat % 8 = 0 then
          let l := lineImage a.toNat (leBytes (syncGet s k).toNat 8) s
          modFab (fun f => { f with remote := f.remote ++ [⟨tag, l.1, 0⟩] }) l.2
        else drive (.errRsp tag .unsupported) s

def execFabRdReq (src : Identity) (tag : Nat) (a : BitVec 64) (n : Nat) (s : State) : Host.Outcome State Fault Refusal :=
  .next (if n = 0 then s else fabRead src tag a n s)

/-- The advance of an inbound write or Gallery tile of `n` bytes (R237). -/
def advance (adv : Option Advance) (n : Nat) (s : State) : State :=
  match adv with
  | none => s
  | some a => syncAdvance a.counter.toNat (if a.packets then 1 else n) s

/-- An inbound write: lines of a MEM window, or a set of a sync object by 8 bytes. -/
def fabWrite (src : Identity) (tag : Nat) (a : BitVec 64) (bs : List (BitVec 8)) (adv : Option Advance) (s : State) : State :=
  if !s.fabAccepts then s
  else
    let s := fabReceived none (linesOf a.toNat bs.length) s
    let packets := match adv with | some x => x.packets | none => false
    if packets && !s.fabFeature 18 then drive (.errRsp tag .unsupported) s
    else match fabAdmit s src a bs.length .wr adv with
      | .error r => fabRefuse src tag a r s
      | .ok w =>
        match (s.window w).target? (fabOffset a) with
        | .mem x =>
          let j := addJob (.inWrite src tag adv w) [] bs.length none none s
          addWrite j.1 0 .inbound none x bs j.2
        | .obj k =>
          if bs.length = 8 ∧ a.toNat % 8 = 0 then
            let v := BitVec.ofNat 32 (leNat (bs.take 4))
            if s.syncTaken k then (deferSync k (.inSet src tag v adv w) s).2
            else drive (.wrAck tag) (advance adv 8 (syncOther k v s))
          else drive (.errRsp tag .unsupported) s

def execFabWr (src : Identity) (tag : Nat) (a : BitVec 64) (bs : List (BitVec 8)) (adv : Option Advance) (s : State) :
    Host.Outcome State Fault Refusal :=
  .next (if bs.isEmpty then s else fabWrite src tag a bs adv s)

/-- An inbound atomic: a word of a MEM window, a sync object, or a put (R281, R283). A scoped atomic needs its feature in
force, and a home atomic works on a word (R269, R288). -/
def fabAtom (src : Identity) (tag : Nat) (a : BitVec 64) (op : AtomOp) (b c : BitVec 64) (home : Bool) (s : State) : State :=
  if !s.fabAccepts then s
  else if !home && !s.fabFeature 17 then drive (.errRsp tag .unsupported) s
  else match fabAdmit s src a 8 .atom none with
    | .error r => fabRefuse src tag a r s
    | .ok w =>
      match (s.window w).target? (fabOffset a) with
      | .mem x =>
        if op = .qput ∨ x % 8 ≠ 0 then drive (.errRsp tag .unsupported) s
        else
          let j := addJob (.inAtom src tag ⟨0, 0, a, op, b, c, .fb, home⟩ w) [] 0 none none s
          addRead j.1 0 .inbound none x 8 j.2
      | .obj k =>
        if home ∨ (op ≠ .qput ∧ (atomCount op 0 0 0).isNone) then drive (.errRsp tag .unsupported) s
        else if (if op = .qput then s.rangeFull else s.syncTaken k) then (deferSync k (.inAtom src tag op b c w) s).2
        else if op = .qput then let r := qput .inbound k b s; drive (.atomRsp tag r.1) r.2
        else match atomSync k op b c s with
          | some (v, s) => drive (.atomRsp tag v) s
          | none => drive (.errRsp tag .unsupported) s

def execFabAtomReq (src : Identity) (tag : Nat) (a : BitVec 64) (f : AtomForm) (b c : BitVec 64) (s : State) :
    Host.Outcome State Fault Refusal := .next (fabAtom src tag a f.op b c f.home s)

/-! ## FAB registers (R244, R270) -/

def State.anyLinkUp (s : State) : Bool := s.fab.link = .up || s.gal.toList.any fun g => g.link = .up

/-- A write of FAB_ID: ignored while a link is UP. -/
def fabId (v : BitVec 64) (s : State) : State :=
  if s.anyLinkUp then countEvt .fab 2 s
  else modFab (fun f => { f with node := v.extractLsb' 0 16, die := v.extractLsb' 16 3, cluster := v.extractLsb' 19 4 }) s

/-- A write of FAB_WHEEL: ignored while a task runs. -/
def fabWheel (v : BitVec 64) (s : State) : State :=
  if s.ush.task = .running then countEvt .fab 2 s else modFab (fun f => { f with wheel := v.extractLsb' 0 32 }) s

/-! ## Landing moves (R214 to R218) -/

def Ring.outCount (r : Ring) : Nat := r.region.length
def Ring.region? (r : Ring) (e : BitVec 32) : Option Bool := (r.region.find? (fun p => p.1 == e)).map (·.2)
/-- The position of an entry in the region (R214). -/
def Ring.position (r : Ring) (e : BitVec 32) : Nat := e.toNat % 2 ^ r.ovfLog2.toNat
def Ring.entryAddr (r : Ring) (e : BitVec 32) : Nat := r.ovfBase.toNat * 4096 + r.position e * r.slotBytes
def Ring.slotAddr (r : Ring) (k : Nat) : Nat := r.lo + k * r.slotBytes

/-- The region has room for entry `x` (R217). -/
def Ring.room (r : Ring) (x : BitVec 32) : Bool :=
  r.ovfEn && r.outCount < 2 ^ r.ovfLog2.toNat && r.region.all fun p => r.position p.1 != r.position x

/-- No new move starts after a task abort or a stop mark (R218). -/
def State.mayMove (s : State) : Bool := s.ush.task ≠ .aborted && !s.stopHeld && s.clocked

/-- A gated access waits at slot `k` of ring `l`. -/
def State.waitsAt (s : State) (l : Fin 64) (k : Nat) (wr : Bool) : Bool :=
  s.headGates.any fun g => g.1 == l && g.2.1 == k && g.2.2 == wr

/-- The slot whose spill is due (R215, R216): the slot of entry WSEQ for a waiting write, or of an entry of the region for a
waiting read. An entry that was refilled, or that a read waits for or holds, is not spilled. -/
def State.spillDue (s : State) (l : Fin 64) : Option Nat :=
  let r := s.ring l
  let ok (k : Nat) : Bool := match r.slots[k]? with
    | some x => x.tag == .full && x.taken == x.done && !x.refilled && r.room x.entry &&
        !(x.entry == r.rseq && s.waitsAt l k false)
    | none => false
  if !r.en || !r.kind then none
  else
    let kw := r.slotFor r.wseq
    let kr := r.slotFor r.rseq
    if s.waitsAt l kw true && ok kw then some kw
    else if s.waitsAt l kr false && (r.region? r.rseq).isSome && ok kr &&
        (match r.slots[kr]? with | some x => x.entry != r.rseq | none => false) then some kr
    else none

/-- The entries whose refill is due, into EMPTY slots, once their spill is acknowledged: the one a read waits for, then those
that AHEAD covers, in entry order (R216). -/
def State.refillsDue (s : State) (l : Fin 64) : List (BitVec 32) :=
  let r := s.ring l
  if !r.en || !r.kind then []
  else
    let cand := (if s.readWants l then [r.rseq] else []) ++
      (List.range r.ahead.toNat).map fun i => r.rseq + BitVec.ofNat 32 (i + 1)
    cand.filter fun e => r.region? e == some true &&
      (match r.slots[r.slotFor e]? with | some x => x.tag == .empty | none => false)

/-- The moves that are due, in the order in which they arose: those noted in earlier cycles, then those of this one (R218). -/
def State.movesDue (s : State) (l : Fin 64) : List LandMove :=
  let now := (s.spillDue l).toList.map .spill ++ (s.refillsDue l).map .refill
  let kept := (s.ring l).due.filter now.contains
  kept ++ now.filter fun m => !kept.contains m

/-- At the end of a cycle the Landing notes which moves are due. -/
def noteMoves (l : Fin 64) (s : State) : State :=
  if (s.ring l).due == s.movesDue l then s else modRing l (fun r => { r with due := s.movesDue l }) s

/-- The move the Landing starts next, where none is in progress, with an entry of the range table for its Hall side (R15,
R218). -/
def State.nextMove (s : State) (l : Fin 64) : Option LandMove :=
  if (s.ring l).xfer.isSome || !s.mayMove || s.rangeFull then none else (s.movesDue l).head?

/-- A spill starts: the slot is SPILLING, its lines are read, its write transfers wait for the port. -/
def spillStart (l : Fin 64) (s : State) : State :=
  match s.nextMove l with
  | some (.spill k) =>
    let r := s.ring l
    let e := match r.slots[k]? with | some x => x.entry | none => 0
    let t := takeEntry (r.slotAddr k) (r.slotAddr k + r.slotBytes - 1) false .landing none s
    let j := addJob (.spill l) [t.1] 0 none none t.2
    let s := modJob j.1 (fun x => { x with top := e.toNat }) j.2
    let s := addRead j.1 0 .landing (some t.1) (r.slotAddr k) r.slotBytes s
    let s := (pieces s.xferBlock (r.entryAddr e) r.slotBytes).foldl (fun s p =>
      addXfer ⟨.landing l j.1, .write 0 none, BitVec.ofNat 64 p.1, p.2, 0, none, 0, s.now, false⟩ s) s
    modRing l (fun r => { r with xfer := some ⟨true, e, k, j.1, false⟩ }) (setSlot l k (fun x => { x with tag := .spilling }) s)
  | _ => s

/-- Spill bytes are kept under the fabric addresses they go to. -/
def spillRead (l : Fin 64) (id : Nat) (data : List Host.Cell) (s : State) : State :=
  match (s.ring l).xfer with
  | some x =>
    let base := (s.ring l).entryAddr x.entry
    let lo := (s.ring l).slotAddr x.slot
    modJob id (fun j => { j with buf := j.buf ++ data.map fun c => (base + (c.1 - lo), c.2) }) s
  | none => s

/-- The last read of the spill is usable: the slot is EMPTY and the entry lies in the region (R215). -/
def spillReadDone (l : Fin 64) (s : State) : State :=
  match (s.ring l).xfer with
  | some x =>
    (match s.job? x.job with
    | some j =>
      if x.spill && !x.hallDone && j.left == 0 && !j.voided then
        let s := modJob j.id (fun j => { j with entries := [] }) (releaseAll j.entries true s)
        let s := setSlot l x.slot (fun _ => emptySlot) s
        let s := modRing l (fun r => { r with region := r.region ++ [(x.entry, false)], xfer := some { x with hallDone := true } }) s
        let s := countEvt .land 3 { s with land := { s.land with spills := s.land.spills + 1 } }
        settleSpill l x.job s
      else s
    | none => s)
  | none => s

/-- The write of a spilled entry has been acknowledged (R216). -/
def spillAck (l : Fin 64) (s : State) : State :=
  let done (j : Job) : Bool := (match j.kind with | .spill k => k == l | _ => false) && !j.voided && j.left == 0 &&
    s.outOf j.id == 0 && (s.ring l).region.any fun p => p.1.toNat == j.top && !p.2
  match s.jobs.find? done with
  | none => s
  | some j =>
    let s := modRing l (fun r => { r with
      region := r.region.map fun p => if p.1.toNat = j.top then (p.1, true) else p,
      xfer := match r.xfer with | some x => if x.job = j.id then none else some x | none => none }) s
    dropJob j.id s

/-- A refill starts: the slot is REFILLING, its read transfers wait for the port. -/
def refillStart (l : Fin 64) (s : State) : State :=
  match s.nextMove l with
  | some (.refill e) =>
    let r := s.ring l
    let k := r.slotFor e
    let t := takeEntry (r.slotAddr k) (r.slotAddr k + r.slotBytes - 1) true .landing none s
    let j := addJob (.refill l) [t.1] 0 none none t.2
    let base := r.entryAddr e
    let s := (pieces s.xferBlock base r.slotBytes).foldl (fun s p =>
      addXfer ⟨.landing l j.1, .read (r.slotAddr k + (p.1 - base)), BitVec.ofNat 64 p.1, p.2, 0, none, 0, s.now, false⟩ s) j.2
    modRing l (fun r => { r with xfer := some ⟨false, e, k, j.1, false⟩ })
      (setSlot l k (fun x => { x with tag := .refilling, entry := e }) s)
  | _ => s

/-- The last write of the refill has completed: the slot is FULL and OUT falls by 1 (R216). -/
def refillDone (l : Fin 64) (s : State) : State :=
  match (s.ring l).xfer with
  | some x =>
    (match s.job? x.job with
    | some j =>
      if !x.spill && j.left == 0 && s.outOf j.id == 0 && !j.voided then
        let s := setSlot l x.slot (fun _ => ⟨.full, x.entry, 0, 0, true⟩) s
        let s := modRing l (fun r => { r with region := r.region.filter fun p => p.1 != x.entry, xfer := none }) s
        dropJob j.id (releaseAll j.entries true { s with land := { s.land with refills := s.land.refills + 1 } })
      else s
    | none => s)
  | none => s

def execLandingSpillStart (l : Fin 64) (s : State) : Host.Outcome State Fault Refusal := .next (spillStart l s)
def execLandingSpillReadDone (l : Fin 64) (s : State) : Host.Outcome State Fault Refusal := .next (spillReadDone l s)
def execLandingSpillAck (l : Fin 64) (s : State) : Host.Outcome State Fault Refusal := .next (spillAck l s)
def execLandingRefillStart (l : Fin 64) (s : State) : Host.Outcome State Fault Refusal := .next (refillStart l s)
def execLandingRefillDone (l : Fin 64) (s : State) : Host.Outcome State Fault Refusal := .next (refillDone l s)

end Sys2Proof.Machine
end

