-- ==== Sys2Proof/Machine/Gallery.lean ====
section
/-! DEFINITION. Galleries: arrival, admission and relay of write tiles (R246 to R255), reads (R250), responses, replay
(R248), pass-through (R256), training, negotiation and recalibration (R258 to R260, R269, R349, R350). -/

namespace Sys2Proof.Machine

def galPort (g : Fin 4) : LinkPort := .gal g

/-- A flit waits for VC 2 of Gallery `g`. -/
def sendVc2 (g : Fin 4) (f : OutFlit) (s : State) : State := modGal g (fun x => { x with vc2 := x.vc2 ++ [f] }) s

/-- A place of the receive buffer of virtual channel `vc` is free: its credit goes back to the neighbour (R246, R354). -/
def oweCredit (g : Fin 4) (vc : Fin 3) (s : State) : State := modGal g (fun x => { x with owed := x.owed.set vc (x.owed[vc] + 1) }) s

/-- The answer to a read request that Gallery `g` has served, which leaves the VC 1 buffer. -/
def galAnswer (g : Fin 4) (fs : List OutFlit) (s : State) : State := fs.foldl (fun s f => sendVc2 g f s) (oweCredit g 1 s)

/-- The flits of a response with these bytes to read request `of_`: two lines each (R246). -/
def readRsps (of_ : Nat) (bs : List (BitVec 8)) : List OutFlit :=
  (List.range ((bs.length + 255) / 256)).map fun i => .readRsp 0 of_ i ((bs.drop (256 * i)).take 256)

/-- The peer identity negotiated on a Gallery (R265, R269). -/
def peerOf (x : Gal) : Identity := ⟨x.capPeer.extractLsb' 32 16, x.capPeer.extractLsb' 48 3, x.capPeer.extractLsb' 51 4⟩

/-! ## Relay entries (R252, R254) -/

def relEn (v : BitVec 64) : Bool := bitAt v 0
def relRing (v : BitVec 64) : Fin 64 := Fin.ofNat 64 (fld v 8 6)
def relOut (v : BitVec 64) (g : Fin 4) : Bool := bitAt v (16 + g.val)
def relSig (v : BitVec 64) : Option (BitVec 13) := if bitAt v 20 then some (v.extractLsb' 32 13) else none

/-- The enabled relay entry of Gallery `g` that names ring `l`. -/
def State.relayOf (s : State) (g : Fin 4) (l : Fin 64) : Option (Fin 16) :=
  (List.finRange 16).find? fun e => let v := s.gal[g].relay[e]; relEn v && relRing v == l

/-- The local address a Gallery write of `n` bytes at `o` is admitted to, or the reason it is not (R249, R264, R265). -/
def galAdmit (s : State) (g : Fin 4) (o n : Nat) (adv : Option Advance) : Except Nat (Fin 64 × Nat) :=
  match admission s (galPort g) (peerOf s.gal[g]) o n .wr adv with
  | .error r => .error r
  | .ok w =>
    match (s.window w).target? o with
    | .mem a => .ok (w, a)
    | .obj _ => .error 2

/-- The slot of an enabled buffer ring in Hall that holds the `n` bytes of a flit. -/
def flitSlot (s : State) (a n : Nat) : Option (Fin 64 × Nat) :=
  match gateOf s a n with
  | .slot l k => if !(s.ring l).kind && inHall a n then some (l, k) else none
  | _ => none

/-- The first flit of a tile of relay entry `e` has arrived on Gallery `g` and waits. -/
def State.relayArrived (s : State) (g : Fin 4) (e : Fin 16) : Bool :=
  s.gal[g].rx.any fun f => f.first && match galAdmit s g f.addr.toNat (flitSize f) f.dcnt with
    | .ok (_, a) => (match flitSlot s a (flitSize f) with | some (l, _) => s.relayOf g l == some e | none => false)
    | .error _ => false

/-- Relay entry `e` of Gallery `g` has a tile in progress: from its first flit's arrival until its last has been sent on every
OUT Gallery (R254). -/
def State.relayBusy (s : State) (g : Fin 4) (e : Fin 16) : Bool :=
  s.gal[g].openTile?.any (fun t => t.relay == some e) || s.relayArrived g e

/-- Fields of GAL_RELAY that are not reserved. -/
def relayMask : BitVec 64 := 0x00001FFF001F3F01

/-- The cases in which a write that sets EN is refused (R254). -/
def relayBad (s : State) (g : Fin 4) (e : Fin 16) (v : BitVec 64) : Bool :=
  let r := s.ring (relRing v)
  !(r.en && !r.kind && r.hi ≤ Config.hallSize) ||
    (List.finRange 16).any (fun k => k != e && relEn s.gal[g].relay[k] && relRing s.gal[g].relay[k] == relRing v) ||
    relOut v g || s.gal[g].delta[e].toNat % 128 != 0

/-- A write of GAL_RELAY[e] or GAL_RELAY_DELTA[e]. -/
def galRelay (g : Fin 4) (e : Fin 16) (delta : Bool) (v : BitVec 64) (s : State) : State :=
  let live := s.gal[g].relay[e]
  if delta then
    if relEn live then s else modGal g (fun x => { x with delta := x.delta.set e (v &&& 0xFFFFFFFF) }) s
  else
    let v := v &&& relayMask
    if relEn live then
      if relEn v then s
      else if s.relayBusy g e then countEvt (Page.gal g) 5 s
      else modGal g (fun x => { x with relay := x.relay.set e (live &&& ~~~1) }) s
    else if relEn v && relayBad s g e v then countEvt (Page.gal g) 5 s
    else modGal g (fun x => { x with relay := x.relay.set e v }) s

/-! ## What a Gallery drives (R246 to R248, R271) -/

/-- The tokens the next flit of two lines still needs, in 1/64 tokens. -/
def Gal.due (x : Gal) : Nat := if x.half then 64 else 128
def Gal.hasTokens (x : Gal) : Bool := x.rate == 0 || x.tokens ≥ x.due
def Gal.pay (x : Gal) : Gal := if x.rate = 0 then x else { x with tokens := x.tokens - x.due, half := false }

/-- A bucket that never holds two tokens: the first line of a flit that waits takes its token ahead of the second (R271,
assumption 45). -/
def Gal.payAhead (x : Gal) : Gal :=
  if x.rate ≠ 0 ∧ x.burst.toNat ≤ 1 ∧ !x.half ∧ x.tokens ≥ 64 then { x with tokens := x.tokens - 64, half := true } else x

def OutFlit.vc : OutFlit → Fin 3
  | .write _ => 0
  | .readReq .. => 1
  | _ => 2

/-- Gives a flit its sequence number. -/
def OutFlit.withSeq (q : Nat) : OutFlit → OutFlit
  | .write f => .write { f with hdr := { f.hdr with seq := q } }
  | .readReq _ a n => .readReq q a n
  | .readRsp _ r i d => .readRsp q r i d
  | .ack _ r => .ack q r
  | .err _ r c => .err q r c
  | x => x

/-- A flit of a virtual channel, which GAL_BEATS counts (R273). -/
def OutFlit.counted : OutFlit → Bool
  | .write _ => true | .readReq .. => true | .readRsp .. => true | .ack .. => true | .err .. => true
  | _ => false

/-- Gallery `x` drives `f` in this cycle; a write flit, also one sent again, spends the tokens of its two lines. -/
def Gal.drive (f : OutFlit) (x : Gal) : Gal :=
  let x := match f with | .write _ => x.pay | _ => x
  { x with pins := [f], busy := true, periodUsed := true, sent := if f.counted then x.sent + 1 else x.sent }

/-- Gallery `x` sends a new flit: its sequence number, its credit, the replay buffer of 64. -/
def Gal.send (f : OutFlit) (x : Gal) : Gal :=
  let f := f.withSeq x.txSeq
  Gal.drive f { x with
    credits := x.credits.set f.vc (x.credits[f.vc] - 1), replay := (x.replay ++ [(x.txSeq, f)]).drop ((x.replay.length + 1) - 64),
    txSeq := x.txSeq + 1 }

/-- Gallery `g` has driven nothing in this cycle, nor a cross-die Gallery in this plan-clock period (R246, R247). -/
def State.galIdle (s : State) (g : Fin 4) : Bool := !s.gal[g].busy && !(s.build.crossDie[g] && s.gal[g].periodUsed)

/-- Gallery `g` may send a new flit of virtual channel `vc` now. -/
def State.galFree (s : State) (g : Fin 4) (vc : Fin 3) : Bool :=
  s.gal[g].link = .up && s.galIdle g && s.gal[g].first.isEmpty && s.gal[g].credits[vc] > 0

/-- A flit of VC 2 is sendable: it goes first (R246). -/
def State.vc2Ready (s : State) (g : Fin 4) : Bool := s.galFree g 2 && !s.gal[g].vc2.isEmpty

/-- The order of stream flits: oldest descriptor first, then STRM0 to STRM3 (R246). -/
def TxFlit.before (x y : TxFlit) : Bool :=
  x.at_ < y.at_ || (x.at_ == y.at_ && (x.n < y.n || (x.n == y.n && x.job < y.job)))

/-- The stream flit of virtual channel `vc` that is next. -/
def Gal.nextTx (x : Gal) (vc : Fin 3) : Option TxFlit :=
  (x.tx.filter fun f => f.flit.vc == vc).foldl
    (fun (b : Option TxFlit) f => match b with | none => some f | some y => if f.before y then some f else some y) none

/-- The stream flit that Gallery `g` sends when nothing else is sendable. -/
def State.streamPick (s : State) (g : Fin 4) : Option TxFlit :=
  let x := s.gal[g]
  let w := (x.nextTx 0).filter fun _ => s.galFree g 0 && x.hasTokens
  let r := (x.nextTx 1).filter fun _ => s.galFree g 1
  match w, r with
  | some a, some b => if b.before a then some b else some a
  | some a, none => some a
  | none, r => r

/-- Feature `i` of the capability words is in force on Gallery `g`: the peer's word sets it, as this cluster's does (R269). -/
def State.galFeature (s : State) (g : Fin 4) (i : Nat) : Bool := bitAt s.gal[g].capPeer i

/-- A write flit asks for a counter advance in packets, which is not in force on Gallery `g`. -/
def State.flitLacks (s : State) (g : Fin 4) (f : WriteFlit) : Bool :=
  f.dcnt.any Advance.packets && !s.galFeature g 18

/-- The thread whose work sent flit `q` of Gallery `g`: that of the stream which awaits its answer (R323). -/
def State.flitThread (s : State) (g : Fin 4) (q : Nat) : Option (Fin 16) :=
  let j := match s.gal[g].acks.find? (fun (a : SentFlit) => a.seq == q) with
    | some a => some a.job
    | none => (s.gal[g].reads.find? (fun (r : GalRead) => r.seq == q)).map GalRead.job
  (j.bind s.job?).bind (·.thread)

/-- The sequence number of a flit of a virtual channel. -/
def OutFlit.seq? : OutFlit → Option Nat
  | .write f => some f.hdr.seq
  | .readReq q .. => some q | .readRsp q .. => some q | .ack q _ => some q | .err q .. => some q
  | _ => none

/-- Sends stream flit `f` of Gallery `g`, and notes what it waits for. -/
def sendStream (g : Fin 4) (f : TxFlit) (s : State) : State :=
  State.spend .flit ((s.job? f.job).bind (·.thread)) 1 <| modGal g (fun x =>
    let q := x.txSeq
    let x := Gal.send f.flit { x with tx := x.tx.erase f }
    match f.flit with
    | .write w => { x with acks := x.acks ++ [⟨q, f.job, w.addr.toNat, flitSize w⟩] }
    | .readReq _ a n => { x with reads := x.reads ++ [⟨q, f.job, a.toNat, f.dst, n, 0⟩] }
    | _ => x) s

/-- What Gallery `g` sends at the end of a cycle in which it has sent nothing: a replay or another item of its `first` list,
VC 2, then a stream flit. A flit that asks for a feature not in force ends its tile as an UNSUPPORTED answer would (R269). -/
def galSend (g : Fin 4) (s : State) : State :=
  let x := s.gal[g]
  if !s.clocked || !s.galIdle g then s
  else match x.first with
    | f :: r => if f.vc = 0 ∧ !x.hasTokens then s
      else (modGal g (fun x => Gal.drive f { x with first := r }) s).spend .flit (f.seq?.bind (s.flitThread g)) 1
    | [] =>
      match x.vc2, s.galFree g 2 with
      | f :: r, true => (modGal g (fun x => Gal.send f { x with vc2 := r }) s).spend .flit none 1
      | _, _ =>
        match s.streamPick g with
        | some f =>
          if s.isBubble then s
          else match f.flit with
            | .write w => if s.flitLacks g w then
                tileXferError 4 f.job w.addr.toNat (modGal g (fun x => { x with tx := x.tx.erase f }) s) else sendStream g f s
            | _ => sendStream g f s
        | none => s

/-! ## Write tiles that arrive (R249, R252) -/

/-- A tile whose job was voided ends when what it has issued has completed: its slot returns to EMPTY (R211). -/
def reapGal (id : Nat) (s : State) : State :=
  match s.job? id with
  | some j => if j.voided && j.left == 0 then dropJob id (releaseAll j.entries false s) else s
  | none => s

/-- The flits of job `id` whose writes have not completed. -/
def State.flitsOf (s : State) (id : Nat) : List Nat :=
  ((s.reqs.filter (·.job == id)).map (·.tag) ++ ((s.access.filter (·.req.job == id)).map (·.req.tag))).eraseDups

/-- Ends the tile with job `id` that was arriving on `g`, broken or refused: what no grant has begun is withdrawn, each of its
flits that is not acknowledged is answered, and its later flits are refused. -/
def breakTile (g : Fin 4) (id : Nat) (code : ErrCode) (s : State) : State :=
  match s.gal[g].tiles.find? (fun t => t.job == id) with
  | none => s
  | some t =>
    let s := (s.flitsOf id).foldl (fun s q => sendVc2 g (.err 0 q code) s) s
    let s := modGal g (fun x => { x with tiles := x.tiles.filter fun y => y.job != id, refusing := x.refusing || !t.lastSeen }) s
    reapGal id (modJob id (fun j => { j with voided := true }) (dropReqs id (fun _ => false) s))

/-- The head of the VC 0 buffer of Gallery `g` leaves it. -/
def dropHead (g : Fin 4) (s : State) : State := oweCredit g 0 (modGal g (fun x => { x with rx := x.rx.drop 1 }) s)

/-- A refusal of the flit at the head of Gallery `g`: an error response, and the tile's later flits are refused with it. -/
def refuseFlit (g : Fin 4) (f : WriteFlit) (code : ErrCode) (s : State) : State :=
  modGal g (fun x => { x with refusing := !f.last }) (sendVc2 g (.err 0 f.hdr.seq code) (dropHead g s))

/-- A refusal by the windows, which the destination counts and logs (R266). -/
def refuseWindow (g : Fin 4) (f : WriteFlit) (reason : Nat) (s : State) : State :=
  refuseFlit g f .window (refuse (galPort g) (peerOf s.gal[g]) f.addr.toNat reason s)

/-- A relay tile fills slot `k` of ring `l` anew: an error of an earlier tile's flit no longer empties it (R255). -/
def newFill (l : Fin 64) (k : Nat) (s : State) : State :=
  let forget (r : RelayAck) : RelayAck := if r.slot = some (l, k) then { r with slot := none } else r
  { s with gal := s.gal.map fun x => { x with relayAcks := x.relayAcks.map forget } }

/-- The first flit of a tile at the head of Gallery `g`: refused, or its tile takes the slot once it is EMPTY. -/
def openTile (g : Fin 4) (f : WriteFlit) (s : State) : State :=
  if s.flitLacks g f then refuseFlit g f .unsupported s else
  match galAdmit s g f.addr.toNat (flitSize f) f.dcnt with
  | .error r => refuseWindow g f r s
  | .ok (w, a) =>
    match flitSlot s a (flitSize f) with
    | none => refuseFlit g f .window s
    | some (l, k) =>
      if tagPermits s l k true && !s.rangeFull then
        let lo := (s.ring l).slotAddr k
        let e := takeEntry lo (lo + (s.ring l).slotBytes - 1) true .gallery (some (l, k)) (tagTake l k true (newFill l k s))
        let j := addJob (.galTile g w) [e.1] 0 none none e.2
        modGal g (fun x => { x with
          tiles := x.tiles ++ [⟨e.1, l, k, s.relayOf g l, j.1, s.window w, 0, f.dcnt, f.hdr.seq, false⟩] }) j.2
      else s

/-- Writes flit `f` of the open tile at local address `a`. -/
def writeFlit (g : Fin 4) (t : GalTile) (f : WriteFlit) (a : Nat) (s : State) : State :=
  let s := addWrite t.job f.hdr.seq .gallery (some t.entry) a ((leBytes f.data.toNat 256).take (flitSize f)) s
  let note (y : GalTile) : GalTile :=
    if y.job = t.job then { y with bytes := y.bytes + flitSize f, seq := f.hdr.seq, lastSeen := f.last } else y
  dropHead g (modGal g (fun x => { x with tiles := x.tiles.map note }) s)

/-- What a flit of the open tile `t` meets: its local address, or why it ends the tile: the window that admitted the tile does
not hold it (R265, R268), or it lies outside the tile's slot (R249). -/
inductive FlitFit where
  | at_ (a : Nat) | window | rule

def flitFits (s : State) (t : GalTile) (f : WriteFlit) : FlitFit :=
  let n := flitSize f
  if !t.win.holds f.addr.toNat n then .window
  else match t.win.target? f.addr.toNat with
    | .mem a => if flitSlot s a n = some (t.ring, t.slot) then .at_ a else .rule
    | .obj _ => .rule

/-- A FIRST flit, or one that follows no tile, at the head of Gallery `g`; a tile that has not ended before the next begins is
no whole tile, and ends as broken (R249). -/
def headTile (g : Fin 4) (f : WriteFlit) (s : State) : State :=
  match s.gal[g].openTile? with
  | none => if f.first then openTile g f s else refuseFlit g f .window s
  | some t =>
    if f.first && t.bytes != 0 then
      openTile g f (modGal g (fun x => { x with refusing := false }) (breakTile g t.job .window s))
    else s

/-- The head of the VC 0 buffer of Gallery `g` goes as far as it can: a refused tile's flits are refused with it, a first flit
opens its tile, a flit of a tile that is not relayed is written. -/
def galDrain (g : Fin 4) (s : State) : State :=
  match s.gal[g].rx with
  | [] => s
  | f :: _ =>
    if s.gal[g].refusing && !f.first then refuseFlit g f .window s
    else
      let s := headTile g f (modGal g (fun x => { x with refusing := false }) s)
      match s.gal[g].openTile?, s.gal[g].rx with
      | some t, f :: _ =>
        (match flitFits s t f with
        | .window => refuseWindow g f 1 (breakTile g t.job .window s)
        | .rule => refuseFlit g f .window (breakTile g t.job .window s)
        | .at_ a => if t.relay.isSome then s else writeFlit g t f a s)
      | _, _ => s

/-- A write tile is complete when its last line write completes: slot FULL, DCNT advanced, the relay entry signalled. -/
def closeTile (g : Fin 4) (id : Nat) (s : State) : State :=
  match s.gal[g].tiles.find? (fun t => t.job == id), s.job? id with
  | some t, some j =>
    if t.lastSeen ∧ j.left = 0 then
      let s := dropJob id (releaseAll j.entries true s)
      let s := advance t.dcnt t.bytes s
      let s := match t.relay with
        | some e => signalOpt (relSig s.gal[g].relay[e]) s
        | none => s
      modGal g (fun x => { x with tiles := x.tiles.filter fun y => y.job != id }) s
    else s
  | _, _ => s

/-- A write of job `id` tagged `seq` has completed: the flit is acknowledged with its last write (R249, R253). -/
def galWriteDone (g : Fin 4) (id seq : Nat) (s : State) : State :=
  match s.job? id with
  | none => s
  | some j =>
    if j.voided then reapGal id s
    else closeTile g id (if (s.flitsOf id).contains seq then s else sendVc2 g (.ack 0 seq) s)

/-! ## Relay (R252, R253, R255) -/

/-- The Galleries a relay entry forwards to. -/
def relayOuts (v : BitVec 64) : List (Fin 4) := (List.finRange 4).filter (relOut v)

/-- The relay flit at the head of Gallery `g`, once its local tile holds its entry: the tile, its entry, the flit and its local
address. -/
def State.relayHead (s : State) (g : Fin 4) : Option (GalTile × Fin 16 × WriteFlit × Nat) :=
  match s.gal[g].openTile?, s.gal[g].rx with
  | some t, f :: _ =>
    if f.first && t.bytes != 0 then none
    else match t.relay, flitFits s t f with
      | some e, .at_ a => some (t, e, f, a)
      | _, _ => none
  | _, _ => none

/-- Gallery `o` chooses a relay flit now, but for its limiter: it holds a VC 0 credit and no VC 2 flit is sendable (R246, R253). -/
def State.relayTakes (s : State) (o : Fin 4) : Bool := s.galFree o 0 && !s.vc2Ready o

/-- The local slot of a relay tile that has already closed returns to EMPTY (R255). -/
def emptyRelaySlot (r : RelayAck) (s : State) : State :=
  match r.slot with
  | some (l, k) => setSlot l k (fun x => if x.tag = .full then emptySlot else x) s
  | none => s

/-- A forwarded flit ended in error: RELAY_ERR, the error goes upstream, the local tile ends and its slot is EMPTY (R255). -/
def relayFail (out : Fin 4) (r : RelayAck) (code : ErrCode) (s : State) : State :=
  let s := jobEvent (Page.gal out) 2 0x24 0 s
  let s := if (s.flitsOf r.job).contains r.of_ then s else sendVc2 r.arr (.err 0 r.of_ code) s
  if s.gal[r.arr].tiles.any (fun t => t.job == r.job) then breakTile r.arr r.job code s else emptyRelaySlot r s

/-- RELAY_FORWARD: the relay flit at the head of Gallery `g` is written locally and sent on every OUT Gallery in the same
cycle, or waits as a whole (R253). An OUT Gallery on which RELAY is not in force answers UNSUPPORTED (R269). -/
def relayForward (g : Fin 4) (s : State) : State :=
  match s.relayHead g with
  | some (t, e, f, a) =>
    let v := s.gal[g].relay[e]
    match (relayOuts v).find? fun o => s.gal[o].link = .up && !s.galFeature o 16 with
    | some o =>
      modGal g (fun x => { x with refusing := !f.last })
        (relayFail o ⟨0, g, f.hdr.seq, t.job, some (t.ring, t.slot)⟩ .unsupported (dropHead g s))
    | none =>
    if !s.clocked || !((relayOuts v).all fun o => s.relayTakes o && s.gal[o].hasTokens) then s
    else
      let addr := f.addr + s.gal[g].delta[e].extractLsb' 0 32
      let s := (relayOuts v).foldl (fun s o => State.spend .flit none 1 <| modGal o (fun x =>
        let q := x.txSeq
        let x := Gal.send (.write { f with addr := addr, dcnt := none }) x
        { x with relayAcks := x.relayAcks ++ [⟨q, g, f.hdr.seq, t.job, some (t.ring, t.slot)⟩] }) s) s
      writeFlit g t f a s
  | none => s

def execRelayForward (g : Fin 4) (s : State) : Host.Outcome State Fault Refusal := .next (relayForward g s)

/-- A relay flit waits for Gallery `o` and nothing but limiters hold it. -/
def State.relayWants (s : State) (o : Fin 4) : Bool :=
  (List.finRange 4).any fun g => match s.relayHead g with
    | some (_, e, _, _) => let outs := relayOuts s.gal[g].relay[e]; outs.contains o && outs.all s.relayTakes
    | none => false

/-- The limiter holds a line of Gallery `g` (GAL_RETRY.LIMITED): of a replayed flit, a relay flit or a stream flit (R271). -/
def State.galLimited (s : State) (g : Fin 4) : Bool :=
  let x := s.gal[g]
  !x.hasTokens && s.galIdle g && match x.first with
    | f :: _ => f.vc == 0
    | [] => s.relayTakes g && (s.relayWants g || ((x.nextTx 0).isSome && !s.isBubble))

/-! ## Link failure (R255, R272) -/

/-- The relay tiles in progress on other Galleries that are forwarded to Gallery `g`. -/
def State.relaysTo (s : State) (g : Fin 4) : List RelayAck :=
  (List.finRange 4).filterMap fun a => match s.gal[a].openTile? with
    | some t => (match t.relay with
      | some e => if relOut s.gal[a].relay[e] g then some ⟨0, a, t.seq, t.job, some (t.ring, t.slot)⟩ else none
      | none => none)
    | none => none

/-- Gallery `g` goes DOWN: LINK_DOWN is job-fatal; its stream transfers end with GAL_ERR, its relay tiles as R255 gives,
and a slot that a broken tile was writing returns to EMPTY. -/
def galDown (g : Fin 4) (s : State) : State :=
  let x := s.gal[g]
  if !s.alive ∨ (x.link ≠ .up ∧ x.link ≠ .training) then s
  else
    let sent := x.acks.map (fun a => (a.job, a.addr)) ++ x.reads.map (fun r => (r.job, r.src)) ++ x.tx.map fun f => (f.job, 0)
    let s := x.tiles.foldl (fun s t => breakTile g t.job .transport s) s
    let s := modGal g (fun x => { x with
      link := .down, rx := [], vc2 := [], tx := [], first := [], replay := [], acks := [], reads := [], relayAcks := [],
      failRun := 0, modulesLive := 0, recalMod := 0, version := 0, refusing := false }) s
    let s := jobEvent (Page.gal g) 0 0x23 0 s
    let s := (x.relayAcks ++ s.relaysTo g).foldl (fun s r => relayFail g r .transport s) s
    sent.foldl (fun s p => tileXferError 4 p.1 p.2 s) s

def execGalPeerLost (g : Fin 4) (s : State) : Host.Outcome State Fault Refusal := .next (galDown g s)

/-! ## Arrivals (R246, R248) -/

/-- Asks the peer to send again from the flit that is to arrive next. -/
def askReplay (g : Fin 4) (s : State) : State := modGal g (fun x => { x with first := .replayReq x.rxSeq :: x.first }) s

/-- The flit that was to arrive next fails its CRC: a replay is asked for; the eighth time in a row the Gallery goes DOWN
(R248). -/
def crcFail (g : Fin 4) (s : State) : State :=
  let s := askReplay g (modGal g (fun x => { x with failRun := x.failRun + 1 }) s)
  if s.gal[g].failRun ≥ 8 then galDown g s else s

/-- A flit with header `h` arrives: `k` follows where it is the flit that was to arrive next and its CRC holds. A flit out of its
turn is dropped; the replay brings it again (R248). Its energy goes to the thread whose flit `of_` it answers (R323). -/
def galTake (g : Fin 4) (h : FlitHdr) (of_ : Option Nat) (k : State → State) (s : State) : State :=
  if s.gal[g].link ≠ .up ∨ !s.alive ∨ h.seq ≠ s.gal[g].rxSeq then s
  else if !h.crcOk then crcFail g s
  else k <| State.spend .flit (of_.bind (s.flitThread g)) 1 (modGal g (fun x => { x with received := x.received + 1, failRun := 0, rxSeq := x.rxSeq + 1 }) s)

/-- A VC 0 write flit arrives, if its buffer has room: its sender holds a credit only then. -/
def galArrive (g : Fin 4) (f : WriteFlit) (s : State) : State :=
  if s.gal[g].rx.length ≥ 16 then s
  else galTake g f.hdr none (fun s => galDrain g (modGal g (fun x => { x with rx := x.rx ++ [f] }) s)) s

def execGalWriteFlit (g : Fin 4) (f : WriteFlit) (s : State) : Host.Outcome State Fault Refusal := .next (galArrive g f s)

/-- Read requests of Gallery `g` that are being served: they fill its VC 1 buffer. -/
def State.galReads (s : State) (g : Fin 4) : Nat :=
  (s.jobs.filter fun j => match j.kind with | .inRead (.gal k) .. => k == g | _ => false).length

/-- A read request is admitted by a window with RD and served as an inbound access (R250). It reads Hall (R13); elsewhere it is
refused (assumption 46). -/
def serveRead (g : Fin 4) (of_ : Nat) (a : BitVec 32) (n : Nat) (s : State) : State :=
  let p := peerOf s.gal[g]
  match admission s (galPort g) p a.toNat n .rd none with
  | .error r => galAnswer g [.err 0 of_ .window] (refuse (galPort g) p a.toNat r s)
  | .ok w =>
    match (s.window w).target? a.toNat with
    | .mem x =>
      if inHall x n then
        let j := addJob (.inRead (galPort g) p of_ x n w) [] 0 none none s
        addRead j.1 0 .inbound none x n j.2
      else galAnswer g [.err 0 of_ .window] s
    | .obj _ => galAnswer g [.err 0 of_ .window] s

def execGalReadRequest (g : Fin 4) (crcOk : Bool) (seq : Nat) (a : BitVec 32) (n : Nat) (s : State) :
    Host.Outcome State Fault Refusal :=
  .next (if n = 0 ∨ s.galReads g ≥ 16 then s else galTake g ⟨crcOk, seq⟩ none (serveRead g seq a n) s)

/-- The lines of a response flit, two at most, go to the stream tile that asked for them (R246, R250). -/
def readAnswer (g : Fin 4) (of_ : Nat) (data : List (BitVec 1024)) (s : State) : State :=
  let s := oweCredit g 2 s
  match s.gal[g].reads.find? (fun r => r.seq == of_) with
  | none => s
  | some r =>
    let data := data.take 2
    let all := r.got + data.length ≥ linesOf r.src r.len
    let note (y : GalRead) : GalRead := if y.seq = of_ then { y with got := y.got + data.length } else y
    let s := modGal g (fun x => { x with reads := if all then x.reads.filter (fun y => y.seq != of_) else x.reads.map note }) s
    settleTile r.job ((lineBytes r.src r.len r.got data).foldl (fun s b => tileBytes r.job 0 (r.dst + b.1) b.2 s) s)

def execGalReadResponse (g : Fin 4) (h : FlitHdr) (of_ : Nat) (data : List (BitVec 1024)) (s : State) :
    Host.Outcome State Fault Refusal :=
  .next (if data.isEmpty then s else galTake g h (some of_) (readAnswer g of_ data) s)

/-- An acknowledgement of write flit `of_` (R235, R253). -/
def galAcked (g : Fin 4) (of_ : Nat) (s : State) : State :=
  let s := oweCredit g 2 s
  match s.gal[g].acks.find? (fun a => a.seq == of_) with
  | some a =>
    let s := modGal g (fun x => { x with acks := x.acks.filter fun y => y.seq != of_ }) s
    (match s.job? a.job with
    | some j => (match j.kind with
      | .tile n _ _ _ => settleTile a.job (countMoved n a.bytes s)
      | _ => s)
    | none => s)
  | none => modGal g (fun x => { x with relayAcks := x.relayAcks.filter fun r => r.seq != of_ }) s

def execGalAck (g : Fin 4) (h : AnswerHdr) (s : State) : Host.Outcome State Fault Refusal :=
  .next (galTake g h.hdr (some h.of_) (galAcked g h.of_) s)

/-- An error response: it ends the stream's tile, or goes upstream for a relay tile (R239, R255). -/
def galErrAnswer (g : Fin 4) (of_ : Nat) (code : ErrCode) (s : State) : State :=
  let s := oweCredit g 2 s
  match s.gal[g].acks.find? (fun a => a.seq == of_) with
  | some a => tileXferError 4 a.job a.addr (modGal g (fun x => { x with acks := x.acks.filter fun y => y.seq != of_ }) s)
  | none =>
    match s.gal[g].relayAcks.find? (fun r => r.seq == of_) with
    | some r => relayFail g r code (modGal g (fun x => { x with relayAcks := x.relayAcks.filter fun y => y.seq != of_ }) s)
    | none =>
      match s.gal[g].reads.find? (fun r => r.seq == of_) with
      | some r => tileXferError 4 r.job r.src (modGal g (fun x => { x with reads := x.reads.filter fun y => y.seq != of_ }) s)
      | none => s

def execGalErrorResponse (g : Fin 4) (h : AnswerHdr) (code : ErrCode) (s : State) : Host.Outcome State Fault Refusal :=
  .next (galTake g h.hdr (some h.of_) (galErrAnswer g h.of_ code) s)

def execGalCreditReturn (g : Fin 4) (vc : Fin 3) (s : State) : Host.Outcome State Fault Refusal :=
  .next (modGal g (fun x => { x with credits := x.credits.set vc (x.credits[vc] + 1) }) s)

/-- The peer asks for a replay: the flit and every later one wait to be sent again, one in a cycle (R246, R248). -/
def galReplay (g : Fin 4) (seq : Nat) (s : State) : State :=
  modGal g (fun x => { x with
    retries := x.retries + 1,
    first := (x.first.filter fun f => !f.counted) ++ (x.replay.filter fun r => seq ≤ r.1).map (·.2) }) s

def execGalReplayRequest (g : Fin 4) (h : FlitHdr) (s : State) : Host.Outcome State Fault Refusal :=
  .next (if s.gal[g].link ≠ .up ∨ !s.alive then s else if h.crcOk then galReplay g h.seq s else askReplay g s)

/-- A pass-through joins north to south and east to west; it adds 1 to PASSED of a capability word (R256). -/
def passForward (g : Fin 4) (x : PassItem) (s : State) : State :=
  if s.clu.phase ≠ .pass then s
  else
    let o : Fin 4 := g + 2
    let y : PassItem := match x with
      | .flit f => .flit f
      | .capWord w => .capWord ((w &&& ~~~(put 20 15)) ||| put 20 ((fld w 20 4 + 1) % 16))
    if s.gal[o].busy then modGal o (fun x => { x with first := x.first ++ [.pass y] }) s
    else (modGal o (Gal.drive (.pass y)) s).spend .flit none 1

def execPassThroughForward (g : Fin 4) (x : PassItem) (s : State) : Host.Outcome State Fault Refusal := .next (passForward g x s)

/-! ## Training and negotiation (R258 to R260, R269, R349, R350) -/

/-- The capability word this cluster sends on a port (R269). -/
def capLocal (s : State) (p : LinkPort) : BitVec 64 :=
  put 0 3 ||| put 8 (match p with | .fab => 2 | .gal _ => 3) ||| put 16 7 |||
    put 19 (match p with | .fab => 0 | .gal g => b2n s.build.crossDie[g]) ||| put 24 32 |||
    put 32 s.fab.node.toNat ||| put 48 s.fab.die.toNat ||| put 51 s.fab.cluster.toNat

def State.linkOf (s : State) : LinkPort → Link
  | .fab => s.fab.link
  | .gal g => s.gal[g].link
def linkPage : LinkPort → Page
  | .fab => .fab
  | .gal g => Page.gal g
def setLink (p : LinkPort) (l : Link) (s : State) : State :=
  match p with
  | .fab => modFab (fun x => { x with link := l }) s
  | .gal g => modGal g (fun x => { x with link := l }) s
def State.versionOf (s : State) : LinkPort → BitVec 8
  | .fab => s.fab.version
  | .gal g => s.gal[g].version

/-- The version of two capability words: the smaller VER_MAX, if it is at least both VER_MIN. -/
def commonVersion (a b : BitVec 64) : Option Nat :=
  let v := min (fld a 0 8) (fld b 0 8)
  if fld a 8 8 ≤ v ∧ fld b 8 8 ≤ v then some v else none

/-- The link enters FAILED (R269). -/
def linkFailed (p : LinkPort) (s : State) : State := countEvt (linkPage p) 1 (setLink p .failed s)

/-- The peer's capability word: kept, and a version is negotiated while the link trains. -/
def capArrive (p : LinkPort) (w : BitVec 64) (s : State) : State :=
  if !s.alive ∨ (s.linkOf p ≠ .training ∧ s.linkOf p ≠ .up) then s
  else
    let v := commonVersion (capLocal s p) w
    let n := BitVec.ofNat 8 (v.getD 0)
    let s := match p with
      | .fab => modFab (fun x => { x with capPeer := w, version := n }) s
      | .gal g => modGal g (fun x => { x with capPeer := w, version := n, passed := w.extractLsb' 20 4 }) s
    if v.isNone then linkFailed p s else s

def execGalCapWord (p : LinkPort) (w : BitVec 64) (s : State) : Host.Outcome State Fault Refusal := .next (capArrive p w s)

/-- RECAL_PERIOD in mark-time cycles; 0 is treated as 1 (R259). -/
def Gal.period (x : Gal) : Nat := max 1 x.recalPeriod.toNat * 65536

/-- A module is retired: recalibration is suspended (R260). -/
def retire (g : Fin 4) (k : Fin 4) (s : State) : State :=
  countEvt (Page.gal g) 4 (countEvt (Page.gal g) 3
    (modGal g (fun x => { x with retired := x.retired ||| BitVec.ofNat 4 (2 ^ k.val), modulesLive := 3, recalMod := 0 }) s))

/-- A link in TRAINING settles (R349). Which of four modules stays out when three come up is not stated. -/
def trained (p : LinkPort) (r : TrainResult) (s : State) : State :=
  if !s.alive ∨ s.linkOf p ≠ .training then s
  else match r with
    | .up m rep =>
      if s.versionOf p = 0 then s
      else match p with
        | .fab => setLink p .up s
        | .gal g =>
          let s := modGal g (fun x => { x with link := .up, owed := Vector.replicate 3 16 }) s
          if !s.build.crossDie[g] then s
          else if m.val < 3 then galDown g s
          else
            let s := modGal g (fun x => { x with
              modulesLive := BitVec.ofNat 4 m.val, repaired := rep, recals := x.recals + BitVec.ofNat 16 m.val,
              recalAt := x.period }) s
            if m.val = 3 then retire g (Fin.ofNat 4 (Config.freeBits s.freeIx).toNat) { s with freeIx := s.freeIx + 1 } else s
    | .absent => (match p with | .fab => s | .gal _ => setLink p .absent s)
    | .down => (match p with | .fab => s | .gal g => galDown g s)
    | .failed => linkFailed p s

def execLinkTrained (p : LinkPort) (r : TrainResult) (s : State) : Host.Outcome State Fault Refusal := .next (trained p r s)

/-- The recalibration period of Gallery `g` is over: the next module leaves service in one switch (R259). -/
def recalStart (g : Fin 4) (s : State) : State :=
  let x := s.gal[g]
  if s.alive && x.recalEn && x.link = .up && x.modulesLive == 4 && x.recalMod == 0 && x.recalAt == 0 then
    modGal g (fun x => { x with
      recalMod := BitVec.ofNat 3 (x.nextModule.val + 1), modulesLive := 3, switches := x.switches + 1, recalAt := x.period }) s
  else s

def execGalRecalPeriod (g : Fin 4) (s : State) : Host.Outcome State Fault Refusal := .next (recalStart g s)

/-- The module returns to service in a second switch, or is retired (R259, R260). -/
def recalDone (g : Fin 4) (ok : Bool) (rep : BitVec 4) (s : State) : State :=
  let x := s.gal[g]
  if !s.alive ∨ x.recalMod = 0 then s
  else
    let k : Fin 4 := Fin.ofNat 4 (x.recalMod.toNat - 1)
    if ok then
      modGal g (fun x => { x with
        recalMod := 0, modulesLive := 4, switches := x.switches + 1, recals := x.recals + 1, nextModule := k + 1,
        repaired := (x.repaired &&& ~~~(BitVec.ofNat 16 (15 <<< (4 * k.val)))) ||| BitVec.ofNat 16 (rep.toNat <<< (4 * k.val)) }) s
    else retire g k s

def execModuleRecalDone (g : Fin 4) (ok : Bool) (rep : BitVec 4) (s : State) : Host.Outcome State Fault Refusal :=
  .next (recalDone g ok rep s)

/-- A module in service fails: the first is retired, a second takes the Gallery DOWN (R260). -/
def moduleFailed (g k : Fin 4) (s : State) : State :=
  let x := s.gal[g]
  if !s.alive ∨ x.link ≠ .up ∨ !s.build.crossDie[g] ∨ bitAt x.retired k.val then s
  else if x.retired ≠ 0 ∨ (x.recalMod ≠ 0 ∧ x.recalMod.toNat ≠ k.val + 1) then galDown g s
  else retire g k s

def execUcieModuleFailure (g k : Fin 4) (s : State) : Host.Outcome State Fault Refusal := .next (moduleFailed g k s)

/-- A write of RETRAIN with its EXPECT (R272, R349): the link trains, and its capability word is sent. -/
def retrain (p : LinkPort) (expect : Nat) (s : State) : State :=
  let stale := match p with | .fab => 4 | .gal _ => 6
  if expect ≠ (s.linkOf p).code ∨ s.ush.task = .running then countEvt (linkPage p) stale s
  else
    let s := setLink p .training s
    match p with
    | .fab => drive (.cap (capLocal s p)) (modFab (fun x => { x with version := 0, capPeer := 0 }) s)
    | .gal g => modGal g (fun x => { x with
        version := 0, capPeer := 0, passed := 0, retired := 0, modulesLive := 0, recalMod := 0, failRun := 0,
        first := [.cap (capLocal s p)], replay := [], txSeq := 0, rxSeq := 0, credits := noCredits, owed := noCredits }) s

/-- A RETRAIN that is refused as STALE changes nothing of the register (R335). -/
def retrainStale (s : State) (p : LinkPort) (v : BitVec 64) : Bool :=
  bitAt v 0 && (fld v 16 3 != (s.linkOf p).code || s.ush.task == .running)

/-- A write of GAL_CTL. -/
def galCtl (g : Fin 4) (v : BitVec 64) (s : State) : State :=
  if retrainStale s (.gal g) v then retrain (.gal g) (fld v 16 3) s else
  let s := modGal g (fun x => { x with recalEn := bitAt v 1, recalPeriod := v.extractLsb' 8 8 }) s
  if bitAt v 0 then retrain (.gal g) (fld v 16 3) s else s

/-- A write of FAB_CTL. -/
def fabCtl (v : BitVec 64) (s : State) : State := if bitAt v 0 then retrain .fab (fld v 16 3) s else s

end Sys2Proof.Machine
end

