-- ==== Sys2Proof/Machine/Streams.lean ====
section
/-! DEFINITION. Stream commands, descriptor walks and tiles (chapter 10). -/

namespace Sys2Proof.Machine

/-! ## Commands (R221 to R223, R238) -/

def cCtx (c : Cmd) : Fin 4 := Fin.ofNat 4 (fld c 19 2)

/-- No STRM.CFG has taken effect in this cycle: the next command starts in the following one (R222). -/
def State.strmFree (s : State) (n : Fin 4) : Bool := s.strm[n].cfgAt != s.now + 1

/-- STRM.CFG takes effect once its context is IDLE with nothing pending (R222). -/
def strmCfgStart (n : Fin 4) (s : State) : State :=
  match s.head? (strmQ n) with
  | none => s
  | some e =>
    let c := e.raw
    let x := s.ctx n (cCtx c)
    if cOpc c = 0x07 ∧ x.st = .idle ∧ x.pend.isNone ∧ s.strmFree n then
      signalOpt (cSig c) (popQueue (strmQ n) (modStrm n (fun y => { y with cfgAt := s.now + 1 }) (modCtx n (cCtx c) (fun x => { x with
        lookahead := BitVec.ofNat 4 (fld c 21 4), link := bitAt c 25, fillEn := bitAt c 26,
        fill := c.extractLsb' 27 13, free := c.extractLsb' 40 13 }) s)))
    else s

/-- STRM.ARM never waits: its generation becomes active or pending, or is dropped (R223). Behind a generation that has
started its LAST descriptor it is pending for this cycle only. -/
def strmArmStart (n : Fin 4) (s : State) : State :=
  match s.head? (strmQ n) with
  | none => s
  | some e =>
    let c := e.raw
    if cOpc c ≠ 0x08 ∨ !s.strmFree n then s else
    let k := cCtx c
    let x := s.ctx n k
    let s := popQueue (strmQ n) s
    let list := fld c 21 32
    let g : Gen := ⟨cSig c, e.thread, list, none, none, false, 0, e.seq⟩
    if x.st = .idle then
      modCtx n k (fun x => { x with
        st := .active, gen := some { g with fetch := some (list, s.now + Config.strmArm, none) }, d := 0,
        b := syncGet s x.free.toNat }) s
    else if x.st = .active ∧ x.gen.any Gen.lastSeen then
      modCtx n k (fun x => { x with gen := some { g with fetch := some (list, s.now + 1, none) } }) s
    else if x.pend.isNone then modCtx n k (fun x => { x with pend := some g }) s
    else modStrm n (fun y => { y with rearm := y.rearm + 1 }) (countEvt (Page.strm n) 0 s)

/-- STRM.CANCEL: on an IDLE context it signals at once (R238). -/
def strmCancelStart (n : Fin 4) (s : State) : State :=
  match s.head? (strmQ n) with
  | none => s
  | some e =>
    let c := e.raw
    if cOpc c ≠ 0x09 ∨ !s.strmFree n then s else
    let k := cCtx c
    let s := popQueue (strmQ n) s
    if (s.ctx n k).st = .idle then signalOpt (cSig c) s
    else modCtx n k (fun x => { x with cancelSigs := x.cancelSigs ++ (cSig c).toList }) (cancelCtx n k s)

def execStrmCfg (n : Fin 4) (s : State) : Host.Outcome State Fault Refusal := .next (strmCfgStart n s)
def execStrmArm (n : Fin 4) (s : State) : Host.Outcome State Fault Refusal := .next (strmArmStart n s)
def execStrmCancel (n : Fin 4) (s : State) : Host.Outcome State Fault Refusal := .next (strmCancelStart n s)
def execCancelComplete (n c : Fin 4) (s : State) : Host.Outcome State Fault Refusal := .next (finishCancel n c s)

/-! ## Descriptor blocks (R224) -/

/-- The descriptors that a block's read has brought from `a` on. -/
def blockDescs (j : Job) (a : Nat) : List Desc :=
  (List.range 16).map fun i => BitVec.ofNat 512 (leNat (bufBytes j.buf (a + 64 * i) 64))

/-- The block that context `c` waits for, in the cycle its request falls due, takes its entry and asks for its lines (R201,
R224). -/
def requestBlock (n c : Fin 4) (s : State) : State :=
  let x := s.ctx n c
  match x.gen with
  | none => s
  | some g =>
    match g.fetch with
    | some (b, at_, none) =>
      if x.st = .active && at_ ≤ s.now && !s.rangeFull && !s.isBubble then
        let e := takeEntry b (b + 1023) false (.strm n) none s
        let j := addJob (.block n c b) [e.1] g.seq (some g.thread) none e.2
        let s := addRead j.1 0 (.strm n) (some e.1) b 1024 j.2
        modCtx n c (fun x => { x with gen := some { g with fetch := some (b, s.now, some j.1) } }) s
      else s
    | _ => s

/-- The block requested STRM.DESC cycles ago, whose lines have been read, is usable (R224). -/
def blockUsable (n c : Fin 4) (s : State) : State :=
  match (s.ctx n c).gen with
  | none => s
  | some g =>
    match g.fetch with
    | some (base, at_, some id) =>
      (match s.job? id with
      | some j =>
        if at_ + Config.strmDesc ≤ s.now ∧ s.clocked ∧ j.left = 0 then
          let ds := blockDescs j base
          let block := match g.block with
            | some (b, old) => if base = b + 64 * old.length then (b, old ++ ds) else (base, ds)
            | none => (base, ds)
          dropJob id (modCtx n c (fun x => { x with gen := some { g with block := some block, fetch := none } }) s)
        else s
      | none => s)
    | _ => s

/-- A line of a descriptor block cannot be read (R206, R209, R239): the block is asked for again if the context resumes. -/
def blockFault (n c : Fin 4) (id base : Nat) (tier : Page × Nat × BitVec 32) (s : State) : State :=
  match (s.ctx n c).gen with
  | none => s
  | some g =>
    if g.fetch.any fun f => f.2.2 == some id then
      let s := modCtx n c (fun x => { x with gen := some { g with fetch := some (base, s.now, none) } }) s
      streamFault n c 5 0 none (g.next, 0) g.seq (some tier) s
    else s

def execDescBlockUsable (n c : Fin 4) (s : State) : Host.Outcome State Fault Refusal := .next (blockUsable n c s)

/-! ## Starting a descriptor (R226 to R228, R230, R234) -/

/-- Some bytes of the range lie in an enabled Landing. -/
def touchesLanding (s : State) (lo n : Nat) : Bool :=
  (List.finRange 64).any fun l => let r := s.ring l; r.en && r.kind && r.lo < lo + n && lo < r.hi

/-- A fabric address in this cluster's own local space (R227 item 7). -/
def ownAddress (s : State) (a : Nat) : Bool :=
  a / 2 ^ 48 % 2 ^ 16 == s.fab.node.toNat && a / 2 ^ 45 % 8 == s.fab.die.toNat &&
    a / 2 ^ 41 % 16 == s.fab.cluster.toNat && a / 2 ^ 40 % 2 == 0

/-- The cases of R227. Items 1, 3, 4 and 7 to 9 are of every kind of descriptor, item 2 of a JUMP, the rest of tiles. -/
def descBad (s : State) (x : Ctx) (d : Desc) : Bool :=
  let k := dKind d
  let reserved := !(k ≤ 3 || k == 0xF) || dSrcKind d == 3 || dDstKind d == 3 || dw d 0 6 2 != 0 || dw d 0 45 19 != 0 ||
    dw d 1 12 4 != 0 || dw d 1 28 36 != 0 || dw d 6 0 64 != 0 || dw d 7 0 64 != 0
  let high := ((dSrcKind d == 0 || dSrcKind d == 2) && dSrc d ≥ 2 ^ 32) ||
    ((dDstKind d == 0 || dDstKind d == 2) && dDst d ≥ 2 ^ 32)
  let jump := k == 0xF && (dLast d || dSrc d % 64 != 0 || !inHall (dSrc d) 64)
  let ends := (dSrcKind d != 0 && dDstKind d != 0) || (k == 2 && dDstKind d != 0) || (k == 3 && dSrcKind d != 0)
  let align := dSrc d % 16 != 0 || dDst d % 16 != 0 || dSstride d % 16 != 0 || dDstride d % 16 != 0 || dIdxAddr d % 4 != 0
  let own := (dSrcKind d == 1 && ownAddress s (dSrc d)) || (dDstKind d == 1 && ownAddress s (dDst d))
  let counter := (dDcnt d).isSome && (dDstKind d == 0 || (dDstKind d == 1 && dDst d / 2 ^ 40 % 2 == 1))
  let tile := dTile d && (
    (dRows d > 1 && (if k == 3 then dSstride d < dRb d else dDstride d < dRb d)) ||
    (dIndexed d && dIdxLimit d == 0) ||
    (dRanges d).any (fun r => !inSram s.build r.1 r.2.1 || touchesLanding s r.1 r.2.1) || slotRange s (dRanges d) ||
    (dIndexed d && !inHall (dIdxAddr d) (4 * dRows d)))
  reserved || high || jump || ends || align || own || counter || (dFill d && !x.fillEn) || tile

/-- What the next descriptor of a context can do in this cycle. -/
inductive DescGo where
  | no | bad | start
deriving DecidableEq

def State.descGo (s : State) (n c : Fin 4) : DescGo :=
  let x := s.ctx n c
  if x.st ≠ .active then .no
  else match x.nextDesc? with
    | none => .no
    | some (_, d) =>
      let ahead := !dTile d || s.lookaheadLets x
      if !ahead then .no
      else if descBad s x d then .bad
      else if !dTile d then .start
      else if canTake s (dRanges d) && s.inUse + (dRanges d).length ≤ Config.rangeEntries then .start
      else .no

/-- The contexts of an engine from the rotation's first (R230). -/
def State.ctxOrder (s : State) : List (Fin 4) :=
  let n := if s.stepOpen then s.step.cycle.toNat else s.step.freeCycles
  (List.finRange 4).map fun i => Fin.ofNat 4 (n + i.val)

/-- The generation's walk passed its LAST descriptor: its ARM's SIG goes with its last tile, or signals now; a pending
generation becomes active (R223, R236). -/
def lastReached (n c : Fin 4) (g : Gen) (s : State) : State :=
  let x := s.ctx n c
  let s :=
    if g.count > 0 ∧ !x.tiles.isEmpty then
      modCtx n c (fun x => { x with
        tiles := x.tiles.mapIdx fun i t => if i + 1 = x.tiles.length then { t with armSig := g.sig, lastOfGen := true } else t }) s
    else signalOpt g.sig (modCtx n c (fun x => { x with gens := x.gens + 1 }) s)
  modCtx n c (fun x => match x.pend with
    | some p => { x with gen := some { p with fetch := some (p.next, s.now + 1, none) }, pend := none }
    | none => { x with gen := some { g with lastSeen := true, fetch := none } }) s

/-- The context has walked its last generation and signalled its last tile. -/
def idleCtx (n c : Fin 4) (s : State) : State :=
  modCtx n c (fun x => match x.gen with
    | some g => if x.st = .active ∧ g.lastSeen ∧ x.tiles.isEmpty ∧ x.pend.isNone then { x with st := .idle, gen := none } else x
    | none => x) s

/-- The walk moves past a descriptor that has started. -/
def passDesc (n c : Fin 4) (d : Desc) (tile : Bool) (s : State) : State :=
  match (s.ctx n c).gen with
  | none => s
  | some g =>
    let g := { g with count := g.count + (if tile then 1 else 0) }
    if dKind d = 0xF then
      modCtx n c (fun x => { x with gen := some { g with next := dSrc d, block := none, fetch := some (dSrc d, s.now, none) } })
        (dropBlock g s)
    else if dLast d then lastReached n c g (dropBlock g s)
    else
      let fetch := match g.block with
        | some (b, _) =>
          let i := (g.next - b) / 64
          if i % 16 = 8 then some (b + 64 * (i + 8), s.now, none) else g.fetch
        | none => g.fetch
      modCtx n c (fun x => { x with gen := some { g with next := g.next + 64, fetch := fetch } }) s

/-- A tile starts: its entries, its job, its first rows or its index reads (R228). -/
def startTile (n c : Fin 4) (addr : Nat) (d : Desc) (s : State) : State :=
  let g := (s.ctx n c).gen
  let r := takeAtStart (.strm n) (dRanges d) [] s
  let j := addJob (.tile n c d addr) r.1 ((g.map Gen.seq).getD 0) (g.map Gen.thread) (dSig d) r.2
  let j := (j.1, modJob j.1 (fun j => { j with due := s.now }) j.2)
  let s := modCtx n c (fun x => { x with d := x.d + 1, tiles := x.tiles ++ [⟨j.1, d, addr, false, none, false⟩] }) j.2
  let s := passDesc n c d true s
  let s := if dIndexed d then addRead j.1 1 (.strm n) (tileEntries d r.1).2.2 (dIdxAddr d) (4 * dRows d) s else s
  settleTile j.1 s

/-- Context `c` of engine `n` starts its next descriptor, if it is of a kind the row names. -/
def startDesc (kinds : Nat → Bool) (n c : Fin 4) (s : State) : State :=
  let x := s.ctx n c
  match x.nextDesc? with
  | none => s
  | some (addr, d) =>
    let ahead := s.ctxOrder.takeWhile (· ≠ c)
    if !s.mayIssue || s.strm[n].descAt = s.now + 1 || !kinds (dKind d) || ahead.any (fun k => s.descGo n k != .no) then s
    else
      let mark (s : State) : State := modStrm n (fun y => { y with descAt := s.now + 1, descCtx := c }) s
      match s.descGo n c with
      | .no => s
      | .bad => streamFault n c 1 0 none (addr, d) ((x.gen.map Gen.seq).getD 0) none (mark s)
      | .start =>
        let s := mark s
        if dTile d then startTile n c addr d s else idleCtx n c (passDesc n c d false s)

/-- The row's kind, or a reserved kind, which every row raises DESC_BAD on. -/
def kindOr (k : Nat) (x : Nat) : Bool := x == k || (4 ≤ x && x ≤ 14)

def execDescCopy (n c : Fin 4) (s : State) : Host.Outcome State Fault Refusal := .next (startDesc (kindOr 1) n c s)
def execDescGather (n c : Fin 4) (s : State) : Host.Outcome State Fault Refusal := .next (startDesc (kindOr 2) n c s)
def execDescScatter (n c : Fin 4) (s : State) : Host.Outcome State Fault Refusal := .next (startDesc (kindOr 3) n c s)
def execDescNop (n c : Fin 4) (s : State) : Host.Outcome State Fault Refusal := .next (startDesc (kindOr 0) n c s)
def execDescJump (n c : Fin 4) (s : State) : Host.Outcome State Fault Refusal := .next (startDesc (kindOr 15) n c s)

/-! ## Tile completion (R235, R236) -/

/-- Every row of the tile has arrived. -/
def State.tileArrived (s : State) (t : STile) : Bool :=
  match s.job? t.job with
  | some j => !t.complete && !j.voided && j.bad.isNone && j.next ≥ dRows t.desc && s.tileQuiet j &&
      (dDstKind t.desc != 2 || j.sent == (tileFlits t.desc j).length)
  | none => false

/-- Performs the signals of the leading complete tiles, in list order. -/
def signalTiles (n c : Fin 4) : Nat → State → State
  | 0, s => s
  | fuel + 1, s =>
    let x := s.ctx n c
    match x.tiles with
    | t :: rest =>
      if t.complete then
        let s := signalOpt (dSig t.desc) s
        let s := if dFill t.desc then signal x.fill.toNat s else s
        let s := signalOpt t.armSig s
        let s := modCtx n c (fun x => { x with tiles := rest, gens := if t.lastOfGen then x.gens + 1 else x.gens }) s
        signalTiles n c fuel s
      else s
    | [] => s

def tileComplete (n c : Fin 4) (s : State) : State :=
  let x := s.ctx n c
  match x.tiles.find? (fun t => s.tileArrived t && !x.holds t.job) with
  | none => s
  | some t =>
    if x.st = .cancelling then s else
    match s.job? t.job with
    | none => s
    | some j =>
      let s := dropJob t.job (releaseAll j.entries true s)
      let s := modCtx n c (fun x => { x with
        tiles := x.tiles.map fun y => if y.job = t.job then { y with complete := true } else y }) s
      idleCtx n c (signalTiles n c (x.tiles.length + 1) s)

def execStreamTileComplete (n c : Fin 4) (s : State) : Host.Outcome State Fault Refusal := .next (tileComplete n c s)

/-! ## STRMn_CTL (R241) -/

/-- A tile that a fault stopped starts again from its first row. -/
def restartTile (n : Fin 4) (id : Nat) (s : State) : State :=
  match s.job? id with
  | some j =>
    (match j.kind with
    | .tile _ _ d _ =>
      let s := modJob id (fun j => { j with next := 0, buf := [], bad := none, sent := 0 }) s
      let s := if dIndexed d then addRead id 1 (.strm n) (tileEntries d j.entries).2.2 (dIdxAddr d) (4 * dRows d) s else s
      settleTile id s
    | _ => s)
  | none => s

/-- RESUME of a HELD context: each descriptor that a fault stopped starts again from its first row, in the order of the faults,
and the walk goes on; a generation that became pending behind one whose walk is over becomes active (R223). -/
def resumeCtx (n c : Fin 4) (s : State) : State :=
  let x := s.ctx n c
  if x.st ≠ .held then s
  else
    let s := modCtx n c (fun x => { x with st := .active, held := [] }) s
    let s := x.held.foldl (fun s h => match h.1 with | some id => restartTile n id s | none => s) s
    idleCtx n c (modCtx n c (fun x => match x.gen, x.pend with
      | some g, some p => if g.lastSeen then { x with gen := some { p with fetch := some (p.next, s.now, none) }, pend := none } else x
      | _, _ => x) s)

/-- A write of STRMn_CTL. -/
def strmCtl (n : Fin 4) (v : BitVec 64) (s : State) : State :=
  let c : Fin 4 := Fin.ofNat 4 (fld v 0 2)
  if (s.ctx n c).st ≠ .held then s
  else if bitAt v 8 then resumeCtx n c s
  else if bitAt v 9 then cancelCtx n c s
  else s

end Sys2Proof.Machine
end

