-- ==== Sys2Proof/Machine/Access.lean ====
section
/-! DEFINITION. Line accesses of Hall and Lower Hall: grants (R201, R202), codes and replays (R203 to R205), what a usable
read or a completed write does for its requester, uncorrectable lines and OFF groups (R206, R209), scrub (R207) and
power (R208). -/

namespace Sys2Proof.Machine

/-! ## Grants (R201) -/

/-- Rank of a request: the Flight path goes before the engine's other accesses. -/
def State.reqRank (s : State) (r : LineReq) : Nat :=
  match s.job? r.job with
  | some j => (match j.kind with | .flight _ _ => 30 | _ => r.rank)
  | none => r.rank

/-- A bubble holds back engine accesses, but no Flight that runs (R318). -/
def State.bubbleHolds (s : State) (r : LineReq) : Bool :=
  s.isBubble && match r.unit with
    | .tile => true
    | .strm _ => true
    | .vec => s.reqRank r != 30
    | _ => false

/-- 64-byte pieces of a request. -/
def LineReq.lines (r : LineReq) : Nat := (r.len + 63) / 64

/-- Tile lines issued and not arrived, and lines of the landing buffer (R137). -/
def State.tileInFlight (s : State) : Nat :=
  ((s.access.filter fun a => a.req.unit == .tile && a.req.wr.isNone).map fun a => s.tileLines a.req).sum + s.tile.landbuf.length

/-- What one cycle of a unit's issue is counted over: its reads and its writes apart, and the scale port of the tile unit
(R126). -/
structure Port where
  unit : MemUnit
  wr : Bool
  scale : Bool
deriving DecidableEq, Repr

def LineReq.port (r : LineReq) : Port := ⟨r.unit, r.wr.isSome, r.unit == .tile && r.tag % 2 == 1⟩

/-- What a request takes of its port: a line of a stream, tile lines, bytes of scales, 64 bytes of the vector engine, so that a
gathered lane takes as much as a tile line. -/
def State.weight (s : State) (r : LineReq) : Nat :=
  match r.unit with
  | .strm _ => 1
  | .tile => if r.tag % 2 = 1 then r.len else s.tileLines r
  | _ => r.lines

/-- What a port issues in one cycle: 64 tile lines (R137), 256 bytes of scales (R126), 4 KiB or 64 lanes of the vector engine
(R161, the table of R153), 16 lines of a stream engine (R229). Other units are not held. -/
def Port.width (p : Port) : Option Nat :=
  match p.unit with
  | .tile => some (if p.scale then 256 else 64)
  | .vec => some 64
  | .strm _ => some 16
  | _ => none

abbrev PortUses := List (Port × Nat)

def portUsed (us : PortUses) (p : Port) : Nat := ((us.find? fun u => u.1 == p).map (·.2)).getD 0

/-- The totals `us` with request `r` added. -/
def portAdd (s : State) (us : PortUses) (r : LineReq) : PortUses :=
  if r.port.width.isNone then us else (r.port, portUsed us r.port + s.weight r) :: us.filter fun u => u.1 != r.port

/-- What the units' ports have issued in this cycle. -/
def State.portUses (s : State) : PortUses :=
  (s.access.filter fun a => a.due = s.now + accessLat s.build a.req.addr).foldl (fun us a => portAdd s us a.req) []

/-- The destination bytes of row request `r` of tile job `j`. -/
def tileDst (j : Job) (d : Desc) (r : LineReq) : Nat × Nat :=
  if r.wr.isSome then (r.addr, r.len)
  else match rowPlan d j.buf (r.tag / 2) with
    | .move src dst => (dst + (r.addr - src), r.len)
    | _ => (0, 0)

/-- A write of a SCATTER waits for those of earlier rows to the same bytes, so that a local destination ends with the row
of the higher number (R233). -/
def State.scatterWaits (s : State) (r : LineReq) : Bool :=
  match s.job? r.job with
  | some j =>
    (match j.kind with
    | .tile _ _ d _ =>
      let before (x : LineReq) : Bool := x.job == r.job && x.tag % 2 == 0 && x.tag < r.tag &&
        (let y := tileDst j d x; y.1 < r.addr + r.len && r.addr < y.1 + y.2)
      dKind d == 3 && r.wr.isSome && (s.reqs.any before ||
        s.access.any fun a => before a.req && (a.req.wr.isNone || a.ecc != .clean))
    | _ => false)
  | none => false

/-- A PAUSE holds back the rows of the tile unit that have not begun (R143). -/
def State.pauseHolds (s : State) (r : LineReq) : Bool :=
  r.unit == .tile && s.pausing && match s.job? r.job with | some j => j.top ≤ r.tag / 2 | none => false

/-- Nothing but its port holds request `r` back (R15, R61, R209, R233, R318). -/
def State.mayAsk (s : State) (r : LineReq) : Bool :=
  (match r.entry with | some e => !s.blocked e | none => true) && !s.scatterWaits r &&
    (match s.job? r.job with | some j => j.due ≤ s.now | none => true) &&
    (match s.powerAt r.addr with | .waking _ => false | _ => true) &&
    !s.bubbleHolds r && !s.pauseHolds r

/-- The port of request `r` has room for it after `used` of this cycle, `old` of it issued already; tile reads keep to the
landing buffer (R137). -/
def State.portRoom (s : State) (r : LineReq) (used old : Nat) : Bool :=
  match r.port.width with
  | none => true
  | some w =>
    used + s.weight r ≤ w &&
      !(r.unit == .tile && r.wr.isNone && !r.port.scale && s.tileInFlight + (used - old) + s.weight r > Config.landBuf)

/-- Tile banks that feeds, landing lines and earlier reads take in this cycle, when a TST is after them (R132). -/
def State.tileBusy (s : State) : List Nat :=
  if s.reqs.any fun r => r.unit == .tile && r.wr.isSome then
    s.collectorBanks ++ s.tile.landed.map (·.1) ++ s.tile.read ++
      (List.range 64).filter fun b => s.tile.landbuf.any fun x => (s.landsIn x b).isSome
  else []

/-- The requests in the order in which their units make them: Flights first, a stream engine's oldest descriptor first
(R201, R230). -/
def State.reqOrder (s : State) : List LineReq :=
  let mine (r : LineReq) : Bool := match r.unit with | .strm _ => true | _ => false
  s.reqs.filter (fun r => s.reqRank r == 30) ++ s.reqs.filter (fun r => s.reqRank r != 30 && !mine r) ++
    s.jobs.flatMap fun j => s.reqs.filter fun r => r.job == j.id && mine r

/-- A unit that stalls at an access which an older conflicting entry blocks (R64): the engines do. -/
def MemUnit.stalls : MemUnit → Bool
  | .vec => true | .tile => true | .strm _ => true | _ => false

/-- Entry `e` of a request waits for an older one. -/
def State.entryBlocked (s : State) (r : LineReq) : Bool := match r.entry with | some e => s.blocked e | none => false

/-- What a pass over the requests of a cycle has gathered: those offered, what the ports have taken, the tile banks taken,
and the units that stall. -/
structure Offer where
  reqs : List LineReq
  uses : PortUses
  banks : List Nat
  stalled : List MemUnit

/-- The next request of the pass. -/
def State.offer (s : State) (uses : PortUses) (acc : Offer) (r : LineReq) : Offer :=
  let banks := s.tstBanks r
  if acc.stalled.contains r.unit then acc
  else if r.unit.stalls && s.entryBlocked r then { acc with stalled := r.unit :: acc.stalled }
  else if s.portRoom r (portUsed acc.uses r.port) (portUsed uses r.port) && s.mayAsk r && banks.all (fun b => !acc.banks.contains b) then
    { acc with reqs := r :: acc.reqs, uses := portAdd s acc.uses r, banks := banks ++ acc.banks }
  else acc

/-- The requests that their units put to the banks in this cycle: the oldest that the ports hold, up to one at which the
unit stalls; a TST's once the tile banks grant its lines. -/
def State.offered (s : State) : List LineReq :=
  let uses := s.portUses
  (s.reqOrder.foldl (s.offer uses) ⟨[], uses, s.tileBusy, []⟩).reqs.reverse

/-- The requests put to bank or channel `b` in this cycle. -/
def State.asked (s : State) (b : Nat) : List LineReq := s.offered.filter fun r => bankIdx r.addr == b

/-- The first of two requests to be granted: the higher rank, then the older (R201). -/
def State.firstOf (s : State) (x y : LineReq) : LineReq :=
  let a := s.reqRank x
  let b := s.reqRank y
  if b < a ∨ (b = a ∧ (y.job < x.job ∨ (y.job = x.job ∧ y.id < x.id))) then y else x

/-- Whose request the bank grants. -/
def State.winner (s : State) (b : Nat) : Option LineReq :=
  match s.asked b with
  | [] => none
  | r :: rest => some (rest.foldl s.firstOf r)

/-- The re-reads and write-backs that ask for bank `b` now, in the order of their original grants (R204). -/
def State.repairs (s : State) (b : Nat) : List Access :=
  s.access.filter fun a => bankIdx a.req.addr == b && a.due ≤ s.now && (a.ecc == .flagged || a.ecc == .reread)

/-- One of them, other than scrub's, asks: rank 1. -/
def State.repairAsks (s : State) (b : Nat) : Bool := (s.repairs b).any fun a => a.req.unit != .scrub

def tierOfBank (b : Nat) : Tier := if b < 96 then .hall else .lower

/-- Bank `b` grants in this cycle; the requests it turns away count (R202). -/
def useBank (b lost : Nat) (s : State) : State :=
  modTier (tierOfBank b) (fun h => { h with lost := h.lost + BitVec.ofNat 32 lost }) { s with granted := b :: s.granted }

/-! ## Where a scrub pass stands (R207) -/

/-- Groups of Hall, or segments of Lower Hall. -/
def groups (b : Build) : Tier → Nat
  | .hall => 12
  | .lower => if b.tiers2 then 32 else 16

/-- Banks or channels of a tier, and the first of them. -/
def scrubBanks : Tier → Nat
  | .hall => 96
  | .lower => 16
def bankBase : Tier → Nat
  | .hall => 0
  | .lower => 96

/-- Positions of a whole pass in each bank: rows, and in Lower Hall rows of one segment after another. -/
def scrubLen (b : Build) : Tier → Nat
  | .hall => 2048
  | .lower => if b.tiers2 then 131072 else 65536

/-- The first position from `p` on whose group or segment is ON. -/
def State.scrubFrom (s : State) (t : Tier) (k p : Nat) : Nat :=
  match t with
  | .hall => if s.hall.live[k / 8]? = some .on then p else scrubLen s.build t
  | .lower =>
    match (List.range (groups s.build t)).find? fun g => p / 4096 ≤ g && s.lhall.live[g]? == some .on with
    | some g => max p (g * 4096)
    | none => scrubLen s.build t

/-- The position that the pass reads next in bank or channel `b`, while a pass runs and has one there. -/
def State.scrubNext (s : State) (b : Nat) : Option Nat :=
  let t := tierOfBank b
  let h := s.tier t
  let p := s.scrubFrom t (b - bankBase t) ((h.scrubPtr[b - bankBase t]?).getD (scrubLen s.build t))
  if h.scrubBusy && p < scrubLen s.build t then some p else none

/-- HALL_SCRUB.ROW: what the pass has reached in every bank. -/
def State.scrubRow (s : State) (t : Tier) : Nat :=
  ((List.range (scrubBanks t)).map fun k => (((s.tier t).scrubPtr[k]?).getD 0)).foldl min (scrubLen s.build t - 1)

/-- All requests that are put to bank `b` in this cycle: of units, of repairs, of scrub. -/
def State.askers (s : State) (b : Nat) : Nat := (s.asked b).length + (s.repairs b).length + b2n (s.scrubNext b).isSome

/-- Words set in a mask of flagged words. -/
def popWords (w : BitVec 10) : Nat := ((List.range 10).filter fun i => bitAt w i).length

/-- Where an access stands after its line was read with these words flagged (R204). -/
def eccOf (w : BitVec 10) : EccPhase :=
  let n := popWords w
  if n = 0 then .clean else if n ≤ 2 then .flagged else .uncorrectable n

/-- The request writes all 128 bytes of its line (R205). -/
def LineReq.whole (r : LineReq) : Bool := match r.wr with | some w => w.length == 128 | none => false

/-- The operation of an atomic on a word of memory. -/
def Job.atom? (j : Job) : Option AtomReq :=
  match j.kind with | .atomMem _ a _ => some a | .inAtom _ _ a _ => some a | _ => none

/-- What request `r` stores at its grant: its bytes, or the word an atomic leaves. -/
def storedBytes (s : State) (r : LineReq) : List Host.Cell :=
  match r.wr with
  | some w => w
  | none =>
    match (s.job? r.job).bind Job.atom? with
    | some a =>
      (match atomWord a.op (BitVec.ofNat 64 (memNat s r.addr 8)) a.b a.c with
      | some v => cellsAt r.addr (leBytes v.toNat 8)
      | none => [])
    | none => []

/-! ## Memory faults (R206, R209) -/

def unitCode : MemUnit → Nat
  | .mgmt => 0 | .vec => 1 | .tile => 2 | .strm n => 3 + n.val | .gallery => 7 | .landing => 8 | .usher => 9
  | .inbound => 10 | .scrub => 11

/-- PAGE_ERR_LOG of HALL and LHALL (R219), without EVT_BIT. -/
def memLog (addr : Nat) (u : MemUnit) (words : Nat) (off : Bool) : BitVec 64 :=
  put 0 (lineOf addr % 2 ^ 29) ||| put 32 (unitCode u) ||| put 36 words ||| put 40 (b2n off)

/-- The event of a line that could not be read, in its tier's page. -/
def memEvent (addr : Nat) (u : MemUnit) (words : Nat) (off : Bool) (s : State) : State :=
  logEvt (tierPage addr) (b2n off) (memLog addr u words off) s

/-- A job whose access failed ends once nothing of it is in flight. -/
def endJob (id : Nat) (s : State) : State :=
  let s := modJob id (fun j => { j with voided := true }) (dropReqs id (fun _ => false) s)
  match s.job? id with
  | some j => if j.left = 0 then dropJob id (releaseAll j.entries false s) else s
  | none => s

/-- Register waits of job `id` end without a value. -/
def clearPend (t : Fin 16) (id : Nat) (s : State) : State :=
  modThread t (fun th => { th with pend := th.pend.filter fun p => p.1 != id }) s

/-- A failed access of Usher thread `t` whose instruction stands at `pc` (R206, R209). -/
def usherMemFault (t : Fin 16) (pc : BitVec 18) (p : Page) (code : Nat) (seq : BitVec 32) (s : State) : State :=
  if code = 0x18 ∧ t ≠ fwThread ∧ !s.clu.live then
    if s.ush.task = .running then abortFor p code seq s
    else
      modThread t (fun th => { th with pc := pc, st := .faulted, fault := 0x01 })
        (logEvt .ush 1 (defaultLog 0x01 t.val s.ush.pushSeq.toNat) s)
  else preciseFaultAt t pc 0x01 s

/-- The transfers of a Landing move are withdrawn and the move ends; its slot is EMPTY. -/
def loseMove (l : Fin 64) (id : Nat) (s : State) : State :=
  let s := { s with fab := { s.fab with xfers := s.fab.xfers.filter fun x =>
    match x.holder with | .landing _ j => j != id | _ => true } }
  match (s.ring l).xfer with
  | some x => if x.job = id then modRing l (fun r => { r with xfer := none }) (setSlot l x.slot (fun _ => emptySlot) s) else s
  | none => s

/-- A request that an OFF group or an uncorrectable line ended: its requester is told (R206, R209). The job's count has
been reduced by the access. -/
def accessFault (r : LineReq) (words : Nat) (off : Bool) (s : State) : State :=
  let code := if off then 0x19 else 0x18
  let p := tierPage r.addr
  let s := memEvent r.addr r.unit words off s
  let seq := s.seqOf p (b2n off)
  let err : ErrCode := if off then .off else .uncorr
  let inbound (s : State) : State := if off then s else memAbort p code seq s
  match s.job? r.job with
  | none => if r.unit = .scrub then memAbort p code seq s else s
  | some j =>
    if j.voided && j.tileEntry?.isNone then endJob j.id s
    else match j.kind with
    | .load t _ _ _ _ pc => usherMemFault t pc p code seq (clearPend t j.id (endJob j.id s))
    | .queGet t _ _ pc => usherMemFault t pc p code seq (clearPend t j.id (endJob j.id s))
    | .store t pc => usherMemFault t pc p code seq (endJob j.id s)
    | .enqh t _ _ _ pc => usherMemFault t pc p code seq (endJob j.id s)
    | .atomMem t _ pc => usherMemFault t pc p code seq (endJob j.id s)
    | .quePut _ _ (some (t, pc)) => usherMemFault t pc p code seq (endJob j.id s)
    | .quePut _ _ none => inbound (endJob j.id s)
    | .tld _ => tileAccessFault j.id (r.tag / 2) p code seq s
    | .tst _ => tileAccessFault j.id (r.tag / 2) p code seq s
    | .vload _ => loadArrived j.id (vloadFault j.id p code seq s)
    | .vstore _ => storeDone j.id (memAbort p code seq (dropRun j.id (modJob j.id (fun x => { x with voided := true }) s)))
    | .flight _ _ =>
      if r.wr.isSome then flightWriteFault j.id p code seq s else flightAccessFault j.id r.tag r.addr r.len p code seq s
    | .tread _ => treadFault j.id p code seq s
    | .tile n c d da =>
      streamFault n c 5 (if r.tag % 2 = 1 then (r.addr - dIdxAddr d) / 4 else r.tag / 2) (some j.id) (da, d) j.seq
        (some (p, code, seq)) s
    | .spill l => memAbort p code seq (endJob j.id (loseMove l j.id s))
    | .refill l => memAbort p code seq (endJob j.id (loseMove l j.id s))
    | .inRead .fab _ tag _ _ _ => inbound (drive (.errRsp tag err) (endJob j.id s))
    | .inRead (.gal g) _ tag _ _ _ => inbound (galAnswer g [.err 0 tag err] (endJob j.id s))
    | .inWrite _ tag _ _ => inbound (drive (.errRsp tag err) (endJob j.id s))
    | .inAtom _ tag _ _ => inbound (drive (.errRsp tag err) (endJob j.id s))
    | .galTile g _ =>
      inbound (breakTile g j.id err (if (s.flitsOf j.id).contains r.tag then s else sendVc2 g (.err 0 r.tag err) s))
    | .block n c base => blockFault n c j.id base (p, code, seq) (endJob j.id s)
    | .mgmt .. => respond .uncorr (memAbort p code seq (endJob j.id s))
    | .syncOp .. => s

/-! ## The grant row -/

/-- The bookkeeping of a grant for its job: rows begun (R142), tile lines stored. -/
def noteGrant (r : LineReq) (s : State) : State :=
  let s := match r.unit with
    | .tile => modJob r.job (fun j => { j with top := max j.top (r.tag / 2 + 1) }) s
    | .strm _ => modJob r.job (fun j => { j with top := max j.top (r.tag / 2 + 1) }) s
    | .vec => if r.wr.isNone then flightRead r.job (r.tag / 2) s.now s else s
    | _ => s
  if r.unit = .tile ∧ r.wr.isSome then tstGranted r s else s

/-- The energy of a line grant for request `r`, at its own rank or at rank 1 (R201, R317). -/
def spendGrant (r : LineReq) (s : State) : State :=
  s.spend (.grant (unitCode r.unit) (r.addr ≥ Config.hallSize)) ((s.job? r.job).bind (·.thread)) 1

/-- Request `r` is granted; reading its line, the inner code corrected `inner` words and flagged `flagged` (R203 to R205). What a
write stores into a flagged line goes with the write-back. -/
def grantReq (r : LineReq) (inner : Nat) (flagged : BitVec 10) (s : State) : State :=
  let s := { s with reqs := s.reqs.filter fun x => x.id != r.id }
  match s.powerAt r.addr with
  | .retain => accessFault r 0 true (modJob r.job (fun j => { j with left := j.left - 1 }) s)
  | .off => accessFault r 0 true (modJob r.job (fun j => { j with left := j.left - 1 }) s)
  | _ =>
    let flagged := if r.whole then 0 else flagged
    let s := spendGrant r s
    let s := if r.whole then s
      else modTier (tierOf r.addr) (fun h => { h with inner := h.inner + BitVec.ofNat 32 inner }) s
    let ecc := eccOf flagged
    let data := if r.wr.isSome then [] else cellsAt r.addr (memRead s r.addr r.len)
    let mem := match ecc with | .clean => memStore (storedBytes s r) s.mem | _ => s.mem
    noteGrant r { s with
      mem := mem, access := s.access ++ [⟨r, s.now + accessLat s.build r.addr, data, ecc, flagged⟩] }

/-- The address of the line in bank or channel `b` that scrub reads at position `p`: the inverse of R199 and R200. -/
def scrubAddr (b p : Nat) : Nat :=
  if b < 96 then
    let row := p % 2048
    let x := b % 32
    let lo := x ^^^ revBits 5 (row % 32) ^^^ (row / 32 % 32) ^^^ (row / 2 ^ 10 % 2 * 16)
    (b / 32) * 2 ^ 23 + (row * 32 + lo) * 128
  else
    let row := p % 4096
    let seg := p / 4096
    Config.lhallBase + (seg * 2 ^ 16 + row * 16 + ((b - 96) ^^^ revBits 4 (row % 16))) * 128

/-- Bank `b` has no request: a running scrub pass reads its next line there (R207). -/
def scrubGrant (b inner : Nat) (flagged : BitVec 10) (s : State) : State :=
  match s.scrubNext b with
  | none => s
  | some p =>
    let t := tierOfBank b
    let f := (modTier t (fun h => { h with scrubPtr := h.scrubPtr.setIfInBounds (b - bankBase t) (p + 1) }) s).fresh
    grantReq ⟨f.1, f.1, 0, rankOf .scrub, .scrub, none, scrubAddr b p, 128, none⟩ inner flagged (useBank b (s.askers b - 1) f.2)

/-- HALL_ACCESS_GRANT: bank or channel `b` grants the request of the highest rank (R201). -/
def accessGrant (b inner : Nat) (flagged : BitVec 10) (s : State) : State :=
  if !s.clocked || s.granted.contains b || s.repairAsks b then s
  else match s.winner b with
    | some r => grantReq r inner flagged (useBank b (s.askers b - 1) s)
    | none => scrubGrant b inner flagged s

def execHallAccessGrant (b : LineBank) (inner : Nat) (flagged : BitVec 10) (s : State) : Host.Outcome State Fault Refusal :=
  .next (accessGrant (LineBank.idx b) inner flagged s)

/-! ## What a completed access does -/

/-- A register takes the value its load brought, and its thread goes on if it waited for it (R50). -/
def loadReg (t : Fin 16) (id : Nat) (rd : Fin 32) (v : BitVec 64) (s : State) : State :=
  modThread t (fun th =>
    if th.pend.any (fun p => p.1 == id) then
      let th := { th.setReg rd v with pend := th.pend.filter fun p => p.1 != id }
      if th.st = .waitData (.reg rd) then { th with st := .ready } else th
    else th) s

/-- The value a load of `width` bytes extends to 64 bits (R400). -/
def extendLoad (signed : Bool) (width : Nat) (bs : List (BitVec 8)) : BitVec 64 :=
  let v := leNat (bs.take width)
  if signed then (BitVec.ofNat (8 * width) v).signExtend 64 else BitVec.ofNat 64 v

/-- The bytes of a job's buffer from `a` on. -/
def jobBytes (j : Job) (a n : Nat) : List (BitVec 8) := bufBytes j.buf a n

/-- The 128-bit commands that an ENQ.H has read. -/
def enqhCmds (j : Job) (a n : Nat) : List Cmd :=
  (List.range n).map fun i => BitVec.ofNat 128 (leNat (jobBytes j (a + 16 * i) 16))

/-- A job whose last access has completed; its count is 0. -/
def jobDone (j : Job) (s : State) : State :=
  let fin (s : State) : State := dropJob j.id (releaseAll j.entries true s)
  match j.kind with
  | .load t rd a w sg _ => loadReg t j.id rd (extendLoad sg w (jobBytes j a w)) (fin s)
  | .queGet t rd a _ => loadReg t j.id rd (extendLoad false 8 (jobBytes j a 8)) (fin s)
  | .store _ _ => fin s
  | .enqh t q a n _ =>
    modThread t (fun th =>
      if th.st = .waitData (.enqh j.id) then { th with st := .waitData (.owed ⟨q, enqhCmds j a n⟩) } else th) (fin s)
  | .atomMem t a _ => atomResult t j.id a.rd (extendLoad false 8 (j.buf.map (·.2))) s.now (fin s)
  | .quePut q idx _ => putDone q.toNat idx (fin s)
  | .inRead p _ tag a n _ =>
    let l := lineImage a (jobBytes j a n) (fin s)
    (match p with
    | .fab => modFab (fun f => { f with remote := f.remote ++ [⟨tag, l.1, 0⟩] }) l.2
    | .gal g => galAnswer g (readRsps tag l.1) l.2)
  | .inWrite _ tag adv _ => drive (.wrAck tag) (advance adv j.seq (fin s))
  | .inAtom _ tag _ _ => drive (.atomRsp tag (extendLoad false 8 (j.buf.map (·.2)))) (fin s)
  | .vstore _ => storeDone j.id s
  | .block .. => modJob j.id (fun j => { j with entries := [] }) (releaseAll j.entries true s)
  | .mgmt a none => respondData (BitVec.ofNat 64 (leNat (jobBytes j a 8))) (fin s)
  | .mgmt _ (some _) => respond .ok (fin s)
  | _ => s

/-- What follows each access of a job beside its count: rows, lines, flits (R137, R226, R249). -/
def jobStep (a : Access) (j : Job) (s : State) : State :=
  match j.kind with
  | .tld _ => tldRead j.id a.req.tag a.req.addr a.data s
  | .tst _ => finishMove j.id s
  | .tile n _ _ _ =>
    if a.req.wr.isNone then tileRead j.id a.req.tag a.req.addr a.data s
    else settleTile j.id (countMoved n a.req.len s)
  | .spill l => spillRead l j.id a.data s
  | .galTile g _ => galWriteDone g j.id a.req.tag s
  | .vload _ => loadArrived j.id (modJob j.id (fun j => { j with buf := j.buf ++ a.data }) s)
  | .flight _ _ =>
    let s := modJob j.id (fun j => { j with buf := j.buf ++ a.data }) s
    if a.req.wr.isSome then s else flightRead j.id (a.req.tag / 2) (s.now - accessLat s.build a.req.addr) s
  | _ => modJob j.id (fun j => { j with buf := j.buf ++ a.data }) s

/-- The end of an access of a job that was voided: what is left of it goes when nothing is in flight. Rows that a TLD has
issued complete (R142), and the data of a cancelled tile's reads is written (R238). -/
def voidStep (a : Access) (j : Job) (s : State) : State :=
  match j.kind with
  | .tld _ => reapMove j.id (tldRead j.id a.req.tag a.req.addr a.data s)
  | .tst _ => reapMove j.id s
  | .tile _ _ _ _ => if a.req.wr.isNone then tileRead j.id a.req.tag a.req.addr a.data s else reapTile j.id s
  | .spill l => reapLanding l s
  | .refill l => reapLanding l s
  | .galTile .. => reapGal j.id s
  | .flight _ true => s
  | _ => if j.left = 0 then dropJob j.id (releaseAll j.entries false s) else s

/-- An access has ended: it leaves the list, and its requester has what it asked for, or learns that it failed. -/
def deliver (a : Access) (s : State) : State :=
  let s := { s with access := s.access.filter fun x => x.req.id != a.req.id }
  let s := modJob a.req.job (fun j => { j with left := j.left - 1 }) s
  match a.ecc with
  | .uncorrectable n => accessFault a.req n false s
  | _ =>
    match s.job? a.req.job with
    | none => s
    | some j =>
      if j.voided then voidStep a j s
      else
        let s := jobStep a j s
        match s.job? j.id with
        | some j => if j.left = 0 then jobDone j s else s
        | none => s

/-- The access numbered `id` may end in this cycle. -/
def State.dueAccess (s : State) (id : Nat) (wr : Bool) : Option Access :=
  match s.access.find? (fun a => a.req.id == id) with
  | some a =>
    if s.clocked && a.req.wr.isSome == wr && a.due ≤ s.now && a.ecc != .flagged && a.ecc != .reread then some a else none
  | none => none

/-- HALL_READ_DATA_USABLE: read data is usable HALL.LTU or LHALL.LTU after its grant (R37, R202). -/
def readUsable (id : Nat) (s : State) : State :=
  match s.dueAccess id false with | some a => deliver a s | none => s

/-- HALL_WRITE_COMPLETE: a write completes HALL.WR or LHALL.WR after its grant (R37, R202). -/
def writeComplete (id : Nat) (s : State) : State :=
  match s.dueAccess id true with | some a => deliver a s | none => s

def execHallReadDataUsable (id : Nat) (s : State) : Host.Outcome State Fault Refusal := .next (readUsable id s)
def execHallWriteComplete (id : Nat) (s : State) : Host.Outcome State Fault Refusal := .next (writeComplete id s)

/-! ## Corrections (R204, R207) -/

def modAccess (id : Nat) (f : Access → Access) (s : State) : State :=
  { s with access := s.access.map fun a => if a.req.id = id then f a else a }

/-- An access that waits for its re-read or write-back, and that its bank grants now: the first of the bank's rank-1 requests in
the order of the original grants; scrub's only where no other request asks (R204, R207). -/
def State.repairable (s : State) (id : Nat) (ph : EccPhase) : Option Access :=
  match s.access.find? (fun a => a.req.id == id) with
  | some a =>
    let b := bankIdx a.req.addr
    let first := (s.repairs b).find? fun x => (x.req.unit == .scrub) == (a.req.unit == .scrub)
    if s.clocked && a.ecc == ph && a.due ≤ s.now && !s.granted.contains b && first.any (fun x => x.req.id == id) &&
        !(a.req.unit == .scrub && ((s.winner b).isSome || s.repairAsks b)) then some a else none
  | none => none

/-- OUTER_CODE_REREAD: the line is read again; its flagged words are erasures, and three or more end the access. The corrected
data reaches the reader HALL.REPLAY later, in the cycle in which the write-back is requested; a scrub line's write-back
is requested in its cycle also when its re-read was late. -/
def reread (id : Nat) (flagged : BitVec 10) (s : State) : State :=
  match s.repairable id .flagged with
  | none => s
  | some a =>
    let b := bankIdx a.req.addr
    let w := a.words ||| flagged
    let n := popWords w
    let due := (if a.req.unit = .scrub then max a.due (s.now - Config.hallReplay) else s.now) + Config.hallReplay
    let data := if a.req.wr.isSome then [] else cellsAt a.req.addr (memRead s a.req.addr a.req.len)
    modAccess id (fun a => { a with
      words := w, data := data, ecc := if n ≥ 3 then .uncorrectable n else .reread, due := if n ≥ 3 then s.now else due })
      (useBank b (s.askers b - 1) (spendGrant a.req s))

/-- OUTER_CODE_WRITEBACK: the corrected line is written back, merged with what a write or an atomic stores (R205), and the
access goes on. A correction sets CORR (R219). -/
def writeback (id : Nat) (s : State) : State :=
  match s.repairable id .reread with
  | none => s
  | some a =>
    let b := bankIdx a.req.addr
    let s := useBank b (s.askers b - 1) (spendGrant a.req s)
    let s := modTier (tierOf a.req.addr) (fun h => { h with outer := h.outer + 1 }) s
    let s := { s with mem := memStore (storedBytes s a.req) s.mem }
    countEvt (tierPage a.req.addr) 3 (modAccess id (fun a => { a with ecc := .clean }) s)

def execOuterCodeReread (id : Nat) (flagged : BitVec 10) (s : State) : Host.Outcome State Fault Refusal :=
  .next (reread id flagged s)
def execOuterCodeWriteback (id : Nat) (s : State) : Host.Outcome State Fault Refusal := .next (writeback id s)

/-! ## Scrub passes (R207) -/

/-- A write of HALL_SCRUB or LHALL_SCRUB. -/
def scrubStart (t : Tier) (v : BitVec 64) (s : State) : State :=
  if bitAt v 0 && !(s.tier t).scrubBusy then
    modTier t (fun h => { h with scrubBusy := true, scrubPtr := Vector.replicate 96 0 }) s
  else s

/-- The pass has read every row of every ON group or segment, and corrected what it found. -/
def State.scrubOver (s : State) (t : Tier) : Bool :=
  (s.tier t).scrubBusy && ((List.range (scrubBanks t)).all fun k => (s.scrubNext (bankBase t + k)).isNone) &&
    !(s.access.any fun a => a.req.unit == .scrub && tierOf a.req.addr == t)

/-- SCRUB_PASS_DONE. -/
def scrubDone (t : Tier) (s : State) : State :=
  if s.scrubOver t && s.clocked then
    modTier t (fun h => { h with scrubBusy := false, scrubPasses := h.scrubPasses + 1 }) s
  else s

def execScrubPassDone (t : Tier) (s : State) : Host.Outcome State Fault Refusal := .next (scrubDone t s)

/-! ## Operations on sync objects and queue contexts that fall due (R278, R283) -/

/-- The operation `op` on object `n` that job `j` holds is performed; the count that SYNC.ADD found is usable in the next cycle
(R276). -/
def performSync (j : Job) (n : Nat) (op : SyncOp) (s : State) : State :=
  match op with
  | .result t rd v => loadReg t j.id rd (v.zeroExtend 64) (dropJob j.id s)
  | .add t rd k =>
    let old := syncBase s n
    let s := syncOther n (old + k) s
    if rd = 0 then dropJob j.id s
    else modJob j.id (fun j => { j with kind := .syncOp n (.result t rd old), due := s.now + 1 }) s
  | .set v => dropJob j.id (syncOther n v s)
  | .val v expect =>
    dropJob j.id (if syncBase s n = expect then syncOther n v s else countEvt .sync 0 s)
  | .inSet _ tag v adv _ => drive (.wrAck tag) (advance adv 8 (syncOther n v (dropJob j.id s)))
  | .inAtom _ tag op b c _ =>
    if op = .qput then let r := qput .inbound n b (dropJob j.id s); drive (.atomRsp tag r.1) r.2
    else match atomSync n op b c (dropJob j.id s) with
      | some (v, s) => drive (.atomRsp tag v) s
      | none => drive (.errRsp tag .unsupported) (dropJob j.id s)

/-- What makes a due operation wait for a later cycle: another operation on its object in this one, or a full range table for the
entry of a put. -/
def State.syncHeld (s : State) (n : Nat) : SyncOp → Bool
  | .result .. => false
  | .inAtom _ _ .qput _ _ _ => s.rangeFull
  | _ => s.syncTaken n

/-- A job's operation that falls due is performed, if it is one on a sync object or queue context. -/
def performJob (j : Job) (s : State) : State :=
  if j.left ≠ 0 ∨ j.due = 0 ∨ j.due > s.now then s
  else match j.kind with
    | .syncOp n op => if s.syncHeld n op then s else performSync j n op s
    | .atomMem t a _ =>
      (match a.target? s with
      | some (.obj n) =>
        if s.syncTaken n then s
        else match atomSync n a.op a.b a.c s with
          | some (v, s) => atomResult t j.id a.rd v (s.now + 1) (dropJob j.id s)
          | none => dropJob j.id s
      | some (.que q) =>
        if s.rangeFull then s
        else let r := qput .usher q a.b s; atomResult t j.id a.rd r.1 (r.2.now + 1) (dropJob j.id r.2)
      | _ => s)
    | _ => s

/-- The operations that fall due in this cycle, in the order in which they were issued; their old value is usable in the next
(R278, R283). -/
def performDue (s : State) : State := s.jobs.foldl (fun s j => performJob j s) s

/-! ## Power (R208) -/

/-- The byte at `a` lies in group or segment `g` of tier `t`. -/
def inGroup (t : Tier) (g a : Nat) : Bool :=
  match t with
  | .hall => a < Config.hallSize && hallBank a / 8 == g
  | .lower => Config.lhallBase ≤ a && a < Config.imemBase && lhallSegment a == g

/-- The state after target code `k` takes effect, at time `now` (R208). A wake that a new target finds in progress gives way
to it; an OFF group does not go to RETAIN (assumption 14). -/
def nextPower (t : Tier) (now k : Nat) (p : PState) : PState :=
  match k, p with
  | 0, .retain => .waking (now + 256)
  | 0, .off => .waking (now + match t with | .hall => 2048 | .lower => 4096)
  | 0, p => p
  | 1, .off => .off
  | 1, _ => .retain
  | _, _ => .off

/-- The target of tier `t` takes effect, where one written before cycle `before` waits: a group that goes OFF loses its
contents, which read as zero after its wake. -/
def applyPower (t : Tier) (before : Nat) (s : State) : State :=
  match (s.tier t).tgtPend with
  | none => s
  | some (at_, v) =>
    if before ≤ at_ then s
    else
      let n := groups s.build t
      let live := (s.tier t).live.mapFinIdx fun g p _ => if g < n then nextPower t s.now (fld v (2 * g) 2) p else p
      let lost (a : Nat) : Bool := (List.range n).any fun g => fld v (2 * g) 2 == 2 && inGroup t g a
      modTier t (fun h => { h with tgt := v, tgtPend := none, live := live })
        { s with mem := s.mem.filter fun c => !lost c.1 }

/-- With ENABLE 0 a target takes effect once the range table is empty. -/
def powerIdle (s : State) : State :=
  if !s.step.enable && s.range.isEmpty then applyPower .lower (s.now + 1) (applyPower .hall (s.now + 1) s) else s

/-- A write of HALL_PWR or LHALL_PWR. -/
def pwrTarget (t : Tier) (v : BitVec 64) (s : State) : State :=
  let n := groups s.build t
  if (List.range n).any (fun g => fld v (2 * g) 2 == 3) then countEvt (Page.tier t) 2 s
  else
    let keep := BitVec.ofNat 64 (2 ^ (2 * n) - 1)
    powerIdle (modTier t (fun h => { h with tgtPend := some (s.now, v &&& keep) }) s)

/-- POWER_WAKE_DONE: a waking group or segment is ON. -/
def wakeDone (t : Tier) (g : Fin 32) (s : State) : State :=
  match (s.tier t).live[g] with
  | .waking u =>
    if u ≤ s.now && s.clocked then modTier t (fun h => { h with live := h.live.set g .on }) s else s
  | _ => s

def execPowerWakeDone (t : Tier) (g : Fin 32) (s : State) : Host.Outcome State Fault Refusal := .next (wakeDone t g s)

end Sys2Proof.Machine
end

