-- ==== Sys2Proof/Machine/Alu.lean ====
section
/-! DEFINITION. Usher's ALU, branch and jump instructions (R400, R401, R71), and FW.RET. -/

namespace Sys2Proof.Machine

/-- A result in rd; the thread goes on with the next instruction. -/
def writeRd (t : Fin 16) (w : BitVec 32) (v : BitVec 64) (s : State) : Res :=
  .next (modThread t (fun th => th.setReg (wRd w) v) s) (s.pcNext t)

/-- rd := f(Sa, Sb). -/
def regBody (f : BitVec 64 → BitVec 64 → BitVec 64) : Body := fun t w s =>
  writeRd t w (f ((s.thread t).reg (wRa w)) ((s.thread t).reg (wRb w))) s

/-- rd := f(Sa, imm16). -/
def immBody (f : BitVec 64 → BitVec 32 → BitVec 64) : Body := fun t w s =>
  writeRd t w (f ((s.thread t).reg (wRa w)) w) s

/-- A shift amount of a register form: Sb[5:0]. -/
def shAmt (b : BitVec 64) : Nat := b.toNat % 64

def sltWord (b : Bool) : BitVec 64 := if b then 1 else 0
def sMin (a b : BitVec 64) : BitVec 64 := if b.slt a then b else a
def sMax (a b : BitVec 64) : BitVec 64 := if a.slt b then b else a
/-- The high 64 bits of the unsigned product. -/
def mulHigh (a b : BitVec 64) : BitVec 64 := BitVec.ofNat 64 (a.toNat * b.toNat / 2 ^ 64)
/-- SHI: imm[7:6] selects the shift, imm[5:0] is the amount. -/
def shiWord (a : BitVec 64) (w : BitVec 32) : BitVec 64 :=
  match fld w 6 2 with
  | 0 => a <<< fld w 0 6
  | 1 => a >>> fld w 0 6
  | _ => a.sshiftRight (fld w 0 6)
/-- MOVZ and MOVK: imm16 at halfword h. -/
def movWord (w : BitVec 32) : BitVec 64 := wZimm w <<< (16 * fld w 16 2)
def movMask (w : BitVec 32) : BitVec 64 := (0xFFFF : BitVec 64) <<< (16 * fld w 16 2)

def execAdd (t : Fin 16) (s : State) : Host.Outcome State Fault Refusal := .next (usherRow .add (regBody (· + ·)) t s)
def execSub (t : Fin 16) (s : State) : Host.Outcome State Fault Refusal := .next (usherRow .sub (regBody (· - ·)) t s)
def execAnd (t : Fin 16) (s : State) : Host.Outcome State Fault Refusal := .next (usherRow .and (regBody (· &&& ·)) t s)
def execOr (t : Fin 16) (s : State) : Host.Outcome State Fault Refusal := .next (usherRow .or (regBody (· ||| ·)) t s)
def execXor (t : Fin 16) (s : State) : Host.Outcome State Fault Refusal := .next (usherRow .xor (regBody (· ^^^ ·)) t s)
def execShl (t : Fin 16) (s : State) : Host.Outcome State Fault Refusal :=
  .next (usherRow .shl (regBody fun a b => a <<< shAmt b) t s)
def execShr (t : Fin 16) (s : State) : Host.Outcome State Fault Refusal :=
  .next (usherRow .shr (regBody fun a b => a >>> shAmt b) t s)
def execSra (t : Fin 16) (s : State) : Host.Outcome State Fault Refusal :=
  .next (usherRow .sra (regBody fun a b => a.sshiftRight (shAmt b)) t s)
def execSlt (t : Fin 16) (s : State) : Host.Outcome State Fault Refusal :=
  .next (usherRow .slt (regBody fun a b => sltWord (a.slt b)) t s)
def execSltu (t : Fin 16) (s : State) : Host.Outcome State Fault Refusal :=
  .next (usherRow .sltu (regBody fun a b => sltWord (a.ult b)) t s)
def execMin (t : Fin 16) (s : State) : Host.Outcome State Fault Refusal := .next (usherRow .min (regBody sMin) t s)
def execMax (t : Fin 16) (s : State) : Host.Outcome State Fault Refusal := .next (usherRow .max (regBody sMax) t s)
def execMul (t : Fin 16) (s : State) : Host.Outcome State Fault Refusal := .next (usherRow .mul (regBody (· * ·)) t s)
def execMulhu (t : Fin 16) (s : State) : Host.Outcome State Fault Refusal := .next (usherRow .mulhu (regBody mulHigh) t s)
def execAddi (t : Fin 16) (s : State) : Host.Outcome State Fault Refusal :=
  .next (usherRow .addi (immBody fun a w => a + wSimm w) t s)
def execAndi (t : Fin 16) (s : State) : Host.Outcome State Fault Refusal :=
  .next (usherRow .andi (immBody fun a w => a &&& wZimm w) t s)
def execOri (t : Fin 16) (s : State) : Host.Outcome State Fault Refusal :=
  .next (usherRow .ori (immBody fun a w => a ||| wZimm w) t s)
def execXori (t : Fin 16) (s : State) : Host.Outcome State Fault Refusal :=
  .next (usherRow .xori (immBody fun a w => a ^^^ wZimm w) t s)
def execShi (t : Fin 16) (s : State) : Host.Outcome State Fault Refusal := .next (usherRow .shi (immBody shiWord) t s)
def execSlti (t : Fin 16) (s : State) : Host.Outcome State Fault Refusal :=
  .next (usherRow .slti (immBody fun a w => sltWord (a.slt (wSimm w))) t s)
def execMovz (t : Fin 16) (s : State) : Host.Outcome State Fault Refusal :=
  .next (usherRow .movz (fun t w s => writeRd t w (movWord w) s) t s)
def execMovk (t : Fin 16) (s : State) : Host.Outcome State Fault Refusal :=
  .next (usherRow .movk (fun t w s =>
    writeRd t w (((s.thread t).reg (wRd w) &&& ~~~movMask w) ||| movWord w) s) t s)

/-! ## Branches and jumps -/

/-- The instruction goes on at the offset `target` from the base of instruction memory, or raises ADDR_BAD (R71). -/
def jumpTo (target : Int) (s : State) : Res :=
  if 0 ≤ target ∧ target < Config.imemSize then .next s (BitVec.ofNat 18 target.toNat) else .fault 0x01

/-- A branch: its offset counts words from the branch itself (R400). A target outside instruction memory raises ADDR_BAD
whether the branch is taken or not (R71). -/
def branchBody (c : BitVec 64 → BitVec 64 → Bool) : Body := fun t w s =>
  match jumpTo ((s.thread t).pc.toNat + 4 * (wImm w).toInt) s with
  | .next s pc => .next s (if c ((s.thread t).reg (wRd w)) ((s.thread t).reg (wRa w)) then pc else s.pcNext t)
  | r => r

/-- The target of J and JAL. -/
def jmpTarget (pc : BitVec 18) (w : BitVec 32) : Int := pc.toNat + 4 * (w.extractLsb' 0 26).toInt

/-- JAL: the return address is that of the next word, of which the one after the last is the first (assumption 21). -/
def jalBody : Body := fun t w s =>
  let ret := fullPc (s.pcNext t)
  jumpTo (jmpTarget (s.thread t).pc w) (modThread t (fun th => th.setReg 31 ret) s)

/-- A jump to the full instruction-memory address `a` (R71). -/
def jumpFull (a : BitVec 64) (s : State) : Res :=
  if a.toNat % 4 ≠ 0 then .fault 0x02 else jumpTo ((a.toNat : Int) - Config.imemBase) s

def execBeq (t : Fin 16) (s : State) : Host.Outcome State Fault Refusal :=
  .next (usherRow .beq (branchBody (· == ·)) t s)
def execBne (t : Fin 16) (s : State) : Host.Outcome State Fault Refusal :=
  .next (usherRow .bne (branchBody (· != ·)) t s)
def execBlt (t : Fin 16) (s : State) : Host.Outcome State Fault Refusal :=
  .next (usherRow .blt (branchBody fun a b => a.slt b) t s)
def execBge (t : Fin 16) (s : State) : Host.Outcome State Fault Refusal :=
  .next (usherRow .bge (branchBody fun a b => !a.slt b) t s)
def execBltu (t : Fin 16) (s : State) : Host.Outcome State Fault Refusal :=
  .next (usherRow .bltu (branchBody fun a b => a.ult b) t s)
def execBgeu (t : Fin 16) (s : State) : Host.Outcome State Fault Refusal :=
  .next (usherRow .bgeu (branchBody fun a b => !a.ult b) t s)
def execJ (t : Fin 16) (s : State) : Host.Outcome State Fault Refusal :=
  .next (usherRow .j (fun t w s => jumpTo (jmpTarget (s.thread t).pc w) s) t s)
def execJal (t : Fin 16) (s : State) : Host.Outcome State Fault Refusal := .next (usherRow .jal jalBody t s)
def execJr (t : Fin 16) (s : State) : Host.Outcome State Fault Refusal :=
  .next (usherRow .jr (fun t w s => jumpFull ((s.thread t).reg (wRa w)) s) t s)
/-- Return from the fault vector to the address in S30; the handler ends (R71). -/
def execFwRet (t : Fin 16) (s : State) : Host.Outcome State Fault Refusal :=
  .next (usherRow .fwRet (fun t _ s =>
    jumpFull ((s.thread t).reg 30) { s with ush := { s.ush with inHandler := false } }) t s)

end Sys2Proof.Machine
end

