-- ==== Sys2Proof/Machine/LandRegs.lean ====
section
/-! DEFINITION. Writes of LAND_CFG, LAND_OVF and LAND_TAGSET (R210, R219). -/

namespace Sys2Proof.Machine

/-- The ring with the fields of a LAND_CFG value, EN among them. -/
def Ring.withCfg (r : Ring) (v : BitVec 64) : Ring :=
  { r with
    en := bitAt v 0, kind := bitAt v 1, nslotM1 := v.extractLsb' 8 8, reads := v.extractLsb' 16 3,
    slotLog2 := v.extractLsb' 20 5, ahead := v.extractLsb' 28 3, base := v.extractLsb' 32 32 }

/-- LAND_CFG as it reads. -/
def Ring.cfg (r : Ring) : BitVec 64 :=
  put 0 (b2n r.en) ||| put 1 (b2n r.kind) ||| put 8 r.nslotM1.toNat ||| put 16 r.reads.toNat |||
    put 20 r.slotLog2.toNat ||| put 28 r.ahead.toNat ||| put 32 r.base.toNat

/-- LAND_OVF as it reads. -/
def Ring.ovf (r : Ring) : BitVec 64 :=
  put 0 (b2n r.ovfEn) ||| put 4 r.ovfLog2.toNat ||| put 12 r.ovfBase.toNat

def Ring.bytes (r : Ring) : Nat := r.nslot * r.slotBytes

/-- The cases in which a write that sets EN of ring `l` to the fields of `r` is refused (R210, R214). A BASE that is no
multiple of the slot size counts among the reserved values. -/
def ringBad (s : State) (l : Fin 64) (r : Ring) : Bool :=
  let lg := r.slotLog2.toNat
  r.reads.toNat < 1 || 4 < r.reads.toNat || lg < 7 || 16 < lg || 16 < r.ovfLog2.toNat ||
    r.lo % r.slotBytes != 0 || !inSram s.build r.lo r.bytes ||
    (List.finRange 64).any fun m => m != l && (let x := s.ring m; x.en && x.lo < r.hi && r.lo < x.hi)

/-- A range entry lies in ring `l`, an access waits on one of its tags, or a spill or refill of it is in progress. -/
def ringBusy (s : State) (l : Fin 64) : Bool :=
  let r := s.ring l
  s.range.any (fun e => e.lo < r.hi && r.lo ≤ e.hi) || s.tagWaits.any (fun g => g.1 == l) || r.xfer.isSome

/-- A write of LAND_CFG[l]. -/
def landCfg (l : Fin 64) (v : BitVec 64) (s : State) : State :=
  let r := s.ring l
  let x := r.withCfg v
  if r.en then
    if x.en then (if x = r then s else countEvt .land 1 s)
    else if ringBusy s l then countEvt .land 1 s
    else modRing l (fun r => { r with en := false }) s
  else if x.en then
    if ringBad s l x then countEvt .land 1 s
    else
      modRing l (fun _ => { x with
        wseq := 0, rseq := 0, slots := List.replicate x.nslot emptySlot, region := [], xfer := none, due := [] }) s
  else modRing l (fun _ => x) s

/-- A write of LAND_OVF[l]. -/
def landOvf (l : Fin 64) (v : BitVec 64) (s : State) : State :=
  if (s.ring l).en then countEvt .land 1 s
  else modRing l (fun r => { r with
    ovfEn := bitAt v 0, ovfLog2 := v.extractLsb' 4 5, ovfBase := v.extractLsb' 12 52 }) s

/-- An access holds slot `k` of ring `l`: a range entry, or a Landing move. -/
def slotHeld (s : State) (l : Fin 64) (k : Nat) : Bool :=
  s.range.any (fun e => e.slot == some (l, k)) ||
    (match (s.ring l).xfer with | some x => x.slot == k | none => false)

/-- A write of LAND_TAGSET. -/
def landTagset (v : BitVec 64) (s : State) : State :=
  let l : Fin 64 := Fin.ofNat 64 (fld v 0 6)
  let k := fld v 8 8
  let new := fld v 20 3
  let r := s.ring l
  if !r.en || r.nslot ≤ k || (new != 0 && new != 2) || (r.kind && !s.clu.live) then countEvt .land 1 s
  else match r.slots[k]? with
    | none => countEvt .land 1 s
    | some x =>
      if fld v 16 3 ≠ x.tag.code ∨ slotHeld s l k then countEvt .land 2 s
      else if new = 0 then setSlot l k (fun x => { x with tag := .empty, taken := 0, done := 0, refilled := false }) s
      else setSlot l k (fun x => { x with tag := .full, taken := 0, done := 0, refilled := false }) s

end Sys2Proof.Machine
end

