-- ==== Sys2Proof/Machine/Power.lean ====
section
/-! DEFINITION. Power (chapter 14): cap and point in force (R313, R314, R316), the Balustrade's interval (R317, R323), the
Banister (R319), the coolant-loss stop (R324), and the PWR writes; the thermal sensors (R378, R379). -/

namespace Sys2Proof.Machine

/-! ## Cap and point in force -/

/-- A cap input as it counts (R316). -/
def clampCap (c : BitVec 10) : Nat := max 64 (min 336 c.toNat)

/-- The cap in force in eighths of a watt (R316); before the shadow is loaded the fused ceiling bounds nothing. -/
def State.capForce (s : State) : Nat :=
  min (min s.pwr.cap.toNat (clampCap s.pwr.capIn)) (if s.fuse.loaded then s.fuse.pcapMax.toNat else 336)

/-- The point that R313 puts in force under the recorded input. -/
def State.pointWanted (s : State) : BitVec 3 :=
  if s.step.mode then (if s.pwr.opIn.toNat ≤ s.fuse.fmaxOp.toNat then s.pwr.opIn else s.fuse.fmaxOp) else 2

/-- A change of the point stops the clock for 32 mark-time cycles (R314). -/
def pointChange (s : State) : State :=
  if s.pointWanted = s.pwr.op then s
  else { s with pwr := { s.pwr with switching := true, switchLeft := 32, opChg := s.pwr.opChg + 1 } }

/-- The power inputs as they are sampled (R314). -/
def sampleInputs (capIn : BitVec 10) (opIn : BitVec 3) (s : State) : State :=
  { s with pwr := { s.pwr with capIn := capIn, opIn := opIn } }

/-! ## The interval boundary (R317, R323) -/

/-- nwin of R317. -/
def windowLen (w : BitVec 3) : Rat :=
  match w.toNat with | 0 => 684 | 1 => 1367 | 2 => 2735 | 3 => 5469 | _ => 10938

/-- The die or tier of sensor `k`: 0 logic, 1 and 2 the tiers. -/
def sensorDie (k : Nat) : Nat := if k < 8 then 0 else if k < 12 then 1 else 2

/-- The larger of two temperatures. -/
def hotter (a b : BitVec 12) : BitVec 12 := if a.toInt < b.toInt then b else a

/-- The readings the leakage estimate uses: for an invalid one the largest valid reading of its die or tier (R378). -/
def State.leakTemps (s : State) : Vector (BitVec 12) 16 :=
  s.therm.temp.mapFinIdx fun k x _ =>
    if bitAt s.therm.valid k then x
    else match (List.range 16).filter (fun j => bitAt s.therm.valid j && sensorDie j == sensorDie k) with
      | [] => x
      | js => (js.map fun j => (s.therm.temp[j]?).getD 0).foldl hotter 0x800

/-- lk of R317, in watts. -/
def State.leakNow (s : State) : Rat :=
  let x := Config.freeLeak s.pwr.op s.leakTemps
  (x.1 : Rat) / ((x.2 : Rat) + 1)

/-- What the boundary adds to the counters for partition `p` and thread `t` (16: none), in whole nJ; the rest stays for the next
(DESIGN CHOICE, assumption 53). -/
def State.energyNj (s : State) (p t : Nat) : Nat :=
  let k := 17 * p + t
  ((s.pwr.eRem[k]?).getD 0 + (s.energy[k]?).getD 0) / 1000000

/-- The dynamic energy of the interval, in femtojoules (R317). -/
def State.eDyn (s : State) : Nat := s.energy.toList.sum

def natSum (n : Nat) (f : Nat → Nat) : Nat := ((List.range n).map f).sum

/-- dem of R317 after an interval with `ncyc` cycles, `nb` of them no bubbles, and `e` femtojoules. -/
def nextDemand (dem : Rat) (win : BitVec 3) (e ncyc nb : Nat) : Rat :=
  if nb = 0 then dem
  else
    let rate : Rat := (e : Rat) / 731400000 * ncyc / nb
    dem + (rate - dem) / windowLen win

/-- dens of R317. -/
def densityOf (dem lk cap : Rat) : BitVec 4 :=
  if dem + lk ≤ cap then 0
  else if cap ≤ lk then 15
  else BitVec.ofNat 4 (min 15 (16 * (1 - (cap - lk) / dem)).ceil.toNat)

/-- An interval boundary: energy counters, demand and density, under the cap in force now. -/
def interval (s : State) : State :=
  let p := s.pwr
  let win := p.pWin.getD p.win
  let dem := nextDemand p.dem win s.eDyn p.iCyc p.iNonBubble
  let lk := s.leakNow
  let leak := p.eLeak + lk * p.iMt * 5 / 7
  let epart := p.epart.mapFinIdx fun k x _ =>
    if k = 5 then BitVec.ofNat 64 leak.floor.toNat else x + BitVec.ofNat 64 (natSum 17 (s.energyNj k))
  let ethr := p.eThr.mapFinIdx fun t x _ => x + BitVec.ofNat 64 (natSum 5 fun k => s.energyNj k t)
  { s with
    energy := Vector.replicate 85 0,
    pwr := { p with
      eRem := p.eRem.mapFinIdx fun k x _ => (x + (s.energy[k]?).getD 0) % 1000000,
      win := win, pWin := none, dem := dem, leak := lk, eLeak := leak,
      dens := densityOf dem lk ((s.capForce : Rat) / 8), epart := epart, eThr := ethr,
      eUn := p.eUn + BitVec.ofNat 64 (natSum 5 fun k => s.energyNj k 16),
      iCyc := 0, iNonBubble := 0, iMt := 0 } }

/-- Phase CLOCK has ended (R340). -/
def State.started (s : State) : Bool :=
  match s.clu.phase with | .reset => false | .fuse => false | .clock => false | _ => true

/-- BALUSTRADE_INTERVAL: 1,024 mark-time cycles after the last boundary. -/
def balustrade (s : State) : State :=
  if s.started && !s.pwr.coolStopped && s.pwr.iMt ≥ 1024 then
    let r := interval { s with pwr := { s.pwr with iMt := 1024 } }
    { r with pwr := { r.pwr with iMt := s.pwr.iMt - 1024 } }
  else s

def execBalustradeInterval (s : State) : Host.Outcome State Fault Refusal := .next (balustrade s)

/-- POWER_INPUT_SAMPLE: with ENABLE 0 the inputs are sampled every 1,024 mark-time cycles. -/
def inputSample (capIn : BitVec 10) (opIn : BitVec 3) (s : State) : State :=
  if s.started && !s.step.enable && s.clocked && s.step.freeMt ≥ 1024 then
    pointChange (sampleInputs capIn opIn { s with step := { s.step with freeMt := s.step.freeMt - 1024 } })
  else s

def execPowerInputSample (capIn : BitVec 10) (opIn : BitVec 3) (s : State) : Host.Outcome State Fault Refusal :=
  .next (inputSample capIn opIn s)

/-! ## The Banister (R319) -/

/-- HOLD in cycles; 0 counts as 1. -/
def State.holdLen (s : State) : Nat := max 1 s.pwr.hold.toNat

/-- V_min of a point in millivolts (R312). -/
def vMin (op : BitVec 3) : Int :=
  match op.toNat with | 0 => 600 | 1 => 680 | 2 => 750 | 3 => 800 | 4 => 815 | 5 => 830 | 6 => 840 | _ => 850

/-- The level that the lowest voltage requires at the point in force (R319). -/
def State.required (s : State) : Fin 4 :=
  let below (th : BitVec 8) : Bool := (s.pwr.volt : Int) < 1000 * (vMin s.pwr.op + th.toInt)
  if below s.pwr.th3 then 3 else if below s.pwr.th2 then 2 else if below s.pwr.th1 then 1 else 0

/-- The level in force. -/
def State.level (s : State) : Nat := max s.pwr.reqLevel.val s.pwr.heldLevel.val

/-- The required level is what the detectors, the thresholds and the point now make it. A rise lifts the held level with it;
after a fall the held level stays for HOLD cycles. -/
def relevel (s : State) : State :=
  let l := s.required
  if s.pwr.heldLevel ≤ l then { s with pwr := { s.pwr with reqLevel := l, heldLevel := l, holdLeft := s.holdLen } }
  else if l < s.pwr.reqLevel then { s with pwr := { s.pwr with reqLevel := l, holdLeft := s.holdLen } }
  else { s with pwr := { s.pwr with reqLevel := l } }

/-- DROOP_CROSSING: the lowest voltage any detector sees is now `v` microvolts. -/
def droop (v : Nat) (s : State) : State :=
  if s.pwr.coolStopped then s else relevel { s with pwr := { s.pwr with volt := v } }

def execDroopCrossing (v : Nat) (s : State) : Host.Outcome State Fault Refusal := .next (droop v s)

/-- OP_CHANGE_CLOCK_RESTART: the new clock runs; this is c0 of the step that the mark opened (R21, R314). -/
def clockRestart (s : State) : State :=
  if s.pwr.switching && s.pwr.switchLeft == 0 && !s.pwr.coolStopped then
    relevel { s with pwr := { s.pwr with switching := false, op := s.pointWanted }, step := { s.step with rdy := false } }
  else s

def execOpChangeClockRestart (s : State) : Host.Outcome State Fault Refusal := .next (clockRestart s)

/-- BANISTER_HOLD_EXPIRE: the held level drops by one. -/
def holdExpire (s : State) : State :=
  if !s.pwr.coolStopped && s.pwr.reqLevel < s.pwr.heldLevel && s.pwr.holdLeft == 0 then
    { s with pwr := { s.pwr with heldLevel := Fin.ofNat 4 (s.pwr.heldLevel.val - 1), holdLeft := s.holdLen } }
  else s

def execBanisterHoldExpire (s : State) : Host.Outcome State Fault Refusal := .next (holdExpire s)

/-! ## Thermal sensors (R378, R379) -/

/-- Sensor `k` is present. -/
def State.sensor (s : State) (k : Nat) : Bool := k < 12 || s.build.tiers2

/-- THERM_CONVERSION: sensor `k` reads `r` quarters of a degree. -/
def conversion (k : Fin 16) (r : Int) (s : State) : State :=
  let m : BitVec 16 := BitVec.ofNat 16 (2 ^ k.val)
  let th := s.therm
  if !s.sensor k || s.clu.phase == .reset then s
  else if r < -160 ∨ 600 < r then
    countEvt .therm 2 { s with therm := { th with valid := th.valid &&& ~~~m, hot := th.hot &&& ~~~m } }
  else
    let x := BitVec.ofInt 12 r
    let logic := k.val < 8
    let lim := th.oldLim.getD (th.logicLim, th.tierLim)
    let hot := decide ((if logic then lim.1 else lim.2).toInt ≤ r)
    let s := { s with therm := { th with
      temp := th.temp.set k x, valid := th.valid ||| m, hot := if hot then th.hot ||| m else th.hot &&& ~~~m,
      logicMax := if logic then hotter th.logicMax x else th.logicMax,
      tierMax := if logic then th.tierMax else hotter th.tierMax x } }
    if hot then countEvt .therm (if logic then 0 else 1) s else s

def execThermConversion (k : Fin 16) (reading : Int) (s : State) : Host.Outcome State Fault Refusal :=
  .next (conversion k reading s)

/-! ## The coolant-loss stop (R12, R324) -/

/-- COOL_STOP: every clock but the small domain's stops; step-ready is low. -/
def coolStop (s : State) : State :=
  if s.pwr.coolStopped then s
  else countEvt .pwr 1 { s with
    pwr := { s.pwr with coolStopped := true },
    step := { s.step with rdy := false } }

def execCoolStop (s : State) : Host.Outcome State Fault Refusal := .next (coolStop s)

/-! ## PWR registers (R325) -/

/-- A shadowed write of STEP or PWR_CAP: it waits for the mark after its cycle (R20). -/
def shadowPut (x : Shadow) (s : State) : State :=
  { s with step := { s.step with shadow := s.step.shadow ++ [(s.now, x)] } }

/-- A shadowed value takes effect. -/
def Shadow.apply (x : Shadow) (s : State) : State :=
  match x with
  | .mode b => { s with step := { s.step with mode := b } }
  | .mask m => { s with step := { s.step with mask := m } }
  | .lead a => { s with step := { s.step with lead := a } }
  | .len l => { s with step := { s.step with len := l } }
  | .slack x => { s with step := { s.step with slack := x } }
  | .guard g => { s with step := { s.step with guard := g } }
  | .cap w => { s with pwr := { s.pwr with cap := w } }

/-- The writes of cycles before `before` that `which` holds of take effect, oldest first. -/
def applyShadow (which : Shadow → Bool) (before : Nat) (s : State) : State :=
  let due (e : Nat × Shadow) : Bool := which e.2 && e.1 < before
  let s' := s.step.shadow.foldl (fun s e => if due e then e.2.apply s else s) s
  { s' with step := { s'.step with shadow := s.step.shadow.filter fun e => !due e } }

def Shadow.isCap : Shadow → Bool
  | .cap _ => true
  | _ => false

/-- A write of PWR_CAP: at once while ENABLE is 0 (R316). -/
def pwrCap (v : BitVec 64) (s : State) : State :=
  let c := fld v 0 10
  if c < 64 ∨ 336 < c then countEvt .pwr 0 s
  else
    let s := shadowPut (.cap (BitVec.ofNat 10 c)) s
    if s.step.enable then s else applyShadow Shadow.isCap (s.now + 1) s

/-- A write of PWR_WIN: it takes effect at the next boundary. -/
def pwrWin (v : BitVec 64) (s : State) : State :=
  let w := fld v 0 3
  if w ≥ 5 then countEvt .pwr 0 s else { s with pwr := { s.pwr with pWin := some (BitVec.ofNat 3 w) } }

/-- A write of PWR_DROOP under the limits of R321. -/
def pwrDroop (v : BitVec 64) (s : State) : State :=
  let t1 := v.extractLsb' 0 8
  let t2 := v.extractLsb' 8 8
  let t3 := v.extractLsb' 16 8
  if 0 ≤ t1.toInt && t1.toInt ≤ 40 && -40 ≤ t2.toInt && t2.toInt ≤ t1.toInt - 5 && -75 ≤ t3.toInt &&
      t3.toInt ≤ t2.toInt - 5 then
    relevel { s with pwr := { s.pwr with th1 := t1, th2 := t2, th3 := t3, hold := v.extractLsb' 32 16 } }
  else countEvt .pwr 0 s

end Sys2Proof.Machine
end

