-- ==== Sys2Proof/Machine/Steps.lean ====
section
/-! DEFINITION. The step unit (chapter 02): step-ready (R23), marks and stop marks (R21, R25, R29, R30, R32, R336), the
overrun (R28, R213), shadowed writes (R20), LAT_SEL (R45), and the step instructions that wait for them (R22, R24). -/

namespace Sys2Proof.Machine

/-! ## STEP.END and STEP.WAIT -/

/-- STEP.END: the thread blocks to the next mark, and has executed STEP.END in this step (R23, R24). -/
def stepEndBody : Body := fun t _ s =>
  let s := modThread t (fun th => { th with st := .waitMark }) s
  .next { s with step := { s.step with ended := s.step.ended ||| BitVec.ofNat 16 (2 ^ t.val) } } (s.pcNext t)

def execStepEnd (t : Fin 16) (s : State) : Host.Outcome State Fault Refusal := .next (usherRow .stepEnd stepEndBody t s)

/-- STEP_WAIT_EXPIRE: STEP_CYCLE has reached the cycle that thread `t` waits for (R22). -/
def waitExpire (t : Fin 16) (s : State) : State :=
  match (s.thread t).st with
  | .waitStep c => if s.clocked && c ≤ s.step.cycle.toNat then modThread t Thread.resume s else s
  | _ => s

def execStepWaitExpire (t : Fin 16) (s : State) : Host.Outcome State Fault Refusal := .next (waitExpire t s)

/-! ## Step-ready (R23) -/

/-- Every thread of the mask has executed STEP.END in this step, or is HALTED or FREE (R25). -/
def State.threadsEnded (s : State) : Bool :=
  allThreads.all fun t => !bitAt s.step.mask t.val || bitAt s.step.ended t.val ||
    (match (s.thread t).st with | .halted => true | .free => true | _ => false)

/-- A command or descriptor tile that has started and is not complete. -/
def Job.isCommand (j : Job) : Bool :=
  match j.kind with
  | .tld _ => true | .tst _ => true | .vload _ => true | .vstore _ => true
  | .flight _ _ => true | .tread _ => true | .tile _ _ _ _ => true
  | _ => false

/-- Array `a` is idle: every beat has entered, every bank has reached its readout point, and its readouts have ended. -/
def State.opaIdle (s : State) (a : Fin 2) : Bool :=
  let x := s.opa[a]
  x.left == 0 && x.pipe.isEmpty &&
    x.banks.toList.all fun b => b.pend.isEmpty && (b.readUntil == 0 || b.readUntil < s.now)

/-- Every started command is complete (R23 condition 2). -/
def State.enginesIdle (s : State) : Bool :=
  s.queuesEmpty && !(s.jobs.any Job.isCommand) && s.tile.cfg.isNone && s.tile.held.isNone &&
    s.opaIdle 0 && s.opaIdle 1 &&
    s.vec.runs.isEmpty && s.vec.writes.isEmpty &&
    allCtx.all (fun nc => (s.ctx nc.1 nc.2).st == .idle)

/-- No Landing move and no outbound relay forwarding is in progress (R23 condition 4, R254). -/
def State.movesIdle (s : State) : Bool :=
  s.land.rings.toList.all (fun r => r.xfer.isNone) &&
    (s.jobs.all fun j => match j.kind with | .spill _ => false | _ => true) &&
    (List.finRange 4).all fun g => (List.finRange 16).all fun e => !s.relayBusy g e

/-- The conditions of R23. -/
def State.stepDone (s : State) : Bool := s.threadsEnded && s.enginesIdle && s.range.isEmpty && s.movesIdle

/-- STEP_READY_RISE: never in c0, never while a job-fatal record is held (R329), never before a load has enabled marks. -/
def readyRise (s : State) : State :=
  if s.clocked && s.step.enable && !s.step.rdy && !s.evt.valid && !s.stopHeld &&
      (s.stepClosed || s.step.cycle != 0) && s.stepDone then
    { s with step := { s.step with
        rdy := true,
        rdyAt := if s.stepOpen then some s.step.mtime.toNat else none,
        phase := if s.stepOpen then .ready else s.step.phase } }
  else s

def execStepReadyRise (s : State) : Host.Outcome State Fault Refusal := .next (readyRise s)

/-- STEP_LATE_LIMIT: mark time has passed L − A with step-ready low. -/
def lateLimit (s : State) : State :=
  if s.step.phase = .run ∧ !s.pwr.coolStopped ∧ !s.step.rdy ∧ s.step.mtime.toNat + s.step.lead.toNat > s.step.len.toNat then
    { s with step := { s.step with phase := .late } }
  else s

def execStepLateLimit (s : State) : Host.Outcome State Fault Refusal := .next (lateLimit s)

/-- The waiting access that LAND_HAZARD records: the lowest ring and slot (R213). -/
def State.hazard? (s : State) : Option (Fin 64 × Nat × Bool) :=
  match s.tagWaits with
  | [] => none
  | g :: gs => some (gs.foldl (fun a b => if b.1 < a.1 ∨ (b.1 = a.1 ∧ b.2.1 < a.2.1) then b else a) g)

/-- SLOT_HAZARD beside an overrun (R213). -/
def slotHazard (g : Fin 64 × Nat × Bool) (s : State) : State :=
  let s := { s with land := { s.land with
    hazRing := BitVec.ofNat 6 g.1.val, hazSlot := BitVec.ofNat 8 g.2.1, hazRead := !g.2.2, hazValid := true } }
  let s := logEvt .land 0 (defaultLog 0x1A g.1.val 0) s
  jobFatal .land 0x1A (s.seqOf .land 0) s

/-- STEP_OVERRUN: step-ready is low at L + G − A + 1 (R28). -/
def overrun (s : State) : State :=
  let st := s.step
  if s.stepOpen && !s.pwr.coolStopped && !st.rdy && !st.overrun && st.mtime.toNat + st.lead.toNat ≥ st.len.toNat + st.guard.toNat + 1 then
    let s := { s with step := { s.step with overrun := true } }
    match s.hazard? with
    | none => jobEvent .step 0 0x20 0 s
    | some g =>
      let s := jobEvent .step 0 0x20 0 (slotHazard g s)
      if s.ush.task = .running then taskAbort s else s
  else s

def execStepOverrun (s : State) : Host.Outcome State Fault Refusal := .next (overrun s)

/-! ## Marks -/

/-- Slack consumed in the open step, if a mark closes it now: max(0, T_own − P) (R32). -/
def State.slackUsed (s : State) : Nat :=
  let st := s.step
  let t := if st.rdy then st.rdyAt.getD st.mtime.toNat else st.mtime.toNat
  t + st.slack.toNat - st.len.toNat

/-- A mark closes the open step: STEP_LATE, and LATE where it came after L (R32). A mark that closes none leaves
LAST_STRETCHED 0 for the step it opens (R48). -/
def closeStep (s : State) : State :=
  if s.stepClosed then { s with step := { s.step with lastStretched := false } }
  else
    let u := BitVec.ofNat 22 s.slackUsed
    let late := decide (s.step.mtime.toNat > s.step.len.toNat)
    let s := { s with step := { s.step with
      lastUsed := u, maxUsed := if s.step.maxUsed < u then u else s.step.maxUsed, lastStretched := late } }
    if late then countEvt .step 4 s else s

/-- An estimate of PWR_DEMAND, in eighths of a watt. -/
def eighths (x : Rat) : BitVec 12 := BitVec.ofNat 12 (x * 8).floor.toNat

/-- The snapshot of R336, with the phase before the mark. -/
def snapshot (stop : Bool) (s : State) : State :=
  { s with evt := { s.evt with
      sIndex := s.step.index, sLastUsed := s.step.lastUsed, sPhase := BitVec.ofNat 3 s.step.phase.code, sStop := stop,
      sTask := BitVec.ofNat 3 s.ush.task.code, sCycle := s.step.cycle, sMtime := s.step.mtime,
      sDem := eighths s.pwr.dem, sLeak := eighths s.pwr.leak, sOp := s.pwr.op,
      sCap := BitVec.ofNat 10 s.capForce, sBubbles := s.pwr.sBubbles,
      sStretch := BitVec.ofNat 32 (s.pwr.sStretch / 8),
      sThr := allThreads.foldl (fun acc t => acc ||| put (4 * t.val) (s.thread t).st.code) 0 } }

/-- What every acting mark does first: it closes the step and latches the snapshot; the shadowed values apply. -/
def markEnd (stop : Bool) (s : State) : State :=
  let s := applyShadow (fun _ => true) s.now (snapshot stop (closeStep s))
  applyPower .lower s.now (applyPower .hall s.now s)

/-- A mark that acts as a stop mark (R29): no step is open afterwards and nothing issues until a new load. -/
def stopAct (s : State) : State :=
  let s := stopEngines (interval s)
  { s with step := { s.step with phase := .stopped, rdy := false, ended := 0 } }

/-- A mark opens a step (R21): the counters restart, and threads blocked by STEP.END issue at c2 (R24). Step-ready falls at c0,
which waits for the new clock where the point changes (R23, R314). -/
def openStep (s : State) : State :=
  let s := interval s
  let s := { s with
    step := { s.step with
      index := s.step.index + 1, phase := .run, modeLive := s.step.mode, cycle := 0, mtime := 0, mtFrac := 0,
      rdy := s.step.rdy && s.pointWanted != s.pwr.op, rdyAt := none, nonBubble := 0, ended := 0, overrun := false },
    pwr := { s.pwr with sBubbles := 0, sStretch := 0 },
    ush := { s.ush with threads := s.ush.threads.map fun th =>
      if th.st = .waitMark then { th.resume with notBefore := s.now + Config.stepWake } else th } }
  pointChange s

/-- Marks act only while ENABLE is 1 and the clocks run; in STOPPED only the snapshot is taken (R25, R30). -/
def State.marksAct (s : State) : Bool := s.step.enable && s.clocked

/-- STEP_MARK_NORMAL, with the power inputs it samples. -/
def markNormal (capIn : BitVec 10) (opIn : BitVec 3) (s : State) : State :=
  if !s.marksAct then s
  else if s.stopHeld then snapshot false s
  else
    let early := !s.step.rdy && (s.step.phase == .run || s.step.phase == .late)
    if s.evt.valid then pointChange (stopAct (sampleInputs capIn opIn (countEvt .step 3 (markEnd true s))))
    else if early then
      pointChange (stopAct (sampleInputs capIn opIn (countEvt .step 3 (markEnd true (jobEvent .step 1 0x21 0 s)))))
    else
      let s := sampleInputs capIn opIn (markEnd false s)
      if s.ush.task = .ended then
        pointChange (interval { s with step := { s.step with phase := .idle, enable := false, rdy := false, ended := 0 } })
      else openStep s

def execStepMarkNormal (capIn : BitVec 10) (opIn : BitVec 3) (s : State) : Host.Outcome State Fault Refusal :=
  .next (markNormal capIn opIn s)

/-- STEP_MARK_STOP. -/
def markStop (s : State) : State :=
  if !s.marksAct then s
  else if s.stopHeld then countEvt .step 3 (snapshot true s)
  else stopAct (countEvt .step 3 (markEnd true s))

def execStepMarkStop (s : State) : Host.Outcome State Fault Refusal := .next (markStop s)

/-! ## STEP registers (R20, R48) -/

/-- The value a shadowed field was written last, or the one in force. -/
def lastShadow {α : Type} (get : Shadow → Option α) (now_ : α) (s : State) : α :=
  match s.step.shadow.reverse.findSome? fun e => get e.2 with
  | some x => x
  | none => now_

def State.wMode (s : State) : Bool := lastShadow (fun | .mode b => some b | _ => none) s.step.mode s
def State.wMask (s : State) : BitVec 16 := lastShadow (fun | .mask b => some b | _ => none) s.step.mask s
def State.wLead (s : State) : BitVec 16 := lastShadow (fun | .lead b => some b | _ => none) s.step.lead s
def State.wLen (s : State) : BitVec 21 := lastShadow (fun | .len b => some b | _ => none) s.step.len s
def State.wSlack (s : State) : BitVec 21 := lastShadow (fun | .slack b => some b | _ => none) s.step.slack s
def State.wGuard (s : State) : BitVec 21 := lastShadow (fun | .guard b => some b | _ => none) s.step.guard s
def State.wCap (s : State) : BitVec 10 := lastShadow (fun | .cap b => some b | _ => none) s.pwr.cap s

/-- A write of STEP_CFG. ENABLE changes only in IDLE or STOPPED; setting it restarts INDEX, and a change ends a stop:
R30's new load writes it, and R337 has it write 0. -/
def stepCfg (v : BitVec 64) (s : State) : State :=
  let en := bitAt v 1
  if s.stepOpen && en != s.step.enable then countEvt .step 2 s
  else
    let s := shadowPut (.lead (v.extractLsb' 32 16)) (shadowPut (.mask (v.extractLsb' 16 16)) (shadowPut (.mode (bitAt v 0)) s))
    if en = s.step.enable then s
    else if en then { s with step := { s.step with enable := true, index := 0, phase := .idle, ended := 0 } }
    else { s with step := { s.step with enable := false, rdy := false, freeMt := 0, phase := .idle } }

def stepLen (v : BitVec 64) (s : State) : State :=
  let l := fld v 0 21
  if 1024 ≤ l ∧ l ≤ 1048576 then shadowPut (.len (BitVec.ofNat 21 l)) s else countEvt .step 2 s

/-- A value below RDY_LEAD, or not below LEN, is refused: those written last, as R48 speaks of the registers and not of what
is in force (DESIGN CHOICE, assumption 43). -/
def stepSlack (v : BitVec 64) (s : State) : State :=
  let x := fld v 0 21
  if s.wLead.toNat ≤ x ∧ x < s.wLen.toNat then shadowPut (.slack (BitVec.ofNat 21 x)) s else countEvt .step 2 s

def stepGuard (v : BitVec 64) (s : State) : State :=
  let g := fld v 0 21
  if g ≤ 1048576 then shadowPut (.guard (BitVec.ofNat 21 g)) s else countEvt .step 2 s

/-- A write of LAT_SEL (R45). -/
def latSel (v : BitVec 64) (s : State) : State :=
  let n := fld v 0 8
  if 1 ≤ n ∧ n ≤ 64 ∧ bitAt s.lat.honour (n - 1) ∧ s.stepClosed ∧ s.queuesEmpty ∧ s.range.isEmpty then
    { s with lat := { s.lat with version := BitVec.ofNat 8 n } }
  else countEvt .lat 0 s

end Sys2Proof.Machine
end

