-- ==== Sys2Proof/Machine/UsherCtl.lean ====
section
/-! DEFINITION. Control of Usher: release and stop (R78, R347), the task state (R67, R337), thread start and stop (R67), the
watchdog (R76). -/

namespace Sys2Proof.Machine

/-- A refused write of the CLU page. -/
def cluBad (s : State) : State := countEvt .clu 1 s

/-! ## USH_CTL, USH_IMEM_SPLIT, USH_TASK -/

/-- A write of 1 to RUN (R347). -/
def runSet (s : State) : State :=
  if s.clu.phase = .ready ∧ s.clu.hashDone ∧ s.clu.hashLocked then
    if s.ush.run then s else startThread fwThread 0 { s with ush := { s.ush with run := true } }
  else cluBad s

/-- A write of 0 to RUN (R78): Usher is reset and held; a running task is aborted. -/
def runClear (s : State) : State :=
  let ran := s.ush.task = .running
  let s := usherReset s
  let s := { s with ush := { s.ush with run := false, restartPending := false } }
  if ran then jobEvent .ush 3 0x25 0 { s with ush := { s.ush with task := .aborted } } else s

/-- A write of USH_CTL. -/
def ushCtl (v : BitVec 64) (s : State) : State := if bitAt v 0 then runSet s else runClear s

/-- A write of USH_IMEM_SPLIT. -/
def imemSplit (v : BitVec 64) (s : State) : State :=
  if s.ush.run ∨ s.clu.hashLocked then cluBad s
  else { s with ush := { s.ush with fwTop := v.extractLsb' 12 6 } }

/-- A write of USH_TASK. LOADED, written by the management port over a job-fatal record, is refused whole (R337). A code
of STATE without a meaning leaves STATE. -/
def ushTask (mgmt : Bool) (v : BitVec 64) (s : State) : State :=
  let st := (taskStateOf (fld v 32 3)).getD s.ush.task
  if mgmt && st == .loaded && s.evt.valid then countEvt .evt 0 s
  else { s with ush := { s.ush with taskId := v.extractLsb' 0 32, task := st } }

/-! ## Threads (R67) -/

def TState.canStart : TState → Bool
  | .free => true | .halted => true | .faulted => true | _ => false

/-- The thread waits in an instruction that it has issued (R52). -/
def TState.inProgress : TState → Bool
  | .waitStep _ => true | .waitMark => true | .waitSync _ => true | .waitQueue _ => true
  | .waitRange (some _) => true
  | .waitData (.reg _) => false
  | .waitData _ => true
  | _ => false

/-- A write of USH_THR_CTL[t]. -/
def threadCtl (t : Fin 16) (v : BitVec 64) (s : State) : State :=
  let st := (s.thread t).st
  let stale := fld v 20 4 != st.code
  match fld v 24 2 with
  | 1 =>
    if stale || !st.canStart then countEvt .ush 0 s
    else if fld v 0 2 ≠ 0 then countEvt .ush 4 s
    else if s.ush.run then startThread t (v.extractLsb' 0 18) s else s
  | 2 =>
    if stale then countEvt .ush 0 s
    else modThread t (fun th => if st.inProgress then { th with stop := true } else { th with st := .halted, stop := false }) s
  | _ => s

/-! ## The watchdog (R76) -/

/-- PERIOD × 1,024, where 0 counts as 1. -/
def Clu.wdogLoad (c : Clu) : Nat := max 1 c.wdogPeriod.toNat * 1024

/-- A write of CLU_WDOG_KICK. -/
def wdogKick (v : BitVec 64) (s : State) : State :=
  if bitAt v 0 then { s with clu := { s.clu with wdogLeft := s.clu.wdogLoad } } else s

/-- A write of CLU_WDOG_CTL: setting ENABLE loads the count. -/
def wdogCtl (v : BitVec 64) (s : State) : State :=
  let c := { s.clu with wdogEn := bitAt v 0, wdogPeriod := v.extractLsb' 16 16 }
  { s with clu := if bitAt v 0 && !s.clu.wdogEn then { c with wdogLeft := c.wdogLoad } else c }

/-- WDOG_EXPIRED: the count has reached zero. One occurrence, which is job-fatal where a task ran. -/
def wdogExpire (s : State) : State :=
  if s.clu.wdogEn && s.clu.wdogLeft == 0 && !s.pwr.coolStopped then
    let ran := s.ush.task = .running
    let s := usherReset s
    let s := { s with
      ush := { s.ush with restartPending := s.ush.run, task := if ran then .aborted else s.ush.task },
      clu := { s.clu with wdogExpired := satInc s.clu.wdogExpired, wdogLeft := s.clu.wdogLoad } }
    let s := logEvt .clu 0 (defaultLog 0x22 0 0) s
    if ran then jobFatal .clu 0x22 (s.seqOf .clu 0) s else s
  else s

def execWdogExpired (s : State) : Host.Outcome State Fault Refusal := .next (wdogExpire s)

/-- USHER_RESTART: the range table is empty, and thread 15 starts. -/
def usherRestart (s : State) : State :=
  if s.ush.restartPending && s.ush.run && s.range.isEmpty && s.clocked then
    startThread fwThread 0 { s with ush := { s.ush with restartPending := false } }
  else s

def execUsherRestart (s : State) : Host.Outcome State Fault Refusal := .next (usherRestart s)

end Sys2Proof.Machine
end

