-- ==== Sys2Proof/Machine/StartUp.lean ====
section
/-! DEFINITION. Reset sources and the start-up phases (R339 to R344), the firmware digest (R345, R346), inspection mode
(R351), the firmware's identity (R348). -/

namespace Sys2Proof.Machine

/-! ## Resets (R339) -/

/-- POWER_ON_RESET: all state; nothing is kept but the model's own counters. -/
def powerOnReset (s : State) : State :=
  { State.resetOf s.build with pending := s.pending, now := s.now, nextId := s.nextId, freeIx := s.freeIx }

def execPowerOnReset (s : State) : Host.Outcome State Fault Refusal := .next (powerOnReset s)

/-- A write of CLU_RST: a cluster reset keeps the fuse shadow, the soft repairs and RESETS, and runs the start-up from
CLOCK. After a coolant-loss stop the cluster waits in RESET. A pending mailbox request is LOST (R383). -/
def clusterReset (v : BitVec 64) (s : State) : State :=
  if bitAt v 0 then
    let r := powerOnReset s
    mgmtLost { r with
      mgmt := { r.mgmt with pending := s.mgmt.pending, reqSeq := s.mgmt.reqSeq },
      fuse := s.fuse,
      lat := { r.lat with honour := s.lat.honour, stepping := s.lat.stepping },
      clu := { r.clu with resets := satInc s.clu.resets, phase := if s.pwr.coolStopped || !s.fuse.loaded then .reset else .clock } }
  else s

/-- RESET_RELEASE: the conditions of R340 hold. -/
def resetRelease (s : State) : State :=
  if s.clu.phase = .reset then { s with clu := { s.clu with phase := if s.fuse.loaded then .clock else .fuse } } else s

def execResetRelease (s : State) : Host.Outcome State Fault Refusal := .next (resetRelease s)

/-! ## Start-up (R340 to R344) -/

/-- The cluster enters FAILED. -/
def bootFail (cause : Nat) (s : State) : State :=
  countEvt .clu 2 { s with clu := { s.clu with phase := .failed, cause := BitVec.ofNat 4 cause } }

/-- FUSE_LOAD_DONE: the shadow holds `img` (R342). -/
def fuseLoad (img : FuseImage) (s : State) : State :=
  if s.clu.phase = .fuse ∧ !s.pwr.coolStopped then
    let s := { s with
      fuse := { s.fuse with
        loaded := true, checkBad := img.bad, passThru := img.passThru, corrected := img.corrected, hard := img.hard,
        raw := img.raw, fmaxOp := img.fmaxOp, pcapMax := img.pcapMax },
      lat := { s.lat with honour := img.honour, stepping := img.stepping } }
    if img.bad then bootFail 1 s else { s with clu := { s.clu with phase := .clock } }
  else s

def execFuseLoadDone (img : FuseImage) (s : State) : Host.Outcome State Fault Refusal := .next (fuseLoad img s)

/-- CLOCK_LOCKED: the free-running counts start; a fused-off cluster passes through. -/
def clockLocked (s : State) : State :=
  if s.clu.phase = .clock ∧ !s.pwr.coolStopped then
    { s with
      clu := { s.clu with phase := if s.fuse.passThru then .pass else .selftest },
      step := { s.step with freeCycles := 0, freeNonBubble := 0, freeMt := 0, mtFrac := 0 },
      pwr := { s.pwr with iCyc := 0, iNonBubble := 0, iMt := 0 } }
  else s

def execClockLocked (s : State) : Host.Outcome State Fault Refusal := .next (clockLocked s)

/-- CLOCK_LOCK_FAIL. -/
def clockFail (s : State) : State := if s.clu.phase = .clock ∧ !s.pwr.coolStopped then bootFail 7 s else s

def execClockLockFail (s : State) : Host.Outcome State Fault Refusal := .next (clockFail s)

/-- What self-test leaves (R344). -/
def selftestZero (s : State) : State :=
  { s with
    mem := [],
    tile := { s.tile with regs := Vector.replicate 16 ⟨none, SMap.zero 8, 0, 0⟩, words := SMap.zero 8 },
    vec := { s.vec with v := SMap.zero 32, k := SMap.zero 1, vl := 32 * s.build.vlen, lastVl := 32 * s.build.vlen },
    sync := { s.sync with counts := SMap.zero 32 },
    hall := { s.hall with live := Vector.replicate 32 .on },
    lhall := { s.lhall with live := Vector.replicate 32 .on } }

/-- SELFTEST_DONE: the march used `spares` spares; an array class without one left ends the start-up (R343). -/
def selftest (exhausted : Option (Fin 5)) (spares : BitVec 32) (s : State) : State :=
  if s.clu.phase = .selftest ∧ !s.pwr.coolStopped then
    let s := { s with
      fuse := { s.fuse with soft := s.fuse.soft + spares.truncate 16 },
      test := { s.test with
        mbistFail := match exhausted with | some k => BitVec.ofNat 5 (2 ^ k.val) | none => 0, mbistSpares := spares } }
    match exhausted with
    | some k => bootFail (k.val + 2) s
    | none => { selftestZero s with clu := { s.clu with phase := .ready } }
  else s

def execSelftestDone (exhausted : Option (Fin 5)) (spares : BitVec 32) (s : State) : Host.Outcome State Fault Refusal :=
  .next (selftest exhausted spares s)

/-! ## SHA-384 (R345), from its definition: round constants from cube roots of primes, start values from square roots -/

/-- The primes below 410, the first eighty. -/
def shaPrimes : List Nat :=
  (List.range 410).filter fun p => 2 ≤ p && (List.range 21).all fun d => d < 2 || p ≤ d || p % d != 0

/-- The largest `r` below 2⁶⁸ with `r` to the power `k` at most `n`. -/
def floorRoot (k n : Nat) : Nat :=
  (List.range 68).foldl (fun r i => let c := r + 2 ^ (67 - i); if c ^ k ≤ n then c else r) 0

/-- The first 64 bits after the point of the `k`-th root of `p`. -/
def rootBits (k p : Nat) : BitVec 64 := BitVec.ofNat 64 (floorRoot k (p * 2 ^ (64 * k)))

/-- The exclusive or of words. -/
def xorAll (ws : List (BitVec 64)) : BitVec 64 := ws.foldl (· ^^^ ·) 0

/-- The message schedule, newest word first: `n` more words after those of the block. -/
def shaSchedule : Nat → List (BitVec 64) → List (BitVec 64)
  | 0, ws => ws
  | n + 1, ws =>
    let back (i : Nat) : BitVec 64 := ws.getD (i - 1) 0
    let mix (w : BitVec 64) (r q k : Nat) : BitVec 64 := xorAll [w.rotateRight r, w.rotateRight q, w >>> k]
    shaSchedule n ((back 16 + mix (back 15) 1 8 7 + back 7 + mix (back 2) 19 61 6) :: ws)

/-- One round on the eight chaining words, oldest last, with constant and schedule word summed. -/
def shaRound (hs : List (BitVec 64)) (kw : BitVec 64) : List (BitVec 64) :=
  match hs with
  | [a, b, c, d, e, f, g, h] =>
    let turn (w : BitVec 64) (rs : List Nat) : BitVec 64 := xorAll (rs.map w.rotateRight)
    let choose := f &&& e ||| g &&& ~~~e
    let most := a &&& (b ||| c) ||| b &&& c
    let t := h + turn e [14, 18, 41] + choose + kw
    [t + turn a [28, 34, 39] + most, a, b, c, d + t, e, f, g]
  | _ => hs

/-- The number that `bytes` hold in big-endian order. -/
def beNat (bytes : List (BitVec 8)) : Nat := leNat bytes.reverse

/-- One 128-byte block: 64-bit words in big-endian order, 80 rounds, and the sum with the chaining words. -/
def shaBlock (hs : List (BitVec 64)) (block : List (BitVec 8)) : List (BitVec 64) :=
  let words := (List.range 16).map fun i => BitVec.ofNat 64 (beNat ((block.drop (8 * i)).take 8))
  let sched := (shaSchedule 64 words.reverse).reverse
  let rounds := (shaPrimes.zip sched).foldl (fun x pw => shaRound x (rootBits 3 pw.1 + pw.2)) hs
  hs.zipWith (· + ·) rounds

/-- The padding block of a message of `n` bytes, a multiple of 128. -/
def shaPad (n : Nat) : List (BitVec 8) :=
  0x80 :: (List.replicate 119 0 ++ (leBytes (8 * n) 8).reverse)

/-- The eight bytes of a word in the reverse order: digest byte 8 i + j lies in bits [8j + 7 : 8j] of CLU_HASHi. -/
def swap64 (w : BitVec 64) : BitVec 64 := BitVec.ofNat 64 (beNat (leBytes w.toNat 8))

/-- SHA-384 of instruction-memory bytes 0 to `n` − 1, as CLU_HASH0 to CLU_HASH5 hold it. -/
def sha384 (s : State) (n : Nat) : Vector (BitVec 64) 6 :=
  let start := ((shaPrimes.drop 8).take 8).map (rootBits 2)
  let blocks := (List.range (n / 128)).map fun i => memRead s (Config.imemBase + 128 * i) 128
  let hs := (blocks ++ [shaPad n]).foldl shaBlock start
  Vector.ofFn fun i => swap64 (hs.getD i.val 0)

/-! ## CLU_HASH_CTL, CLU_MODE, CLU_FWID -/

/-- Bytes of the firmware part. -/
def State.fwBytes (s : State) : Nat := s.ush.fwTop.toNat * 4096

/-- A write of CLU_HASH_CTL (R345, R346). -/
def hashStart (v : BitVec 64) (s : State) : State :=
  if bitAt v 0 then
    if s.clu.phase ≠ .ready ∨ s.ush.run ∨ s.ush.fwTop = 0 ∨ s.clu.hashBusy then cluBad s
    else { s with clu := { s.clu with hashBusy := true, hashDone := false, hashLocked := true, hashAt := s.now } }
  else s

/-- HASH_DONE: 80 cycles for each block, and for the padding block. -/
def hashFinish (s : State) : State :=
  if s.clu.hashBusy ∧ s.clocked ∧ s.clu.hashAt + 80 * (s.fwBytes / 128 + 1) ≤ s.now then
    { s with clu := { s.clu with hashBusy := false, hashDone := true, digest := sha384 s s.fwBytes } }
  else s

def execHashDone (s : State) : Host.Outcome State Fault Refusal := .next (hashFinish s)

/-- A write of instruction memory below FW_TOP is ignored while the image is locked (R346). -/
def imemLocked (s : State) (a : Nat) : Bool := s.clu.hashLocked && a < Config.imemBase + s.fwBytes

/-- Some unit's PAGE_STAT.STATE is HELD. -/
def State.someHeld (s : State) : Bool :=
  s.opa[0].held || s.opa[1].held || s.tile.held.isSome || s.vec.held || s.vec.heldFlt ||
    allCtx.any fun nc => (s.ctx nc.1 nc.2).st == .held

/-- A write of CLU_MODE (R351). -/
def cluMode (v : BitVec 64) (s : State) : State :=
  let b := bitAt v 0
  if b = s.clu.inspect then s
  else if s.ush.task ≠ .running ∧ s.stepClosed ∧ s.queuesEmpty ∧ !s.someHeld then
    { s with clu := { s.clu with inspect := b, live := b } }
  else cluBad s

/-- A write of CLU_FWID (R348). -/
def cluFwid (v : BitVec 64) (s : State) : State :=
  if s.clu.fwidValid then s
  else { s with clu := { s.clu with fwVersion := v.extractLsb' 0 16, ifMajor := v.extractLsb' 16 8, fwidValid := true } }

end Sys2Proof.Machine
end

