-- ==== Sys2Proof/Machine/Status.lean ====
section
/-! DEFINITION. The live state that each unit's PAGE_STAT shows (R125, R146, R173, R196, R219, R245). -/

namespace Sys2Proof.Machine

/-- What the next command of array `a` waits for. -/
def State.opaWait (s : State) (a : Fin 2) : OpaNext :=
  match s.waiting? (opaQ a) with
  | some e => s.opaNext a e
  | none => .none

/-- STATE of an OPA page. -/
def State.opaState (s : State) (a : Fin 2) : Nat :=
  let x := s.opa[a]
  if x.held then 5
  else if x.left > 0 || s.now < x.freeAt then 1
  else match s.opaWait a with
    | .waitTile => 2
    | .waitBank => 3
    | _ => if x.pipe.isEmpty then 0 else 4

/-- STATE of the TILE page. -/
def State.tileState (s : State) : Nat :=
  let mine := s.reqs.filter fun r => r.unit == .tile
  if s.tile.held.isSome then 4
  else if s.tile.cfg.isSome then 2
  else if !mine.isEmpty then
    if mine.all fun r => match r.entry with | some e => s.blocked e | none => false then 3 else 1
  else match s.waiting? 2 with
    | some e =>
      let st := cOpc e.raw = 5
      if cOpc e.raw = 4 ∨ st then
        let t := (tmoveOf e.raw).t
        if (if st then s.loadLate t else s.opxUses t e.seq) then 2
        else if e.entries.length ≠ (e.operands).length && !canTake s (e.operands) then 3 else 0
      else 0
    | none => 0

/-- What the next command of queue 3 waits for, as VEC STATE codes it: 2 registers, 3 range table or tag, 4 a bank. -/
def State.vecWait (s : State) : Nat :=
  if s.vec.held || s.vec.heldFlt then 0
  else match s.waiting? 3 with
    | none => 0
    | some e =>
      let c := e.raw
      let opc := cOpc c
      let regs := s.unitFree (unitOf c) && !passOk s.build s.vec.runs e (readsWhole c) 0 s.now
      if opc < 0x0A ∨ opc = 0x1B ∨ opc = 0x1C ∨ opc = 0x1D then 0
      else if opc ≠ 0x1F ∧ regs then 2
      else if opc = 0x1A then
        if s.bankPending (Fin.ofNat 2 (fld c 19 1)) (Fin.ofNat 2 (fld c 20 1)) e.seq then 4 else 0
      else if opc = 0x1E ∧ goSrc c = 0 ∧ s.bankPending ((goArrays c).headD 0) (goBank c) e.seq then 4
      else if opc ≥ 0x14 ∧ (!s.mayTake e ∨ (opc = 0x1E ∧ e.entries.any s.blocked)) then 3
      else 0

/-- The Flight in progress waits for OPA1's bank (R16, R169). -/
def State.flightBankWait (s : State) : Bool :=
  s.vec.runs.any fun r => r.unit == .flight && goSrc r.e.raw == 0 && goArr r.e.raw == 2 && 2 * r.issued.length == r.n &&
    s.bankPending 1 (goBank r.e.raw) r.e.seq

/-- STATE of the VEC page. Where passes of one command issue while another command or pass waits, the wait is shown: the table gives no
order (DESIGN CHOICE, assumption 49). -/
def State.vecState (s : State) : Nat :=
  let mine := s.reqs.filter fun r => r.unit == .vec
  if s.vec.held || s.vec.heldFlt then 5
  else if s.vec.runs.mapIdx (fun i r => s.runHeld i r) |>.any id then 2
  else if s.vecWait ≠ 0 then s.vecWait
  else if s.flightBankWait then 4
  else if !mine.isEmpty && mine.all (fun r => match r.entry with | some e => s.blocked e | none => false) then 3
  else if !mine.isEmpty || !s.vec.runs.isEmpty || s.jobs.any (fun j => match j.kind with
      | .vload _ => true | .vstore _ => true | .flight _ _ => true | .tread _ => true | _ => false)
    then 1
  else 0

/-- STATE of the FLT page. -/
def State.fltState (s : State) : Nat :=
  if s.vec.heldFlt then 3
  else if s.jobs.any (fun j => match j.kind with | .flight _ _ => true | _ => false) then 1
  else match s.waiting? 3 with
    | some e => if cOpc e.raw = 0x1E && !s.vec.held && !s.flightReady e then 2 else 0
    | none => 0

/-- STATE of a STRM page. -/
def State.strmState (s : State) (n : Fin 4) : Nat :=
  let xs := s.strm[n].ctx.toList
  if xs.any fun x => x.st == .held then 3
  else match s.waiting? (strmQ n) with
    | some e =>
      let x := s.ctx n (cCtx e.raw)
      if cOpc e.raw = 0x07 && !(x.st == .idle && x.pend.isNone) then 2 else 1
    | none => if (s.queue (strmQ n)).cmds.isEmpty && xs.all fun x => x.st == .idle then 0 else 1

/-- STATE of the HALL and LHALL pages: 2 where some group wakes, else 1 where some is RETAIN or OFF. -/
def State.tierState (s : State) (t : Tier) : Nat :=
  let xs := (s.tier t).live.toList.take (groups s.build t)
  if xs.any fun p => p.code == 3 then 2 else if xs.any fun p => p.code != 0 then 1 else 0

end Sys2Proof.Machine
end

