-- ==== Sys2Proof/Machine/Test.lean ====
section
/-! DEFINITION. The inspection access of the TEST page (R386, R387), the TAP and the wrapper (R366, R367). -/

namespace Sys2Proof.Machine

/-! ## TEST_IACC (R386) -/

/-- An inspection target, once its KIND, UNIT and INDEX are sound. -/
inductive ITarget where
  | reg (t : Fin 16) (r : Nat)
  | lane (r e : Nat)
  | mask (k w : Nat)
  | tile (t : Fin 16) (w : Nat)
  | acc (a b : Fin 2) (i : Nat)

def iTarget (s : State) (kind unit index : Nat) : Option ITarget :=
  match kind with
  | 0 => if unit < 16 ∧ index < 32 then some (.reg (Fin.ofNat 16 unit) index) else none
  | 1 => if unit < 32 ∧ index < 32 * s.build.vlen then some (.lane unit index) else none
  | 2 => if unit < 8 ∧ index < 32 * s.build.vlen / 64 then some (.mask unit index) else none
  | 3 => if unit < 16 ∧ index < 8192 then some (.tile (Fin.ofNat 16 unit) index) else none
  | 4 => if unit < 4 ∧ index < 16384 then some (.acc (Fin.ofNat 2 (unit / 2)) (Fin.ofNat 2 unit) index) else none
  | _ => none

/-- A use of tile register `t` is in flight (R138). -/
def State.tileInUse (s : State) (t : Fin 16) : Bool :=
  s.loading t || s.jobs.any (fun j => match j.tileEntry? with | some e => cTreg e.raw == t | none => false) ||
    (List.finRange 2).any (fun a => s.opa[a].tiles.contains t)

/-- The unit is IDLE or HELD. -/
def iFree (s : State) : ITarget → Bool
  | .reg t _ => match (s.thread t).st with | .free => true | .halted => true | .faulted => true | _ => false
  | .lane _ _ => s.vecState == 0 || s.vecState == 5
  | .mask _ _ => s.vecState == 0 || s.vecState == 5
  | .tile t _ => (s.tileState == 0 || s.tileState == 4) && !s.tileInUse t
  | .acc a _ _ => s.opaState a == 0 || s.opaState a == 5

/-- The bank byte of an 8-byte word of a tile register (R386). -/
def iTileKey (t : Fin 16) (w : Nat) : Nat :=
  let l := w / 8
  (l % 64 * 256 + 16 * t.val + l / 64) * 64 + 8 * (w % 8)

def iRead (s : State) : ITarget → BitVec 64
  | .reg t r => if r = 0 then (s.thread t).pc.zeroExtend 64 else (s.thread t).reg (Fin.ofNat 32 r)
  | .lane r e => (s.lane r e).zeroExtend 64
  | .mask k w => BitVec.ofNat 64 (natSum 64 fun i => b2n (s.mask k (64 * w + i)) * 2 ^ i)
  | .tile t w => BitVec.ofNat 64 (leNat ((List.range 8).map fun i => s.tile.words.get (iTileKey t w + i)))
  | .acc a b i => ((s.opa[a].banks[b]).cells.get i).zeroExtend 64

def iWrite (v : BitVec 64) (s : State) : ITarget → State
  | .reg t r =>
    if r = 0 then modThread t (fun th => { th with pc := v.truncate 18 }) s
    else modThread t (fun th => th.setReg (Fin.ofNat 32 r) v) s
  | .lane r e => { s with vec := { s.vec with v := s.vec.v.set (65536 * r + e) (v.truncate 32) } }
  | .mask k w =>
    if k = 0 then s
    else { s with vec := { s.vec with k := s.vec.k.fill (65536 * k + 64 * w) 64 fun i => v.extractLsb' i 1 } }
  | .tile t w =>
    { s with tile := { s.tile with words := s.tile.words.fill (iTileKey t w) 8 fun i => v.extractLsb' (8 * i) 8 } }
  | .acc a b i =>
    modOpa a (fun x => { x with banks := x.banks.set b { x.banks[b] with cells := (x.banks[b]).cells.set i (v.truncate 32) } }) s

/-- A PC write that is no multiple of 4. -/
def iBadPc (wr : Bool) (v : BitVec 64) : ITarget → Bool
  | .reg _ r => wr && r == 0 && fld v 0 2 != 0
  | _ => false

/-- The access itself: ERR, and the state after it. -/
def iAccess (kind unit index : Nat) (wr : Bool) (s : State) : Nat × State :=
  if wr && !s.clu.live then (3, s)
  else match iTarget s kind unit index with
    | none => (1, s)
    | some x =>
      if iBadPc wr s.test.idata x then (1, s)
      else if !iFree s x then (2, s)
      else if wr then (0, iWrite s.test.idata s x)
      else (0, { s with test := { s.test with idata := iRead s x } })

/-- A write of TEST_IACC. -/
def iacc (v : BitVec 64) (s : State) : State :=
  let r := iAccess (fld v 0 3) (fld v 8 8) (fld v 16 32) (bitAt v 3) s
  { r.2 with test := { r.2.test with
      iKind := v.extractLsb' 0 3, iOp := bitAt v 3, iErr := BitVec.ofNat 3 r.1, iUnit := v.extractLsb' 8 8,
      iIndex := v.extractLsb' 16 32 } }

/-! ## Test ports (R366, R367, R339) -/

/-- MBIST_RUN and the wrapper instructions but WS_BYPASS take effect only in RESET or FAILED. -/
def State.testable (s : State) : Bool := s.clu.phase = .reset || s.clu.phase = .failed

/-- A TAP instruction is loaded. Its status bit is 0 where MBIST_RUN does nothing (R367), and 1 otherwise (DEDUCED,
assumption 54). -/
def setIr (code : Nat) (s : State) : State :=
  { s with test := { s.test with tapIr := BitVec.ofNat 5 code, irOk := code != 0x08 || s.testable } }

/-- IDCODE of stepping A0. -/
def idcode : BitVec 32 := 0x04A0476B

def execTapIdcode (s : State) : Host.Outcome State Fault Refusal :=
  .next { setIr 0x01 s with test := { (setIr 0x01 s).test with tapDr := idcode.zeroExtend 4096 } }

def execTapFuseread (s : State) : Host.Outcome State Fault Refusal :=
  .next { setIr 0x04 s with test := { (setIr 0x04 s).test with tapDr := s.fuse.raw } }

def execTapMbistRun (s : State) : Host.Outcome State Fault Refusal :=
  .next { setIr 0x08 s with test := { (setIr 0x08 s).test with tapDr := 0, mbistBusy := s.test.mbistBusy || s.testable } }

def execTapMbistResult (s : State) : Host.Outcome State Fault Refusal :=
  .next { setIr 0x09 s with test := { (setIr 0x09 s).test with tapDr := s.test.mbistResult.zeroExtend 4096 } }

def execTapBypass (s : State) : Host.Outcome State Fault Refusal :=
  .next { setIr 0x1F s with test := { (setIr 0x1F s).test with tapDr := 0 } }

/-- The march ends: the classes without a spare left, and the spares used, which are soft repairs (R343). The 512 result bits
beyond these are not stated (assumption 15). -/
def marchDone (r : MarchResult) (s : State) : State :=
  if s.test.mbistBusy then
    let w := (List.range 8).foldl (fun (acc : BitVec 512) i =>
      acc ||| ((Config.freeBits (s.freeIx + i)).zeroExtend 512 <<< (64 * i))) 0
    { s with
      freeIx := s.freeIx + 8,
      fuse := { s.fuse with soft := s.fuse.soft + r.spares.truncate 16 },
      test := { s.test with mbistBusy := false, mbistFail := r.fail, mbistSpares := r.spares, mbistResult := w } }
  else s

def execMbistMarchDone (r : MarchResult) (s : State) : Host.Outcome State Fault Refusal := .next (marchDone r s)

/-- A wrapper instruction is loaded; it is in effect only where R367 lets it, and its status bit says so. -/
def wrapper (code : Nat) (s : State) : State :=
  { s with test := { s.test with
      wrapper := BitVec.ofNat 3 code, wrActive := code != 0 && s.testable, wirOk := code == 0 || s.testable } }

def execWsBypass (s : State) : Host.Outcome State Fault Refusal := .next (wrapper 0 s)
def execWsExtest (s : State) : Host.Outcome State Fault Refusal := .next (wrapper 1 s)
def execWsIntest (s : State) : Host.Outcome State Fault Refusal := .next (wrapper 2 s)
def execWsBondtest (s : State) : Host.Outcome State Fault Refusal := .next (wrapper 3 s)
def execWsUcieloop (s : State) : Host.Outcome State Fault Refusal := .next (wrapper 4 s)

/-- TEST_RESET: the TAP controller and the wrapper; mission state is unchanged. -/
def execTestReset (s : State) : Host.Outcome State Fault Refusal :=
  .next { s with test := { s.test with tapIr := 1, tapDr := 0, irOk := true, wirOk := true, wrapper := 0, wrActive := false, mbistBusy := false } }

end Sys2Proof.Machine
end

