-- ==== Sys2Proof/Machine/RegRead.lean ====
section
/-! DEFINITION. What each register reads as (R48, R78, R125, R146, R173, R196, R219, R245, R273, R297, R325, R338, R353,
R373, R380, R385, R388), and the fields that a read clears (R8, R371). -/

namespace Sys2Proof.Machine

/-! ## Read-to-clear fields -/

/-- A field that a read clears: its page, register and place; `high` is the value a largest-value field clears to. -/
structure Rc where
  page : Page
  off : Nat
  lo : Nat
  high : Option Nat
  get : State → Nat
  set : Nat → State → State

def rcOf {w : Nat} (p : Page) (off lo : Nat) (high : Option Nat) (get : State → BitVec w)
    (set : State → BitVec w → State) : Rc :=
  ⟨p, off, lo, high, fun s => (get s).toNat, fun n s => set s (BitVec.ofNat w n)⟩

def rcOpa (a : Fin 2) : List Rc :=
  let p := Page.opa a
  [rcOf p 0x58 0 none (fun s => s.opa[a].zgated) fun s v => modOpa a (fun x => { x with zgated := v }) s,
   rcOf p 0x60 0 none (fun s => s.opa[a].waitTile) fun s v => modOpa a (fun x => { x with waitTile := v }) s,
   rcOf p 0x60 32 none (fun s => s.opa[a].waitBank) fun s v => modOpa a (fun x => { x with waitBank := v }) s]

def rcTier (t : Tier) : List Rc :=
  let p := Page.tier t
  [rcOf p 0x50 0 none (fun s => (s.tier t).inner) fun s v => modTier t (fun x => { x with inner := v }) s,
   rcOf p 0x50 32 none (fun s => (s.tier t).outer) fun s v => modTier t (fun x => { x with outer := v }) s,
   rcOf p 0x58 0 none (fun s => (s.tier t).lost) fun s v => modTier t (fun x => { x with lost := v }) s,
   rcOf p 0x58 32 none (fun s => (s.tier t).mgmt) fun s v => modTier t (fun x => { x with mgmt := v }) s]

def rcStrm (n : Fin 4) : List Rc :=
  let p := Page.strm n
  [rcOf p 0x48 8 (some 0) (fun s => s.strm[n].outHigh) fun s v => modStrm n (fun x => { x with outHigh := v }) s,
   rcOf p 0x58 0 none (fun s => s.strm[n].waitAhead) fun s v => modStrm n (fun x => { x with waitAhead := v }) s,
   rcOf p 0x58 32 none (fun s => s.strm[n].waitTag) fun s v => modStrm n (fun x => { x with waitTag := v }) s,
   rcOf p 0x68 0 none (fun s => s.strm[n].rearm) fun s v => modStrm n (fun x => { x with rearm := v }) s]

def rcGal (g : Fin 4) : List Rc :=
  let p := Page.gal g
  [rcOf p 0x60 0 none (fun s => s.gal[g].retries) fun s v => modGal g (fun x => { x with retries := v }) s,
   rcOf p 0x60 32 none (fun s => s.gal[g].limited) fun s v => modGal g (fun x => { x with limited := v }) s,
   rcOf p 0x68 0 none (fun s => s.gal[g].switches) fun s v => modGal g (fun x => { x with switches := v }) s,
   rcOf p 0x78 0 none (fun s => s.gal[g].sent) fun s v => modGal g (fun x => { x with sent := v }) s,
   rcOf p 0x78 32 none (fun s => s.gal[g].received) fun s v => modGal g (fun x => { x with received := v }) s]

def rcErr (c : Fin 5) : Rc :=
  rcOf .fab 0x78 (8 * c.val) none (fun s => s.fab.err[c]) fun s v => modFab (fun x => { x with err := x.err.set c v }) s

def rcUnits : List Rc :=
  [rcOf .ush 0x60 8 (some 0) (fun s => s.ush.rangeHigh) (fun s v => { s with ush := { s.ush with rangeHigh := v } }),
   rcOf .ush 0x60 16 none (fun s => s.ush.pushWaits) (fun s v => { s with ush := { s.ush with pushWaits := v } }),
   rcOf .step 0x78 32 (some 0) (fun s => s.step.maxUsed) (fun s v => { s with step := { s.step with maxUsed := v } }),
   rcOf .tile 0x58 0 none (fun s => s.tile.loaded) (fun s v => { s with tile := { s.tile with loaded := v } }),
   rcOf .tile 0x58 32 none (fun s => s.tile.stored) (fun s v => { s with tile := { s.tile with stored := v } }),
   rcOf .tile 0x60 0 none (fun s => s.tile.waitUse) (fun s v => { s with tile := { s.tile with waitUse := v } }),
   rcOf .tile 0x60 32 none (fun s => s.tile.waitFeed) (fun s v => { s with tile := { s.tile with waitFeed := v } }),
   rcOf .vec 0x58 0 none (fun s => s.vec.oobPerm) (fun s v => { s with vec := { s.vec with oobPerm := v } }),
   rcOf .vec 0x58 32 none (fun s => s.vec.oobIdx) (fun s v => { s with vec := { s.vec with oobIdx := v } }),
   rcOf .vec 0x68 0 none (fun s => s.vec.rdCyc) (fun s v => { s with vec := { s.vec with rdCyc := v } }),
   rcOf .vec 0x70 0 none (fun s => s.vec.waitReg) (fun s v => { s with vec := { s.vec with waitReg := v } }),
   rcOf .vec 0x70 32 none (fun s => s.vec.waitBank) (fun s v => { s with vec := { s.vec with waitBank := v } }),
   rcOf .flt 0x50 0 none (fun s => s.flt.elems) (fun s v => { s with flt := { s.flt with elems := v } })]

def rcRest : List Rc :=
  [rcOf .land 0x58 0 none (fun s => s.land.spills) (fun s v => { s with land := { s.land with spills := v } }),
   rcOf .land 0x58 32 none (fun s => s.land.refills) (fun s v => { s with land := { s.land with refills := v } }),
   rcOf .land 0x60 0 none (fun s => s.land.waitCycles) (fun s v => { s with land := { s.land with waitCycles := v } }),
   rcOf .fab 0x48 16 (some 0) (fun s => s.fab.outHigh) (fun s v => { s with fab := { s.fab with outHigh := v } }),
   rcOf .fab 0x78 40 none (fun s => s.fab.limited) (fun s v => { s with fab := { s.fab with limited := v } }),
   rcOf .fab 0x80 0 none (fun s => s.fab.sent) (fun s v => { s with fab := { s.fab with sent := v } }),
   rcOf .fab 0x80 32 none (fun s => s.fab.received) (fun s v => { s with fab := { s.fab with received := v } }),
   rcOf .win 0x50 0 none (fun s => s.win.refused) (fun s v => { s with win := { s.win with refused := v } }),
   rcOf .sync 0x58 0 none (fun s => s.sync.relWait) (fun s v => { s with sync := { s.sync with relWait := v } }),
   rcOf .que 0x58 0 none (fun s => s.sync.queRefused) (fun s v => { s with sync := { s.sync with queRefused := v } }),
   rcOf .pwr 0x60 0 none (fun s => s.pwr.bubbles) (fun s v => { s with pwr := { s.pwr with bubbles := v } }),
   rcOf .pwr 0x68 0 none (fun s => s.pwr.lvl1) (fun s v => { s with pwr := { s.pwr with lvl1 := v } }),
   rcOf .pwr 0x68 21 none (fun s => s.pwr.lvl2) (fun s v => { s with pwr := { s.pwr with lvl2 := v } }),
   rcOf .pwr 0x68 42 none (fun s => s.pwr.lvl3) (fun s v => { s with pwr := { s.pwr with lvl3 := v } }),
   rcOf .pwr 0x78 0 none (fun s => s.pwr.opChg) (fun s v => { s with pwr := { s.pwr with opChg := v } }),
   rcOf .therm 0x48 0 (some 0x800) (fun s => s.therm.logicMax) (fun s v => { s with therm := { s.therm with logicMax := v } }),
   rcOf .therm 0x48 16 (some 0x800) (fun s => s.therm.tierMax) (fun s v => { s with therm := { s.therm with tierMax := v } }),
   rcOf .mgmt 0x98 0 none (fun s => s.mgmt.cntMem) (fun s v => { s with mgmt := { s.mgmt with cntMem := v } }),
   rcOf .mgmt 0x98 32 none (fun s => s.mgmt.cntErr) (fun s v => { s with mgmt := { s.mgmt with cntErr := v } })]

/-- Every read-to-clear field; `State.rcOld` follows this order. -/
def rcCounters : List Rc :=
  rcUnits ++ (List.finRange 2).flatMap rcOpa ++ rcTier .hall ++ rcTier .lower ++ (List.finRange 4).flatMap rcStrm ++
    (List.finRange 4).flatMap rcGal ++ (List.finRange 5).map rcErr ++ rcRest

/-- The fields of one register, with their numbers. -/
def rcAt (p : Page) (off : Nat) : List (Nat × Rc) :=
  (rcCounters.mapIdx fun i r => (i, r)).filter fun x => x.2.page == p && x.2.off == off

/-- What a field reads as: a counter its value at the start of the cycle (R371). -/
def rcVal (s : State) (i : Nat) (r : Rc) : Nat :=
  match r.high with
  | some _ => r.get s
  | none => (s.rcOld[i]?).getD (r.get s)

/-- A read leaves a counter the increments of this cycle, and a largest value its clear value. -/
def rcClear (x : Nat × Rc) (s : State) : State :=
  match x.2.high with
  | some c => x.2.set c s
  | none => { x.2.set (x.2.get s - rcVal s x.1 x.2) s with rcOld := s.rcOld.set x.1 0 }

/-! ## The common header (R373) -/

/-- TYPE and INSTANCE of the directory (R372). -/
def Page.typ : Page → Nat × Nat
  | .clu => (1, 0) | .ush => (2, 0) | .step => (3, 0) | .lat => (4, 0) | .opa0 => (0x10, 0) | .opa1 => (0x10, 1)
  | .tile => (0x11, 0) | .vec => (0x12, 0) | .flt => (0x13, 0) | .hall => (0x20, 0) | .lhall => (0x21, 0)
  | .land => (0x22, 0) | .strm0 => (0x30, 0) | .strm1 => (0x30, 1) | .strm2 => (0x30, 2) | .strm3 => (0x30, 3)
  | .galN => (0x31, 0) | .galE => (0x31, 1) | .galS => (0x31, 2) | .galW => (0x31, 3) | .fab => (0x32, 0)
  | .win => (0x33, 0) | .sync => (0x40, 0) | .que => (0x41, 0) | .pwr => (0x50, 0) | .therm => (0x51, 0)
  | .evt => (0x60, 0) | .mgmt => (0x61, 0) | .test => (0x62, 0) | .fuse => (0x63, 0)

def pageId (p : Page) : BitVec 64 := put 0 p.typ.1 ||| put 8 p.typ.2 ||| put 16 p.slot.val ||| put 40 1

def galCap (s : State) (g : Fin 4) : BitVec 64 := if s.build.crossDie[g] then put 0 1 ||| put 4 4 else 0

def pageCap (s : State) : Page → BitVec 64
  | .vec => put 0 s.build.lanes.val ||| put 16 s.build.vlen
  | .lhall => put 0 (b2n s.build.tiers2)
  | .land => put 0 0x40
  | .strm0 | .strm1 | .strm2 | .strm3 => put 0 4 ||| put 8 0x80
  | .galN => galCap s 0 | .galE => galCap s 1 | .galS => galCap s 2 | .galW => galCap s 3
  | .pwr => put 0 s.fuse.fmaxOp.toNat ||| put 8 s.fuse.pcapMax.toNat
  | .therm => put 0 8 ||| put 4 (if s.build.tiers2 then 8 else 4)
  | _ => 0

def opaStat (s : State) (a : Fin 2) : BitVec 64 :=
  let x := s.opa[a]
  put 0 (s.opaState a) ||| put 4 x.shape.toNat ||| put 7 (b2n x.bank) ||| put 16 x.beatIdx.toNat

def tierStat (s : State) (t : Tier) : BitVec 64 := put 0 (s.tierState t) ||| put 2 (b2n (s.tier t).scrubBusy)

def strmStat (s : State) (n : Fin 4) : BitVec 64 :=
  (List.finRange 4).foldl (fun acc c =>
    let x := s.strm[n].ctx[c]
    acc ||| put (4 + c.val) (b2n (x.st != .idle)) ||| put (8 + c.val) (b2n x.pend.isSome)) (put 0 (s.strmState n))

def galStat (s : State) (g : Fin 4) : BitVec 64 :=
  let x := s.gal[g]
  put 0 x.link.code ||| put 8 x.version.toNat ||| put 16 x.modulesLive.toNat ||| put 20 x.recalMod.toNat |||
    put 24 x.passed.toNat

def pwrStat (s : State) : BitVec 64 :=
  put 0 s.pwr.op.toNat ||| put 8 s.capForce ||| put 20 s.pwr.dens.toNat ||| put 24 s.level |||
    put 26 (b2n s.pwr.switching) ||| put 27 (b2n s.pwr.coolStopped)

/-- PAGE_STAT without EVT_ANY. -/
def pageStat (s : State) : Page → BitVec 64
  | .opa0 => opaStat s 0 | .opa1 => opaStat s 1
  | .tile => put 0 s.tileState ||| put 8 s.tile.landbuf.length
  | .vec => put 0 s.vecState ||| put 3 (b2n (!s.pathFree))
  | .flt => put 0 s.fltState ||| put 8 s.flt.lastDef.toNat
  | .hall => tierStat s .hall | .lhall => tierStat s .lower
  | .land => put 0 (b2n (s.land.rings.toList.any fun r => r.xfer.isSome))
  | .strm0 => strmStat s 0 | .strm1 => strmStat s 1 | .strm2 => strmStat s 2 | .strm3 => strmStat s 3
  | .galN => galStat s 0 | .galE => galStat s 1 | .galS => galStat s 2 | .galW => galStat s 3
  | .fab => put 0 s.fab.link.code ||| put 8 s.fab.version.toNat
  | .pwr => pwrStat s
  | .therm => put 0 (b2n (s.therm.hot != 0))
  | .evt => put 0 (b2n s.fatalPin) ||| put 1 (b2n s.attnPin)
  | .mgmt => put 0 (b2n s.mgmt.pending)
  | _ => 0

def headerRead (s : State) (p : Page) (off : Nat) : BitVec 64 :=
  let h := s.hdrOf p
  match off with
  | 0x00 => pageId p
  | 0x08 => pageCap s p
  | 0x10 => put 48 h.tag.toNat
  | 0x18 => pageStat s p ||| put 63 (b2n (h.evt != 0))
  | 0x20 => put 0 h.evt.toNat
  | 0x28 => put 0 h.mask.toNat
  | 0x30 => h.log
  | 0x38 => put 0 h.seq.toNat ||| put 32 h.logSeq.toNat
  | _ => 0

/-! ## The registers of each page, without their read-to-clear fields -/

/-- The index of a register array of `n` entries, `k` bytes apart from `base`. -/
def regIx (base k n off : Nat) : Option Nat :=
  if base ≤ off ∧ off < base + k * n ∧ (off - base) % k = 0 then some ((off - base) / k) else none

def cluRead (s : State) (off : Nat) : BitVec 64 :=
  let c := s.clu
  match off with
  | 0x40 => put 0 (b2n c.wdogEn) ||| put 16 c.wdogPeriod.toNat
  | 0x50 => put 0 c.wdogExpired.toNat ||| put 32 (c.wdogLeft / 1024)
  | 0x60 => put 0 (b2n c.inspect) ||| put 8 (b2n c.live)
  | 0x68 => put 0 c.phase.code ||| put 4 c.cause.toNat ||| put 8 c.resets.toNat
  | 0x70 => put 1 (b2n c.hashBusy) ||| put 2 (b2n c.hashDone) ||| put 3 (b2n c.hashLocked)
  | 0xB0 => put 0 c.fwVersion.toNat ||| put 16 c.ifMajor.toNat ||| put 63 (b2n c.fwidValid)
  | _ => match regIx 0x80 8 6 off with | some i => (c.digest[i]?).getD 0 | none => 0

def ushRead (s : State) (off : Nat) : BitVec 64 :=
  let u := s.ush
  match off with
  | 0x40 => put 0 (b2n u.run)
  | 0x48 => put 12 u.fwTop.toNat
  | 0x50 => put 0 u.taskId.toNat ||| put 32 u.task.code
  | 0x58 => (u.queues.mapFinIdx fun q x _ => put (8 * q) x.count).toList.foldl (· ||| ·) 0
  | 0x60 => put 0 s.inUse
  | 0x68 => put 0 u.pushSeq.toNat
  | _ => match regIx 0x100 8 16 off with
    | some t =>
      let th := s.thread (Fin.ofNat 16 t)
      put 0 (th.pc.toNat / 4 * 4) ||| put 20 th.st.code ||| put 24 th.fault.toNat ||| put 32 th.issued.toNat
    | none => 0

def stepRead (s : State) (off : Nat) : BitVec 64 :=
  let x := s.step
  match off with
  | 0x40 => put 0 (b2n s.wMode) ||| put 1 (b2n x.enable) ||| put 16 s.wMask.toNat ||| put 32 s.wLead.toNat
  | 0x48 => put 0 s.wLen.toNat
  | 0x50 => put 0 s.wSlack.toNat
  | 0x58 => put 0 s.wGuard.toNat
  | 0x60 => put 0 x.index.toNat ||| put 32 x.phase.code ||| put 35 (b2n x.lastStretched) ||| put 36 (b2n x.modeLive)
  | 0x68 => put 0 x.cycle.toNat
  | 0x70 => put 0 x.mtime.toNat
  | 0x78 => put 0 x.lastUsed.toNat
  | _ => 0

def opaRead (s : State) (a : Fin 2) (off : Nat) : BitVec 64 :=
  let x := s.opa[a]
  match off with
  | 0x40 => put 0 (b2n x.zgEn)
  | 0x48 => put 0 (b2n (x.banks[(0 : Fin 2)]).int32) ||| put 1 (b2n (x.banks[(1 : Fin 2)]).int32) ||| put 8 (b2n x.sat) |||
      put 9 (b2n x.nan) ||| put 10 (b2n x.inf)
  | 0x50 => put 0 x.beats.toNat
  | _ => 0

def tileRegRead (r : TileReg) : BitVec 64 :=
  match r.shape with
  | some h => put 0 h.fmt.toNat ||| put 4 (b2n h.bax) ||| put 8 (h.rows - 1) ||| put 18 (h.cols - 1) |||
      put 32 (Nat.log2 h.pitch) ||| put 63 1
  | none => 0

def tilePageRead (s : State) (off : Nat) : BitVec 64 :=
  let x := s.tile
  match off with
  | 0x40 => put 0 (b2n x.pause)
  | 0x48 => put 0 x.startRow.toNat ||| put 16 x.startTreg.toNat ||| put 20 x.startKind.toNat ||| put 24 x.startCause.toNat |||
      put 32 x.startSeq.toNat
  | 0x50 => (x.regs.mapFinIdx fun t r _ => put t (b2n r.shape.isSome)).toList.foldl (· ||| ·) 0
  | _ => match regIx 0x100 8 16 off with
    | some t => tileRegRead x.regs[Fin.ofNat 16 t]
    | none => 0

def vecRead (s : State) (off : Nat) : BitVec 64 :=
  let x := s.vec
  match off with
  | 0x48 => put 0 (b2n x.permOob) ||| put 1 (b2n x.idxOob) ||| put 32 x.vl
  | 0x50 => put 0 x.faultLane.toNat ||| put 16 x.faultCode.toNat ||| put 20 (b2n x.faultInactive) ||| put 32 x.faultSeq.toNat
  | 0x60 => put 0 x.passes.toNat
  | _ => 0

def fltRead (s : State) (off : Nat) : BitVec 64 :=
  let x := s.flt
  match off with
  | 0x40 => (List.range 64).foldl (fun acc p => acc ||| put p (b2n (x.treads.get p != 0))) 0
  | 0x48 => put 0 x.faultCode.toNat ||| put 4 x.faultStage.toNat ||| put 8 x.faultPos.toNat ||| put 32 x.faultSeq.toNat
  | _ => 0

/-- HALL_PWR_STAT; an absent segment reads OFF. -/
def powerRead (s : State) (t : Tier) : BitVec 64 :=
  let n := groups s.build t
  ((s.tier t).live.mapFinIdx fun g p _ =>
    if g < n then put (2 * g) p.code else match t with | .hall => 0 | .lower => put (2 * g) 2).toList.foldl (· ||| ·) 0

def tierRead (s : State) (t : Tier) (off : Nat) : BitVec 64 :=
  let h := s.tier t
  match off with
  | 0x40 => match h.tgtPend with | some (_, v) => v | none => h.tgt
  | 0x48 => powerRead s t
  | 0x60 => put 1 (b2n h.scrubBusy) ||| put 16 (s.scrubRow t % 4096) ||| put 32 h.scrubPasses.toNat
  | _ => 0

def landRead (s : State) (off : Nat) : BitVec 64 :=
  let x := s.land
  match off with
  | 0x40 =>
    let r := s.ring (Fin.ofNat 64 x.tagqRing.toNat)
    let y := match r.slots[x.tagqSlot.toNat]? with | some y => y | none => emptySlot
    put 0 x.tagqRing.toNat ||| put 8 x.tagqSlot.toNat ||| put 16 y.tag.code ||| put 32 y.entry.toNat
  | 0x50 => put 0 x.hazRing.toNat ||| put 8 x.hazSlot.toNat ||| put 16 (b2n x.hazRead) ||| put 17 (b2n x.hazValid)
  | _ => match regIx 0x100 8 256 off with
    | some i =>
      let l : Fin 64 := Fin.ofNat 64 (i / 4)
      let r := s.ring l
      (match i % 4 with
      | 0 => r.cfg
      | 1 => r.ovf
      | 2 => put 0 r.wseq.toNat ||| put 32 r.rseq.toNat
      | _ => put 0 (r.slots.filter fun y => y.tag == .full).length ||| put 16 (b2n r.xfer.isSome) |||
          put 17 (b2n (s.tagWaits.any fun g => g.1 == l)) ||| put 32 r.region.length)
    | none => 0

def ctxRead (x : Ctx) (k : Nat) : BitVec 64 :=
  match k with
  | 0 => put 0 x.lookahead.toNat ||| put 4 (b2n x.link) ||| put 5 (b2n x.fillEn) ||| put 8 x.fill.toNat ||| put 32 x.free.toNat
  | 1 => put 0 x.st.code ||| put 2 (b2n x.pend.isSome) ||| put 4 (x.tiles.filter fun t => !t.complete).length |||
      put 32 x.d.toNat
  | 2 => put 0 (match x.gen with | some g => g.next % 2 ^ 32 | none => 0) ||| put 32 x.gens.toNat
  | _ => put 0 x.b.toNat

def strmRead (s : State) (n : Fin 4) (off : Nat) : BitVec 64 :=
  let x := s.strm[n]
  match off with
  | 0x48 => put 0 (s.strmOut n)
  | 0x50 => put 0 x.moved.toNat
  | 0x60 => put 0 x.faultCtx.toNat ||| put 4 x.faultCode.toNat ||| put 8 x.faultRow.toNat ||| put 32 x.faultDesc.toNat
  | _ => match regIx 0x100 8 16 off with
    | some i => ctxRead x.ctx[Fin.ofNat 4 (i / 4)] (i % 4)
    | none => 0

def rateRead (rate burst : BitVec 8) : BitVec 64 := put 0 rate.toNat ||| put 16 burst.toNat

def galRegRead (s : State) (g : Fin 4) (off : Nat) : BitVec 64 :=
  let x := s.gal[g]
  match off with
  | 0x40 => put 1 (b2n x.recalEn) ||| put 8 x.recalPeriod.toNat
  | 0x48 => capLocal s (.gal g)
  | 0x50 => x.capPeer
  | 0x58 => rateRead x.rate x.burst
  | 0x68 => put 32 x.recals.toNat
  | 0x70 => put 0 x.repaired.toNat ||| put 16 x.retired.toNat
  | _ => match regIx 0x100 8 32 off with
    | some i => if i % 2 = 0 then x.relay[Fin.ofNat 16 (i / 2)] else x.delta[Fin.ofNat 16 (i / 2)]
    | none => 0

def fabRegRead (s : State) (off : Nat) : BitVec 64 :=
  let x := s.fab
  match off with
  | 0x40 => put 0 x.wheel.toNat
  | 0x48 => put 0 s.fabOut
  | 0x50 => put 0 x.node.toNat ||| put 16 x.die.toNat ||| put 19 x.cluster.toNat
  | 0x58 => capLocal s .fab
  | 0x60 => x.capPeer
  | 0x68 => rateRead x.rate x.burst
  | _ => 0

def winRead (s : State) (off : Nat) : BitVec 64 :=
  match off with
  | 0x40 => (s.win.windows.mapFinIdx fun w x _ => put w (b2n x.en)).toList.foldl (· ||| ·) 0
  | 0x48 => (List.finRange 64).foldl (fun acc w => acc ||| put w.val (b2n (s.winBusy w))) 0
  | _ => match regIx 0x100 8 256 off with
    | some i =>
      let x := s.win.windows[Fin.ofNat 64 (i / 4)]
      (match i % 4 with
      | 0 => x.ctl
      | 1 => put 12 x.base.toNat ||| put 40 x.sizeLog2.toNat
      | 2 => put 0 x.target.toNat ||| put 32 x.cntLo.toNat ||| put 48 x.cntHi.toNat
      | _ => put 0 x.node.toNat ||| put 16 x.die.toNat ||| put 19 x.cluster.toNat ||| put 32 x.nodeMask.toNat |||
          put 48 x.dieMask.toNat ||| put 51 x.clusterMask.toNat)
    | none => 0

/-- Threads in WAIT_SYNC on a sync object. -/
def State.objWaiters (s : State) : Nat :=
  (allThreads.filter fun t => match (s.thread t).st with | .waitSync (.obj _ _ _) => true | _ => false).length

def syncRead (s : State) (off : Nat) : BitVec 64 :=
  match off with
  | 0x40 => put 0 s.sync.sel.toNat
  | 0x48 => put 0 (syncGet s s.sync.sel.toNat).toNat
  | 0x50 => put 0 s.objWaiters ||| put 8 s.postedAtoms
  | _ => 0

def queRead (s : State) (off : Nat) : BitVec 64 :=
  let x := s.que s.sync.queSel.toNat
  match off with
  | 0x40 => put 0 s.sync.queSel.toNat
  | 0x48 => put 0 (b2n x.en) ||| put 8 x.depthLog2.toNat ||| put 32 x.base.toNat
  | 0x50 => put 0 (x.head % 2 ^ 16) ||| put 16 (x.res % 2 ^ 16) ||| put 32 (x.tail % 2 ^ 16)
  | _ => 0

def pwrRead (s : State) (off : Nat) : BitVec 64 :=
  let x := s.pwr
  match off with
  | 0x40 => put 0 s.wCap.toNat
  | 0x48 => put 0 (x.pWin.getD x.win).toNat
  | 0x50 => put 0 x.capIn.toNat ||| put 16 x.opIn.toNat
  | 0x58 => put 0 (eighths x.dem).toNat ||| put 16 (eighths x.leak).toNat
  | 0x70 => put 0 x.th1.toNat ||| put 8 x.th2.toNat ||| put 16 x.th3.toNat ||| put 32 x.hold.toNat
  | 0x130 => x.eUn
  | _ => match regIx 0x100 8 6 off with
    | some p => (x.epart[p]?).getD 0
    | none => match regIx 0x140 8 16 off with
      | some t => (x.eThr[t]?).getD 0
      | none => 0

def thermRead (s : State) (off : Nat) : BitVec 64 :=
  let x := s.therm
  match off with
  | 0x40 => put 0 x.logicLim.toNat ||| put 16 x.tierLim.toNat
  | _ => match regIx 0x100 8 16 off with
    | some k => put 0 x.temp[Fin.ofNat 16 k].toNat ||| put 16 (b2n (bitAt x.valid k))
    | none => 0

def evtRead (s : State) (off : Nat) : BitVec 64 :=
  let e := s.evt
  match off with
  | 0x40 => put 1 (b2n e.attnEn)
  | 0x48 => put 0 e.code.toNat ||| put 8 e.page.toNat ||| put 16 e.srcSeq.toNat ||| put 48 e.count.toNat ||| put 63 (b2n e.valid)
  | 0x50 => put 0 e.tIndex.toNat ||| put 32 e.tMtime.toNat
  | 0x58 => s.evtPend
  | 0x80 => put 0 e.sIndex.toNat ||| put 32 e.sLastUsed.toNat ||| put 56 e.sPhase.toNat ||| put 59 (b2n e.sStop) |||
      put 60 e.sTask.toNat
  | 0x88 => put 0 e.sCycle.toNat ||| put 32 e.sMtime.toNat
  | 0x90 => put 0 e.sDem.toNat ||| put 16 e.sLeak.toNat ||| put 28 e.sOp.toNat ||| put 32 e.sCap.toNat
  | 0x98 => put 0 e.sBubbles.toNat ||| put 32 e.sStretch.toNat
  | 0xA0 => e.sThr
  | _ => 0

def mgmtRead (s : State) (off : Nat) : BitVec 64 :=
  let m := s.mgmt
  match off with
  | 0x40 => put 0 m.reqSync.toNat ||| put 16 (b2n m.reqSyncEn)
  | 0x48 => put 0 m.reqCmd.toNat ||| put 8 m.reqExpect.toNat ||| put 16 m.reqSeq.toNat
  | 0x70 => put 0 m.rspStatus.toNat ||| put 16 m.rspSeq.toNat
  | _ => match regIx 0x50 8 4 off with
    | some i => (m.args[i]?).getD 0
    | none => match regIx 0x78 8 4 off with
      | some i => (m.data[i]?).getD 0
      | none => 0

def testRead (s : State) (off : Nat) : BitVec 64 :=
  let t := s.test
  match off with
  | 0x40 => put 0 t.tapIr.toNat ||| put 8 t.wrapper.toNat ||| put 12 (b2n (t.wrActive && s.testable))
  | 0x48 => put 0 t.mbistFail.toNat ||| put 16 t.mbistSpares.toNat
  | 0x100 => put 0 t.iKind.toNat ||| put 3 (b2n t.iOp) ||| put 5 t.iErr.toNat ||| put 8 t.iUnit.toNat ||| put 16 t.iIndex.toNat
  | 0x108 => t.idata
  | _ => 0

def fuseRead (s : State) (off : Nat) : BitVec 64 :=
  let f := s.fuse
  match off with
  | 0x40 => put 0 (b2n f.loaded) ||| put 1 (b2n f.checkBad) ||| put 2 (b2n f.passThru) ||| put 3 (b2n f.corrected)
  | 0x48 => put 0 f.hard.toNat ||| put 16 f.soft.toNat
  | _ => 0

def pageRead (s : State) (p : Page) (off : Nat) : BitVec 64 :=
  match p with
  | .clu => cluRead s off | .ush => ushRead s off | .step => stepRead s off
  | .lat => (match off with | 0x40 => put 0 s.lat.version.toNat | 0x48 => s.lat.honour | 0x50 => put 0 s.lat.stepping.toNat | _ => 0)
  | .opa0 => opaRead s 0 off | .opa1 => opaRead s 1 off | .tile => tilePageRead s off | .vec => vecRead s off
  | .flt => fltRead s off | .hall => tierRead s .hall off | .lhall => tierRead s .lower off | .land => landRead s off
  | .strm0 => strmRead s 0 off | .strm1 => strmRead s 1 off | .strm2 => strmRead s 2 off | .strm3 => strmRead s 3 off
  | .galN => galRegRead s 0 off | .galE => galRegRead s 1 off | .galS => galRegRead s 2 off | .galW => galRegRead s 3 off
  | .fab => fabRegRead s off | .win => winRead s off | .sync => syncRead s off | .que => queRead s off
  | .pwr => pwrRead s off | .therm => thermRead s off | .evt => evtRead s off | .mgmt => mgmtRead s off
  | .test => testRead s off | .fuse => fuseRead s off

/-- A register without its read-to-clear fields. -/
def plainRead (s : State) (p : Page) (off : Nat) : BitVec 64 :=
  if off < 0x40 then headerRead s p off else pageRead s p off

/-- A read of a register: its value, and the state after it (R8, R370, R371). -/
def regRead (p : Page) (off : Nat) (s : State) : BitVec 64 × State :=
  let rs := rcAt p off
  (rs.foldl (fun acc x => acc ||| put x.2.lo (rcVal s x.1 x.2)) (plainRead s p off), rs.foldl (fun s x => rcClear x s) s)

end Sys2Proof.Machine
end

