-- ==== Sys2Proof/Machine/RegWrite.lean ====
section
/-! DEFINITION. Writes of registers: the fields of each register by access code, who may write them (R72, R374, R387, R406),
and what a write does. -/

namespace Sys2Proof.Machine

/-! ## Fields by access code -/

/-- A mask of `len` bits from `lo`. -/
def bitsMask (lo len : Nat) : BitVec 64 := put lo (2 ^ len - 1)

/-- The RW, WO and W1C bits of a register. -/
structure Access3 where
  rw : BitVec 64
  wo : BitVec 64
  w1c : BitVec 64

def rwOnly (m : BitVec 64) : Access3 := ⟨m, 0, 0⟩
def woOnly (m : BitVec 64) : Access3 := ⟨0, m, 0⟩
def noFields : Access3 := ⟨0, 0, 0⟩

def headerFields (p : Page) (off : Nat) : Access3 :=
  match off with
  | 0x10 => ⟨bitsMask 48 16, 1, 0⟩
  | 0x20 => ⟨0, 0, p.evtBits.zeroExtend 64⟩
  | 0x28 => rwOnly (p.evtBits.zeroExtend 64)
  | _ => noFields

def landFields (off : Nat) : Access3 :=
  match off with
  | 0x40 => rwOnly (bitsMask 0 6 ||| bitsMask 8 8)
  | 0x48 => woOnly (bitsMask 0 6 ||| bitsMask 8 8 ||| bitsMask 16 3 ||| bitsMask 20 3)
  | _ => match regIx 0x100 8 256 off with
    | some i =>
      if i % 4 = 0 then rwOnly (bitsMask 0 2 ||| bitsMask 8 8 ||| bitsMask 16 3 ||| bitsMask 20 5 ||| bitsMask 28 3 ||| bitsMask 32 32)
      else if i % 4 = 1 then rwOnly (bitsMask 0 1 ||| bitsMask 4 5 ||| bitsMask 12 52) else noFields
    | none => noFields

def galFields (off : Nat) : Access3 :=
  match off with
  | 0x40 => ⟨bitsMask 1 1 ||| bitsMask 8 8, bitsMask 0 1 ||| bitsMask 16 3, 0⟩
  | 0x58 => rwOnly (bitsMask 0 8 ||| bitsMask 16 8)
  | _ => match regIx 0x100 8 32 off with
    | some i => rwOnly (if i % 2 = 0 then relayMask else bitsMask 0 32)
    | none => noFields

def winFields (off : Nat) : Access3 :=
  match regIx 0x100 8 256 off with
  | some i => (match i % 4 with
    | 0 => ⟨bitsMask 0 6 ||| bitsMask 8 5, bitsMask 16 1, 0⟩
    | 1 => rwOnly (bitsMask 12 34)
    | 2 => rwOnly (bitsMask 0 45 ||| bitsMask 48 13)
    | _ => rwOnly (bitsMask 0 23 ||| bitsMask 32 23))
  | none => noFields

def mgmtFields (off : Nat) : Access3 :=
  match off with
  | 0x40 => rwOnly (bitsMask 0 13 ||| bitsMask 16 1)
  | 0x48 => rwOnly (bitsMask 0 32)
  | 0x70 => rwOnly (bitsMask 0 8 ||| bitsMask 16 16)
  | _ => if (regIx 0x50 8 4 off).isSome || (regIx 0x78 8 4 off).isSome then rwOnly (BitVec.allOnes 64) else noFields

def opaFields (off : Nat) : Access3 :=
  match off with
  | 0x40 => ⟨1, bitsMask 8 1, 0⟩ | 0x48 => ⟨0, 0, bitsMask 8 3⟩ | _ => noFields

def tierFields (n off : Nat) : Access3 :=
  match off with
  | 0x40 => rwOnly (bitsMask 0 (2 * n)) | 0x60 => woOnly 1 | _ => noFields

/-- The fields of a register that a write can act on. -/
def regFields (b : Build) (p : Page) (off : Nat) : Access3 :=
  if off < 0x40 then headerFields p off
  else match p, off with
    | .clu, 0x40 => rwOnly (bitsMask 0 1 ||| bitsMask 16 16)
    | .clu, 0x48 => woOnly 1
    | .clu, 0x58 => woOnly 1
    | .clu, 0x60 => rwOnly 1
    | .clu, 0x70 => woOnly 1
    | .clu, 0xB0 => rwOnly (bitsMask 0 24)
    | .ush, 0x40 => rwOnly 1
    | .ush, 0x48 => rwOnly (bitsMask 12 6)
    | .ush, 0x50 => rwOnly (bitsMask 0 35)
    | .ush, off => if (regIx 0x180 8 16 off).isSome then woOnly (bitsMask 0 18 ||| bitsMask 20 4 ||| bitsMask 24 2) else noFields
    | .step, 0x40 => rwOnly (bitsMask 0 2 ||| bitsMask 16 32)
    | .step, 0x48 => rwOnly (bitsMask 0 21)
    | .step, 0x50 => rwOnly (bitsMask 0 21)
    | .step, 0x58 => rwOnly (bitsMask 0 21)
    | .lat, 0x40 => rwOnly (bitsMask 0 8)
    | .opa0, off => opaFields off
    | .opa1, off => opaFields off
    | .tile, 0x40 => ⟨1, bitsMask 8 2, 0⟩
    | .vec, 0x40 => woOnly (bitsMask 8 2)
    | .vec, 0x48 => ⟨0, 0, 3⟩
    | .hall, off => tierFields 12 off
    | .lhall, off => tierFields (groups b .lower) off
    | .land, off => landFields off
    | .strm0, 0x40 | .strm1, 0x40 | .strm2, 0x40 | .strm3, 0x40 => woOnly (bitsMask 0 2 ||| bitsMask 8 2)
    | .galN, off | .galE, off | .galS, off | .galW, off => galFields off
    | .fab, 0x40 => rwOnly (bitsMask 0 32)
    | .fab, 0x50 => rwOnly (bitsMask 0 23)
    | .fab, 0x68 => rwOnly (bitsMask 0 8 ||| bitsMask 16 8)
    | .fab, 0x70 => woOnly (bitsMask 0 1 ||| bitsMask 16 3)
    | .win, off => winFields off
    | .sync, 0x40 => rwOnly (bitsMask 0 13)
    | .sync, 0x48 => ⟨bitsMask 0 32, bitsMask 32 32, 0⟩
    | .que, 0x40 => rwOnly (bitsMask 0 13)
    | .pwr, 0x40 => rwOnly (bitsMask 0 10)
    | .pwr, 0x48 => rwOnly (bitsMask 0 3)
    | .pwr, 0x70 => rwOnly (bitsMask 0 24 ||| bitsMask 32 16)
    | .therm, 0x40 => rwOnly (bitsMask 0 12 ||| bitsMask 16 12)
    | .evt, 0x40 => ⟨bitsMask 1 1, bitsMask 0 1 ||| bitsMask 16 8, 0⟩
    | .mgmt, off => mgmtFields off
    | .test, 0x100 => rwOnly (bitsMask 0 4 ||| bitsMask 8 40)
    | .test, 0x108 => rwOnly (BitVec.allOnes 64)
    | _, _ => noFields

/-! ## Rights (R72, R374, R387) -/

/-- Bits that the management port may not write. -/
def mgmtMay (p : Page) (off : Nat) : BitVec 64 :=
  match p with
  | .clu => if off = 0xB0 then 0 else BitVec.allOnes 64
  | .mgmt => if 0x70 ≤ off ∧ off < 0x98 then 0 else BitVec.allOnes 64
  | _ => BitVec.allOnes 64

/-- Registers that only the management port writes, by the bits left to the firmware thread. -/
def firmwareMay (s : State) (p : Page) (off : Nat) : BitVec 64 :=
  let all := BitVec.allOnes 64
  match p, off with
  | .win, _ => 0
  | .fuse, _ => 0
  | .test, 0x100 => if s.clu.live then all else 0
  | .test, 0x108 => if s.clu.live then all else 0
  | .test, _ => 0
  | .ush, 0x40 => 0
  | .ush, 0x48 => 0
  | .ush, 0x50 => ~~~(bitsMask 32 3)
  | .ush, 0x1F8 => 0
  | .clu, 0x40 | .clu, 0x58 | .clu, 0x60 | .clu, 0x70 => 0
  | .evt, 0x40 => 0
  | .therm, 0x40 => 0
  | .fab, 0x40 | .fab, 0x50 | .fab, 0x68 | .fab, 0x70 => 0
  | .galN, 0x58 | .galE, 0x58 | .galS, 0x58 | .galW, 0x58 => 0
  | .galN, 0x40 | .galE, 0x40 | .galS, 0x40 | .galW, 0x40 => ~~~(bitsMask 0 1 ||| bitsMask 16 3)
  | _, _ => all

/-- Bits of a register that the originator may write. -/
def mayWrite (s : State) (o : Originator) (p : Page) (off : Nat) : BitVec 64 :=
  match o with
  | .mgmt => mgmtMay p off
  | .thread t =>
    if t = fwThread then firmwareMay s p off
    else if p = .sync ∨ p = .que then BitVec.allOnes 64 else 0

/-- A thread's store is refused: it would change a field it may not write (R406). TEST_IACC and TEST_IDATA are refused
whatever the value. R406 names RW and WO fields only: a store of 1s to a W1C field that R72 gives the thread no write of is
not refused, and the field keeps its value (DESIGN CHOICE, assumption 18). -/
def refusedStore (s : State) (t : Fin 16) (p : Page) (off : Nat) (v : BitVec 64) : Bool :=
  let f := regFields s.build p off
  let no := ~~~(mayWrite s (.thread t) p off)
  if p = .test ∧ (off = 0x100 ∨ off = 0x108) then no != 0
  else (v ^^^ plainRead s p off) &&& f.rw &&& no != 0 || v &&& f.wo &&& no != 0

/-! ## What a write does -/

/-- A write of 1s to PAGE_EVT (R9). -/
def clearEvents (p : Page) (m : BitVec 32) (s : State) : State :=
  let h := s.hdrOf p
  s.setHdr p { h with evt := h.evt &&& ~~~(s.clearable p 0 m) }

def headerWrite (p : Page) (off : Nat) (v : BitVec 64) (s : State) : State :=
  match off with
  | 0x10 =>
    let h := s.hdrOf p
    let s := s.setHdr p { h with tag := v.extractLsb' 48 16 }
    if bitAt v 0 then clearEvents p (BitVec.allOnes 32) s else s
  | 0x20 => clearEvents p (v.truncate 32) s
  | 0x28 =>
    let h := s.hdrOf p
    s.setHdr p { h with mask := v.truncate 32 &&& p.evtBits }
  | _ => s

/-- A write of EVT_CTL (R337): ATTN_EN, and the clear under EXPECT; a refused clear changes nothing. -/
def evtCtl (v : BitVec 64) (s : State) : State :=
  if bitAt v 0 then
    if v.extractLsb' 16 8 = s.evt.count ∧ s.stepClosed then
      { s with evt := { s.evt with
          attnEn := bitAt v 1, valid := false, code := 0, page := 0, srcSeq := 0, count := 0, tIndex := 0, tMtime := 0 } }
    else countEvt .evt 0 s
  else { s with evt := { s.evt with attnEn := bitAt v 1 } }

/-- A write of MGMT_REQ_HDR (R381). -/
def reqHdr (v : BitVec 64) (s : State) : State :=
  if s.mgmt.pending then countEvt .mgmt 1 s
  else
    let s := { s with mgmt := { s.mgmt with
      pending := true, reqCmd := v.extractLsb' 0 8, reqExpect := v.extractLsb' 8 8, reqSeq := v.extractLsb' 16 16 } }
    if s.mgmt.reqSyncEn then signal s.mgmt.reqSync.toNat s else s

/-- A write of MGMT_RSP_HDR (R382). -/
def rspHdr (v : BitVec 64) (s : State) : State :=
  if s.mgmt.pending ∧ v.extractLsb' 16 16 = s.mgmt.reqSeq then
    countEvt .mgmt 0 { s with mgmt := { s.mgmt with
      pending := false, rspStatus := v.extractLsb' 0 8, rspSeq := v.extractLsb' 16 16 } }
  else countEvt .mgmt 2 s

def opaWrite (a : Fin 2) (off : Nat) (v : BitVec 64) (s : State) : State :=
  match off with
  | 0x40 => opaCtl a v s
  | 0x48 =>
    let m := s.clearable (Page.opa a) 32 (v.truncate 32)
    modOpa a (fun x => { x with sat := x.sat && !bitAt m 8, nan := x.nan && !bitAt m 9, inf := x.inf && !bitAt m 10 }) s
  | _ => s

def vecWrite (off : Nat) (v : BitVec 64) (s : State) : State :=
  match off with
  | 0x40 => vecCtl v s
  | 0x48 =>
    let m := s.clearable .vec 32 (v.truncate 32)
    { s with vec := { s.vec with permOob := s.vec.permOob && !bitAt m 0, idxOob := s.vec.idxOob && !bitAt m 1 } }
  | _ => s

def tierWrite (t : Tier) (off : Nat) (v : BitVec 64) (s : State) : State :=
  match off with
  | 0x40 => pwrTarget t v s
  | 0x60 => scrubStart t v s
  | _ => s

def landWrite (off : Nat) (v : BitVec 64) (s : State) : State :=
  match off with
  | 0x40 => { s with land := { s.land with tagqRing := v.extractLsb' 0 6, tagqSlot := v.extractLsb' 8 8 } }
  | 0x48 => landTagset v s
  | _ => match regIx 0x100 8 256 off with
    | some i =>
      let l : Fin 64 := Fin.ofNat 64 (i / 4)
      (match i % 4 with | 0 => landCfg l v s | 1 => landOvf l v s | _ => s)
    | none => s

def galWrite (g : Fin 4) (off : Nat) (v : BitVec 64) (s : State) : State :=
  match off with
  | 0x40 => galCtl g v s
  | 0x58 => modGal g (fun x => { x with rate := v.extractLsb' 0 8, burst := v.extractLsb' 16 8 }) s
  | _ => match regIx 0x100 8 32 off with
    | some i => galRelay g (Fin.ofNat 16 (i / 2)) (i % 2 == 1) v s
    | none => s

def winWrite (off : Nat) (v : BitVec 64) (s : State) : State :=
  match regIx 0x100 8 256 off with
  | some i =>
    let w : Fin 64 := Fin.ofNat 64 (i / 4)
    if i % 4 = 0 then winCtl w v s else winField w (i % 4 - 1) v s
  | none => s

def mgmtWrite (off : Nat) (v : BitVec 64) (s : State) : State :=
  match off with
  | 0x40 => { s with mgmt := { s.mgmt with reqSync := v.extractLsb' 0 13, reqSyncEn := bitAt v 16 } }
  | 0x48 => reqHdr v s
  | 0x70 => rspHdr v s
  | _ => match regIx 0x50 8 4 off with
    | some i => { s with mgmt := { s.mgmt with args := s.mgmt.args.set (Fin.ofNat 4 i) v } }
    | none => match regIx 0x78 8 4 off with
      | some i => { s with mgmt := { s.mgmt with data := s.mgmt.data.set (Fin.ofNat 4 i) v } }
      | none => s

def cluWrite (off : Nat) (v : BitVec 64) (s : State) : State :=
  match off with
  | 0x40 => wdogCtl v s | 0x48 => wdogKick v s | 0x58 => clusterReset v s | 0x60 => cluMode v s
  | 0x70 => hashStart v s | 0xB0 => cluFwid v s | _ => s

def ushWrite (mgmt : Bool) (off : Nat) (v : BitVec 64) (s : State) : State :=
  match off with
  | 0x40 => ushCtl v s | 0x48 => imemSplit v s | 0x50 => ushTask mgmt v s
  | _ => match regIx 0x180 8 16 off with
    | some t => threadCtl (Fin.ofNat 16 t) v s
    | none => s

def stepWrite (off : Nat) (v : BitVec 64) (s : State) : State :=
  match off with
  | 0x40 => stepCfg v s | 0x48 => stepLen v s | 0x50 => stepSlack v s | 0x58 => stepGuard v s | _ => s

def fabRegWrite (off : Nat) (v : BitVec 64) (s : State) : State :=
  match off with
  | 0x40 => fabWheel v s | 0x50 => fabId v s | 0x70 => fabCtl v s
  | 0x68 => modFab (fun x => { x with rate := v.extractLsb' 0 8, burst := v.extractLsb' 16 8 }) s
  | _ => s

def pwrWrite (off : Nat) (v : BitVec 64) (s : State) : State :=
  match off with
  | 0x40 => pwrCap v s | 0x48 => pwrWin v s | 0x70 => pwrDroop v s | _ => s

/-- The effect of a write whose fields the originator may write. -/
def pageWrite (mgmt : Bool) (p : Page) (off : Nat) (v : BitVec 64) (s : State) : State :=
  match p with
  | .clu => cluWrite off v s
  | .ush => ushWrite mgmt off v s
  | .step => stepWrite off v s
  | .lat => if off = 0x40 then latSel v s else s
  | .opa0 => opaWrite 0 off v s
  | .opa1 => opaWrite 1 off v s
  | .tile => if off = 0x40 then tileCtl v s else s
  | .vec => vecWrite off v s
  | .flt => s
  | .hall => tierWrite .hall off v s
  | .lhall => tierWrite .lower off v s
  | .land => landWrite off v s
  | .strm0 => if off = 0x40 then strmCtl 0 v s else s
  | .strm1 => if off = 0x40 then strmCtl 1 v s else s
  | .strm2 => if off = 0x40 then strmCtl 2 v s else s
  | .strm3 => if off = 0x40 then strmCtl 3 v s else s
  | .galN => galWrite 0 off v s
  | .galE => galWrite 1 off v s
  | .galS => galWrite 2 off v s
  | .galW => galWrite 3 off v s
  | .fab => fabRegWrite off v s
  | .win => winWrite off v s
  | .sync =>
    if off = 0x40 then { s with sync := { s.sync with sel := v.extractLsb' 0 13 } }
    else if off = 0x48 then syncVal v s else s
  | .que => if off = 0x40 then { s with sync := { s.sync with queSel := v.extractLsb' 0 13 } } else s
  | .pwr => pwrWrite off v s
  | .therm =>
    if off = 0x40 then { s with therm := { s.therm with
        logicLim := v.extractLsb' 0 12, tierLim := v.extractLsb' 16 12,
        oldLim := some (s.therm.oldLim.getD (s.therm.logicLim, s.therm.tierLim)) } }
    else s
  | .evt => if off = 0x40 then evtCtl v s else s
  | .mgmt => mgmtWrite off v s
  | .test =>
    if off = 0x100 then iacc v s
    else if off = 0x108 then { s with test := { s.test with idata := v } } else s
  | .fuse => s

/-- A write of a register by an originator that R406 does not refuse: fields it may not write keep their values. -/
def regWrite (o : Originator) (p : Page) (off : Nat) (v : BitVec 64) (s : State) : State :=
  let f := regFields s.build p off
  let may := mayWrite s o p off
  if (f.rw ||| f.wo ||| f.w1c) &&& may = 0 then s
  else
    let v := (v &&& may &&& (f.rw ||| f.wo ||| f.w1c)) ||| (plainRead s p off &&& f.rw &&& ~~~may)
    if off < 0x40 then headerWrite p off v s else pageWrite (o == .mgmt) p off v s

/-! ## Who reaches a register (R324, R341) -/

/-- The management port reaches offset `off` of page `p`. -/
def State.reaches (s : State) (p : Page) (off : Nat) : Bool :=
  off < 0x40 ||
    (if s.pwr.coolStopped then
      p == .fuse || (s.clu.phase == .ready && (p == .pwr || p == .therm)) || (p == .clu && off == 0x58)
    else s.clu.phase == .ready || p == .clu || p == .fuse)

/-- The management port reaches the unassigned slots: from READY on, while the clocks of the pages run (R324, R341). -/
def State.reachesFree (s : State) : Bool := s.clu.phase == .ready && !s.pwr.coolStopped

/-- A thread performs register accesses: Usher is released and the clocks run. -/
def State.usherActs (s : State) : Bool := s.clocked && s.clu.phase == .ready && s.ush.run

/-- Page `p` performs an access in this cycle (R369). -/
def usePage (p : Page) (s : State) : State := { s with paged := p :: s.paged }

/-- A register write as its originator's: the management port is answered, a thread faults with REG_PRIV where R406 refuses
its store. A page that has performed an access in this cycle lets a thread's wait (R369). -/
def regStore (o : Originator) (p : Page) (off : Nat) (v : BitVec 64) (s : State) : State :=
  match o with
  | .mgmt => if s.reaches p off then respond .ok (usePage p (regWrite .mgmt p off v s)) else respond .unreachable s
  | .thread t =>
    if !s.usherActs || s.paged.contains p then s
    else if refusedStore s t p off v then preciseFault t 0x06 s
    else usePage p (regWrite (.thread t) p off v s)

/-- A register write row. -/
def regRow (o : Originator) (p : Page) (off : Nat) (v : BitVec 64) (s : State) : Host.Outcome State Fault Refusal :=
  .next (regStore o p off v s)

end Sys2Proof.Machine
end

