-- ==== Sys2Proof/Machine/RegRows.lean ====
section
/-! DEFINITION. The register-write rows. Each row is one write of the register it names; where the row names a bit of it
(a RESUME, a START, a CLEAR), the value written has that bit set, and the operand `v` gives the other bits. -/

namespace Sys2Proof.Machine

/-- `v` with bit `i` set. -/
def setBit (i : Nat) (v : BitVec 64) : BitVec 64 := v ||| put i 1

/-! ## Arrays, tile unit, vector engine, streams (R122, R143, R144, R156, R241) -/

def execOpaResume (o : Originator) (a : Fin 2) (v : BitVec 64) (s : State) : Host.Outcome State Fault Refusal :=
  regRow o (Page.opa a) 0x40 (setBit 8 v) s

def execTilePauseWrite (o : Originator) (v : BitVec 64) (s : State) : Host.Outcome State Fault Refusal :=
  regRow o .tile 0x40 v s
def execTileResume (o : Originator) (v : BitVec 64) (s : State) : Host.Outcome State Fault Refusal :=
  regRow o .tile 0x40 (setBit 8 v) s
def execTileDiscard (o : Originator) (v : BitVec 64) (s : State) : Host.Outcome State Fault Refusal :=
  regRow o .tile 0x40 (setBit 9 v) s

def execVecRetry (o : Originator) (v : BitVec 64) (s : State) : Host.Outcome State Fault Refusal :=
  regRow o .vec 0x40 (setBit 8 v) s
def execVecDiscard (o : Originator) (v : BitVec 64) (s : State) : Host.Outcome State Fault Refusal :=
  regRow o .vec 0x40 (setBit 9 v) s

def execStrmResume (o : Originator) (n : Fin 4) (v : BitVec 64) (s : State) : Host.Outcome State Fault Refusal :=
  regRow o (Page.strm n) 0x40 (setBit 8 v) s
def execStrmDiscard (o : Originator) (n : Fin 4) (v : BitVec 64) (s : State) : Host.Outcome State Fault Refusal :=
  regRow o (Page.strm n) 0x40 (setBit 9 v) s

/-! ## Galleries, fabric port, windows (R244, R254, R267, R270, R272) -/

def execGalRetrain (o : Originator) (g : Fin 4) (v : BitVec 64) (s : State) : Host.Outcome State Fault Refusal :=
  regRow o (Page.gal g) 0x40 (setBit 0 v) s
def execFabRetrain (o : Originator) (v : BitVec 64) (s : State) : Host.Outcome State Fault Refusal :=
  regRow o .fab 0x70 (setBit 0 v) s
def execGalRelayWrite (o : Originator) (g : Fin 4) (e : Fin 16) (delta : Bool) (v : BitVec 64) (s : State) :
    Host.Outcome State Fault Refusal :=
  regRow o (Page.gal g) (0x100 + 16 * e.val + if delta then 8 else 0) v s
def execFabIdWrite (o : Originator) (v : BitVec 64) (s : State) : Host.Outcome State Fault Refusal :=
  regRow o .fab 0x50 v s
def execFabWheelWrite (o : Originator) (v : BitVec 64) (s : State) : Host.Outcome State Fault Refusal :=
  regRow o .fab 0x40 v s
def execWinCtlWrite (o : Originator) (w : Fin 64) (v : BitVec 64) (s : State) : Host.Outcome State Fault Refusal :=
  regRow o .win (0x100 + 32 * w.val) v s
def execWinFieldWrite (o : Originator) (w : Fin 64) (field : Fin 3) (v : BitVec 64) (s : State) :
    Host.Outcome State Fault Refusal :=
  regRow o .win (0x108 + 32 * w.val + 8 * field.val) v s

/-! ## Hall, Lower Hall, Landings, sync objects (R207, R208, R210, R219, R297) -/

def execHallScrubStart (o : Originator) (tier : Tier) (v : BitVec 64) (s : State) : Host.Outcome State Fault Refusal :=
  regRow o (Page.tier tier) 0x60 (setBit 0 v) s
def execHallPwrWrite (o : Originator) (tier : Tier) (v : BitVec 64) (s : State) : Host.Outcome State Fault Refusal :=
  regRow o (Page.tier tier) 0x40 v s
def execLandCfgWrite (o : Originator) (l : Fin 64) (v : BitVec 64) (s : State) : Host.Outcome State Fault Refusal :=
  regRow o .land (0x100 + 32 * l.val) v s
def execLandOvfWrite (o : Originator) (l : Fin 64) (v : BitVec 64) (s : State) : Host.Outcome State Fault Refusal :=
  regRow o .land (0x108 + 32 * l.val) v s
def execLandTagset (o : Originator) (v : BitVec 64) (s : State) : Host.Outcome State Fault Refusal :=
  regRow o .land 0x48 v s
def execSyncValWrite (o : Originator) (v : BitVec 64) (s : State) : Host.Outcome State Fault Refusal :=
  regRow o .sync 0x48 v s

/-! ## Step unit and manifest (R20, R45, R48) -/

def execStepCfgWrite (o : Originator) (v : BitVec 64) (s : State) : Host.Outcome State Fault Refusal :=
  regRow o .step 0x40 v s
def execStepLenWrite (o : Originator) (v : BitVec 64) (s : State) : Host.Outcome State Fault Refusal :=
  regRow o .step 0x48 v s
def execStepSlackWrite (o : Originator) (v : BitVec 64) (s : State) : Host.Outcome State Fault Refusal :=
  regRow o .step 0x50 v s
def execStepGuardWrite (o : Originator) (v : BitVec 64) (s : State) : Host.Outcome State Fault Refusal :=
  regRow o .step 0x58 v s
def execLatSelWrite (o : Originator) (v : BitVec 64) (s : State) : Host.Outcome State Fault Refusal :=
  regRow o .lat 0x40 v s

/-! ## Usher control and the watchdog (R67, R76, R78, R337, R347) -/

def execUshRunSet (o : Originator) (v : BitVec 64) (s : State) : Host.Outcome State Fault Refusal :=
  regRow o .ush 0x40 (setBit 0 v) s
def execUshRunClear (o : Originator) (v : BitVec 64) (s : State) : Host.Outcome State Fault Refusal :=
  regRow o .ush 0x40 (v &&& ~~~1) s
def execUshImemSplitWrite (o : Originator) (v : BitVec 64) (s : State) : Host.Outcome State Fault Refusal :=
  regRow o .ush 0x48 v s
def execUshTaskWrite (o : Originator) (v : BitVec 64) (s : State) : Host.Outcome State Fault Refusal :=
  regRow o .ush 0x50 v s

/-- `v` with USH_THR_CTL.ACTION `a`. -/
def withAction (a : Nat) (v : BitVec 64) : BitVec 64 := (v &&& ~~~(put 24 3)) ||| put 24 a

def execThreadStart (o : Originator) (t : Fin 16) (v : BitVec 64) (s : State) : Host.Outcome State Fault Refusal :=
  regRow o .ush (0x180 + 8 * t.val) (withAction 1 v) s
def execThreadStop (o : Originator) (t : Fin 16) (v : BitVec 64) (s : State) : Host.Outcome State Fault Refusal :=
  regRow o .ush (0x180 + 8 * t.val) (withAction 2 v) s
def execWdogKick (o : Originator) (v : BitVec 64) (s : State) : Host.Outcome State Fault Refusal :=
  regRow o .clu 0x48 (setBit 0 v) s
def execWdogCtlWrite (o : Originator) (v : BitVec 64) (s : State) : Host.Outcome State Fault Refusal :=
  regRow o .clu 0x40 v s

/-! ## Power (R316, R321, R325) -/

def execPwrCapWrite (o : Originator) (v : BitVec 64) (s : State) : Host.Outcome State Fault Refusal :=
  regRow o .pwr 0x40 v s
def execPwrWinWrite (o : Originator) (v : BitVec 64) (s : State) : Host.Outcome State Fault Refusal :=
  regRow o .pwr 0x48 v s
def execPwrDroopWrite (o : Originator) (v : BitVec 64) (s : State) : Host.Outcome State Fault Refusal :=
  regRow o .pwr 0x70 v s

/-! ## Start-up (R339, R345, R348, R351) -/

def execClusterReset (o : Originator) (v : BitVec 64) (s : State) : Host.Outcome State Fault Refusal :=
  regRow o .clu 0x58 (setBit 0 v) s
def execHashStart (o : Originator) (v : BitVec 64) (s : State) : Host.Outcome State Fault Refusal :=
  regRow o .clu 0x70 (setBit 0 v) s
def execCluModeWrite (o : Originator) (v : BitVec 64) (s : State) : Host.Outcome State Fault Refusal :=
  regRow o .clu 0x60 v s
def execCluFwidWrite (o : Originator) (v : BitVec 64) (s : State) : Host.Outcome State Fault Refusal :=
  regRow o .clu 0xB0 v s

/-! ## Events and the mailbox (R337, R373, R381, R382) -/

def execEvtClear (o : Originator) (v : BitVec 64) (s : State) : Host.Outcome State Fault Refusal :=
  regRow o .evt 0x40 (setBit 0 v) s

/-- A write of a page slot's register. A write to an unassigned slot is ignored (R372). -/
def slotStore (o : Originator) (slot off : Nat) (v : BitVec 64) (s : State) : State :=
  match Page.ofSlot slot with
  | some p => regStore o p off v s
  | none => match o with | .mgmt => respond (if s.reachesFree then .ok else .unreachable) s | .thread _ => s

def execPageEvtClear (o : Originator) (slot : Fin 64) (v : BitVec 64) (s : State) : Host.Outcome State Fault Refusal :=
  .next (slotStore o slot.val 0x10 (setBit 0 v) s)

/-- REGISTER_WRITE: a 64-bit write at a cluster-local address. Outside the pages the port answers UNREACHABLE and a thread
faults with ADDR_BAD (R49, R358); a thread's address that is no multiple of 8 raises REG_ACCESS (R6), and the port's has
none such. -/
def registerWrite (o : Originator) (addr : Nat) (v : BitVec 64) (s : State) : State :=
  if inPages addr 1 then
    match o with
    | .thread t =>
      if addr % 8 ≠ 0 then (if s.usherActs then preciseFault t 0x05 s else s)
      else slotStore o ((addr - Config.pageBase) / 4096) (addr % 4096) v s
    | .mgmt => slotStore o ((addr - Config.pageBase) / 4096) (addr % 4096 / 8 * 8) v s
  else match o with
    | .mgmt => respond .unreachable s
    | .thread t => if s.usherActs then preciseFault t 0x01 s else s

def execRegisterWrite (o : Originator) (addr : BitVec 32) (v : BitVec 64) (s : State) : Host.Outcome State Fault Refusal :=
  .next (registerWrite o addr.toNat v s)

def execMgmtReqHdrWrite (o : Originator) (v : BitVec 64) (s : State) : Host.Outcome State Fault Refusal :=
  regRow o .mgmt 0x48 v s
def execMgmtRspHdrWrite (o : Originator) (v : BitVec 64) (s : State) : Host.Outcome State Fault Refusal :=
  regRow o .mgmt 0x70 v s

/-- MGMT_REGISTER_READ: the word at ADDR × 8 of the pages (R8, R358). -/
def mgmtRegRead (addr : Nat) (s : State) : State :=
  if inPages addr 8 then
    match Page.ofSlot ((addr - Config.pageBase) / 4096) with
    | none =>
      if s.reachesFree then (fun s => { s with mgmt := { s.mgmt with rdata := 0 } }) (respond .ok s) else respond .unreachable s
    | some p =>
      if s.reaches p (addr % 4096) then
        let r := regRead p (addr % 4096) s
        let s := respond .ok (usePage p r.2)
        { s with mgmt := { s.mgmt with rdata := r.1 } }
      else respond .unreachable s
  else respond .unreachable s

def execMgmtRegisterRead (addr : BitVec 29) (s : State) : Host.Outcome State Fault Refusal :=
  .next (mgmtRegRead (addr.toNat * 8) s)

/-! ## Inspection access (R386, R387) -/

/-- The value of TEST_IACC for an access of `kind`. -/
def iaccVal (kind : Nat) (wr : Bool) (unit : BitVec 8) (index : BitVec 32) : BitVec 64 :=
  put 0 kind ||| put 3 (b2n wr) ||| put 8 unit.toNat ||| put 16 index.toNat

def execTestReadThreadReg (o : Originator) (unit : BitVec 8) (index : BitVec 32) (s : State) :
    Host.Outcome State Fault Refusal := regRow o .test 0x100 (iaccVal 0 false unit index) s
def execTestWriteThreadReg (o : Originator) (unit : BitVec 8) (index : BitVec 32) (s : State) :
    Host.Outcome State Fault Refusal := regRow o .test 0x100 (iaccVal 0 true unit index) s
def execTestReadVreg (o : Originator) (unit : BitVec 8) (index : BitVec 32) (s : State) :
    Host.Outcome State Fault Refusal := regRow o .test 0x100 (iaccVal 1 false unit index) s
def execTestWriteVreg (o : Originator) (unit : BitVec 8) (index : BitVec 32) (s : State) :
    Host.Outcome State Fault Refusal := regRow o .test 0x100 (iaccVal 1 true unit index) s
def execTestReadMask (o : Originator) (unit : BitVec 8) (index : BitVec 32) (s : State) :
    Host.Outcome State Fault Refusal := regRow o .test 0x100 (iaccVal 2 false unit index) s
def execTestWriteMask (o : Originator) (unit : BitVec 8) (index : BitVec 32) (s : State) :
    Host.Outcome State Fault Refusal := regRow o .test 0x100 (iaccVal 2 true unit index) s
def execTestReadTile (o : Originator) (unit : BitVec 8) (index : BitVec 32) (s : State) :
    Host.Outcome State Fault Refusal := regRow o .test 0x100 (iaccVal 3 false unit index) s
def execTestWriteTile (o : Originator) (unit : BitVec 8) (index : BitVec 32) (s : State) :
    Host.Outcome State Fault Refusal := regRow o .test 0x100 (iaccVal 3 true unit index) s
def execTestReadAcc (o : Originator) (unit : BitVec 8) (index : BitVec 32) (s : State) :
    Host.Outcome State Fault Refusal := regRow o .test 0x100 (iaccVal 4 false unit index) s
def execTestWriteAcc (o : Originator) (unit : BitVec 8) (index : BitVec 32) (s : State) :
    Host.Outcome State Fault Refusal := regRow o .test 0x100 (iaccVal 4 true unit index) s

end Sys2Proof.Machine
end

