-- ==== Sys2Proof/Machine/LoadStore.lean ====
section
/-! DEFINITION. Usher's scalar loads and stores (R6, R49 to R51, R63). -/

namespace Sys2Proof.Machine

/-- The cluster-local address of a load or store: Sa + imm16. -/
def lsAddr (s : State) (t : Fin 16) (w : BitVec 32) : Nat := ((s.thread t).reg (wRa w) + wSimm w).toNat

/-- Where an access of `n` bytes at `a` goes. -/
inductive LsTarget where
  | sram
  | page (slot off : Nat)
  | fault (code : Nat)

/-- R49, R50, R6: outside the map ADDR_BAD; a page access of another width or alignment REG_ACCESS; misaligned ALIGN. -/
def lsTarget (b : Build) (a n : Nat) : LsTarget :=
  if inSram b a 1 then (if a % n = 0 then .sram else .fault 0x02)
  else if inPages a 1 then
    (if n = 8 ∧ a % 8 = 0 then .page ((a - Config.pageBase) / 4096) (a % 4096) else .fault 0x05)
  else .fault 0x01

/-- A load of `n` bytes. A page that has performed an access in this cycle lets the thread try again in the next (R369). -/
def loadBody (n : Nat) (signed : Bool) : Body := fun t w s =>
  let a := lsAddr s t w
  match lsTarget s.build a n with
  | .fault c => .fault c
  | .page slot off =>
    (match Page.ofSlot slot with
    | some p =>
      let r := regRead p off s
      if s.paged.contains p then .wait .ready
      else .next (modThread t (fun th => th.setReg (wRd w) r.1) (usePage p r.2)) (s.pcNext t)
    | none => .next (modThread t (fun th => th.setReg (wRd w) 0) s) (s.pcNext t))
  | .sram =>
    if s.rangeFull then .wait (.waitRange none)
    else
      let e := takeEntry a (a + n - 1) false .usher none s
      let j := addJob (.load t (wRd w) a n signed (s.thread t).pc) [e.1] s.ush.pushSeq.toNat (some t) none e.2
      let s := addRead j.1 0 .usher (some e.1) a n j.2
      .next (modThread t (fun th => { th with pend := th.pend ++ (if wRd w = 0 then [] else [(j.1, wRd w)]) }) s)
        (s.pcNext t)

/-- A store of the `n` low bytes of rd. -/
def storeBody (n : Nat) : Body := fun t w s =>
  let a := lsAddr s t w
  let v := (s.thread t).reg (wRd w)
  match lsTarget s.build a n with
  | .fault c => .fault c
  | .page slot off =>
    (match Page.ofSlot slot with
    | some p =>
      if refusedStore s t p off v then .fault 0x06
      else if s.paged.contains p then .wait .ready
      else .next (usePage p (regWrite (.thread t) p off v s)) (s.pcNext t)
    | none => .next s (s.pcNext t))
  | .sram =>
    if s.rangeFull then .wait (.waitRange none)
    else
      let e := takeEntry a (a + n - 1) true .usher none s
      let j := addJob (.store t (s.thread t).pc) [e.1] s.ush.pushSeq.toNat (some t) none e.2
      .next (addWrite j.1 0 .usher (some e.1) a (leBytes v.toNat n) j.2) (s.pcNext t)

def execLdB (t : Fin 16) (s : State) : Host.Outcome State Fault Refusal := .next (usherRow .ldB (loadBody 1 true) t s)
def execLdBu (t : Fin 16) (s : State) : Host.Outcome State Fault Refusal := .next (usherRow .ldBu (loadBody 1 false) t s)
def execLdH (t : Fin 16) (s : State) : Host.Outcome State Fault Refusal := .next (usherRow .ldH (loadBody 2 true) t s)
def execLdHu (t : Fin 16) (s : State) : Host.Outcome State Fault Refusal := .next (usherRow .ldHu (loadBody 2 false) t s)
def execLdW (t : Fin 16) (s : State) : Host.Outcome State Fault Refusal := .next (usherRow .ldW (loadBody 4 true) t s)
def execLdWu (t : Fin 16) (s : State) : Host.Outcome State Fault Refusal := .next (usherRow .ldWu (loadBody 4 false) t s)
def execLdD (t : Fin 16) (s : State) : Host.Outcome State Fault Refusal := .next (usherRow .ldD (loadBody 8 false) t s)
def execStB (t : Fin 16) (s : State) : Host.Outcome State Fault Refusal := .next (usherRow .stB (storeBody 1) t s)
def execStH (t : Fin 16) (s : State) : Host.Outcome State Fault Refusal := .next (usherRow .stH (storeBody 2) t s)
def execStW (t : Fin 16) (s : State) : Host.Outcome State Fault Refusal := .next (usherRow .stW (storeBody 4) t s)
def execStD (t : Fin 16) (s : State) : Host.Outcome State Fault Refusal := .next (usherRow .stD (storeBody 8) t s)

end Sys2Proof.Machine
end

