-- ==== Sys2Proof/Machine/Mgmt.lean ====
section
/-! DEFINITION. The management port's memory accesses (R201, R206, R209, R358) and the mailbox commands that the firmware of
interface major 1 serves (R67, R333, R384). -/

namespace Sys2Proof.Machine

/-! ## MGMT_MEM_READ, MGMT_MEM_WRITE -/

/-- The instruction memory as the port reads and writes it; a locked write is ignored (R346). -/
def mgmtImem (wr : Option (BitVec 64)) (a : Nat) (s : State) : State :=
  match wr with
  | none => respondData (BitVec.ofNat 64 (memNat s a 8)) s
  | some v => if imemLocked s a then respond .ok (cluBad s) else respond .ok (memWrite a (leBytes v.toNat 8) s)

/-- The bytes that a management write stores at `a`. -/
def mgmtCells (a : Nat) (wr : Option (BitVec 64)) : Option (List Host.Cell) := wr.map fun v => cellsAt a (leBytes v.toNat 8)

/-- The grant of a management access to Hall or Lower Hall: one word of a line whose read flagged `flagged` (R204 to R206). A
line that the outer code corrects answers after its replay, as an access of job `.mgmt`. -/
def mgmtGranted (wr : Option (BitVec 64)) (a : Nat) (flagged : BitVec 10) (s : State) : State :=
  let b := bankIdx a
  let s := useBank b (s.askers b) s
  let s := modTier (tierOf a) (fun h => { h with mgmt := h.mgmt + 1 }) s
  let s := { s with mgmt := { s.mgmt with cntMem := s.mgmt.cntMem + 1 } }
  match s.powerAt a with
  | .retain => respond .off (memEvent a .mgmt 0 true s)
  | .off => respond .off (memEvent a .mgmt 0 true s)
  | _ =>
    let spent := s.spend (.grant (unitCode .mgmt) (a ≥ Config.hallSize)) none 1
    match eccOf flagged with
    | .uncorrectable n =>
      let s := memEvent a .mgmt n false spent
      respond .uncorr (memAbort (tierPage a) 0x18 (s.seqOf (tierPage a) 0) s)
    | .clean =>
      let s := spent
      (match wr with
      | none => respondData (BitVec.ofNat 64 (memNat s a 8)) s
      | some v => respond .ok (memWrite a (leBytes v.toNat 8) s))
    | _ =>
      let j := addJob (.mgmt a wr) [] 0 none none s
      let f := (modJob j.1 (fun x => { x with left := 1 }) j.2).fresh
      grantReq ⟨f.1, j.1, 0, rankOf .mgmt, .mgmt, none, a, 8, mgmtCells a wr⟩ 0 flagged f.2

/-- A management access waits for its replay: responses come in request order, so the next request waits behind it (R358). -/
def State.mgmtBusy (s : State) : Bool := s.jobs.any fun j => match j.kind with | .mgmt .. => true | _ => false

/-- A request of the port for the word at `a` of memory. It waits for its grant where the bank has granted, a replay takes
it, or the group wakes; addresses of the register pages belong to the register rows. -/
def mgmtMem (wr : Option (BitVec 64)) (a : Nat) (flagged : BitVec 10) (s : State) : State :=
  if inPages a 8 then s
  else if !(s.clu.phase == .ready) || s.pwr.coolStopped then respond .unreachable s
  else if s.mgmtBusy then s
  else if inImem a 8 then mgmtImem wr a s
  else if !inSram s.build a 8 then respond .unreachable s
  else
    let b := bankIdx a
    let waking := match s.powerAt a with | .waking _ => true | _ => false
    if waking || !s.clocked || s.granted.contains b || s.repairAsks b then s
    else mgmtGranted wr a flagged s

def execMgmtMemRead (addr : BitVec 29) (flagged : BitVec 10) (s : State) : Host.Outcome State Fault Refusal :=
  .next (mgmtMem none (addr.toNat * 8) flagged s)
def execMgmtMemWrite (addr : BitVec 29) (v : BitVec 64) (flagged : BitVec 10) (s : State) :
    Host.Outcome State Fault Refusal :=
  .next (mgmtMem (some v) (addr.toNat * 8) flagged s)

/-! ## Mailbox commands (R384) -/

/-- The firmware serves command `cmd`: a request with that code is pending, and a firmware of interface major 1 runs. -/
def State.serves (s : State) (cmd : Nat) : Bool :=
  s.mgmt.pending && s.mgmt.reqCmd.toNat == cmd && s.usherActs && !s.stopHeld && s.clu.fwidValid && s.clu.ifMajor == 1 &&
    match (s.thread fwThread).st with | .free => false | .halted => false | .faulted => false | _ => true

/-- The firmware's answer: response data 0 and 1, then the response header (R382). -/
def answer (status : Nat) (d0 d1 : Option (BitVec 64)) (s : State) : State :=
  let put (i : Fin 4) (d : Option (BitVec 64)) (s : State) : State :=
    match d with
    | some v => { s with mgmt := { s.mgmt with data := s.mgmt.data.set i v } }
    | none => s
  let s := put 1 d1 (put 0 d0 s)
  countEvt .mgmt 0 { s with mgmt := { s.mgmt with
    pending := false, rspStatus := BitVec.ofNat 8 status, rspSeq := s.mgmt.reqSeq } }

/-- `n` bytes of Hall from `a` on that the firmware can load or store as doublewords. -/
def hallBuffer (s : State) (a n : Nat) : Bool :=
  a % 8 == 0 && inHall a n && (lineChunks a n).all fun c => s.powerAt c.1 == .on

/-- The firmware's loads or stores of `n` bytes from `a` find no older access in their way (R15, R61). -/
def State.clearOf (s : State) (a n : Nat) (wr : Bool) : Bool :=
  !(s.range.any fun e => e.lo < a + n && a ≤ e.hi && (e.wr || wr))

def mgmtPing (s : State) : State :=
  if s.serves 0x01 then answer 0 (some (plainRead s .clu 0xB0)) none s else s

/-- Step 3 of the procedure under R67 for thread `t`, with its live state as EXPECT. -/
def startListed (pcs : Nat) (acc : Nat × State) (t : Fin 16) : Nat × State :=
  let s := acc.2
  let st := (s.thread t).st
  let pc := memNat s (pcs + 8 * t.val) 8 % 2 ^ 18
  if st.canStart ∧ pc % 4 = 0 then
    (acc.1 + 2 ^ t.val, regWrite (.thread fwThread) .ush (0x180 + 8 * t.val) (put 0 pc ||| put 20 st.code ||| put 24 1) s)
  else acc

/-- TASK_START: the procedure under R67 for the listed task threads, once its loads of their pcs meet no access (R15). -/
def mgmtTaskStart (s : State) : State :=
  if !s.serves 0x02 then s
  else if s.mgmt.reqExpect.toNat ≠ s.ush.task.code then answer 2 (some (put 0 s.ush.task.code)) none s
  else
    let pcs := s.mgmt.args[0].toNat
    let list := fld s.mgmt.args[1] 0 15
    if s.ush.task ≠ .loaded ∨ !hallBuffer s pcs 128 then answer 3 none none s
    else if !s.clearOf pcs 128 false then s
    else
      let cfg := (plainRead s .step 0x40 &&& ~~~(bitsMask 16 16)) ||| put 16 list ||| put 1 1
      let s := regWrite (.thread fwThread) .step 0x40 cfg s
      let r := (allThreads.filter fun t => t != fwThread && Nat.testBit list t.val).foldl (startListed pcs) (0, s)
      answer 0 (some (put 0 r.1)) none r.2

/-- One record of EVT_SWEEP: slot, PAGE_ERR_SEQ, PAGE_ERR_LOG. -/
def sweepRecord (s : State) (p : Page) : List (BitVec 8) :=
  leBytes p.slot.val 8 ++ leBytes (headerRead s p 0x38).toNat 8 ++ leBytes (headerRead s p 0x30).toNat 8

/-- EVT_SWEEP: one record for each page with its EVT_PEND bit set, as far as the buffer goes, once its stores meet no access
(R15). -/
def mgmtEvtSweep (s : State) : State :=
  if !s.serves 0x03 then s
  else
    let buf := s.mgmt.args[0].toNat
    let room := s.mgmt.args[1].toNat / 24
    let pages := (Page.all.filter s.pendBit).take room
    let bytes := pages.flatMap (sweepRecord s)
    if hallBuffer s buf bytes.length then
      if !s.clearOf buf bytes.length true then s
      else answer 0 (some s.evtPend) (some (put 0 pages.length)) (memWrite buf bytes s)
    else answer 3 none none s

/-- THREAD_RESTART: a start under R67 in inspection mode. Thread 15 serves the request and is no thread to restart. -/
def mgmtThreadRestart (s : State) : State :=
  if !s.serves 0x04 then s
  else
    let t := Fin.ofNat 16 s.mgmt.args[0].toNat
    let st := (s.thread t).st
    let pc := fld s.mgmt.args[1] 0 18
    if 15 ≤ s.mgmt.args[0].toNat then answer 3 none none s
    else if s.mgmt.reqExpect.toNat ≠ st.code then answer 2 (some (put 0 st.code)) none s
    else if !s.clu.live ∨ !st.canStart ∨ pc % 4 ≠ 0 then answer 3 none none s
    else answer 0 none none
      (regWrite (.thread fwThread) .ush (0x180 + 8 * t.val) (put 0 pc ||| put 20 st.code ||| put 24 1) s)

def execMgmtPing (s : State) : Host.Outcome State Fault Refusal := .next (mgmtPing s)
def execMgmtTaskStart (s : State) : Host.Outcome State Fault Refusal := .next (mgmtTaskStart s)
def execMgmtEvtSweep (s : State) : Host.Outcome State Fault Refusal := .next (mgmtEvtSweep s)
def execMgmtThreadRestart (s : State) : Host.Outcome State Fault Refusal := .next (mgmtThreadRestart s)

end Sys2Proof.Machine
end

