-- ==== Sys2Proof/Machine/Push.lean ====
section
/-! DEFINITION. Pushes of engine commands: ENQ.I, ENQ.R, ENQ.H (R57), the checks at a push (R45, R58, R65), wide commands
(R398, R399), push sequence and range entries (R59, R61, R63), owed pushes (R59). -/

namespace Sys2Proof.Machine

/-- What a push comes to. A fault may have discarded a held first entry (R399 rule 2). -/
inductive PushRes where
  | done (s : State)
  | fault (code : Nat) (s : State)
  | queueWait
  | rangeWait

def isWide (c : Cmd) : Bool := cOpc c == 0x17 || cOpc c == 0x19

/-- The unit whose range entries a queue's commands take. -/
def queueUnit (q : Fin 8) : MemUnit := if q = 3 then .vec else .tile

/-- The ungated operands of a push, which take their entries now (R61). -/
def pushOperands (s : State) (ops : List (Nat × Nat × Bool)) : List (Nat × Nat × Bool) :=
  ops.filter fun o => gateOf s o.1 o.2.1 == .plain

/-- The push of command `c` with seed extension `ext`, once no check refuses it (R59, R61, R63). A push that needs no entry
never waits for entries (DEDUCED from R63, assumption 42). -/
def placePush (t : Fin 16) (q : Fin 8) (c : Cmd) (ext : BitVec 64) (s : State) : PushRes :=
  let cap := if cOpc c = 0x1E then pushView s (goDef c) else []
  let all := cmdOperands c (pushVl s) cap
  let ops := pushOperands s all
  if slotRange s all then .fault 0x09 (modQueue q (fun x => { x with hold := none }) s)
  else if (s.queue q).count + 1 > Config.queueDepth then .queueWait
  else if ops.length > 0 ∧ s.inUse + ops.length + 16 > Config.rangeEntries then .rangeWait
  else
    let r := ops.foldl (fun (acc : List Nat × State) o =>
      let e := takeEntry o.1 (o.1 + o.2.1 - 1) o.2.2 (queueUnit q) none acc.2
      (acc.1 ++ [e.1], e.2)) ([], s)
    let s := r.2
    let seq := s.ush.pushSeq + 1
    let s := { s with ush := { s.ush with pushSeq := seq } }
    .done (modQueue q (fun x => { x with
      hold := none, cmds := x.cmds ++ [⟨c, ext, seq.toNat, t, s.now, r.1, cap, pushVl s⟩] }) s)

/-- Thread `t` pushes `c` to queue `q`. A push that is also bad while no latency version is selected raises LAT_UNSET: R45 and
R58 give no order between the two (DESIGN CHOICE, assumption 41). -/
def tryPush (t : Fin 16) (q : Fin 8) (c : Cmd) (s : State) : PushRes :=
  let drop := modQueue q (fun x => { x with hold := none }) s
  if s.lat.version = 0 then .fault 0x08 s
  else match (s.queue q).hold with
    | some (h, first) =>
      if h = t then
        if cOpc c = 0 ∧ !pushBad s q c then placePush t q first (c.extractLsb' 64 64) s else .fault 0x07 drop
      else if cOpc c = 0 ∨ pushBad s q c then .fault 0x07 s
      else .queueWait
    | none =>
      if cOpc c = 0 ∨ pushBad s q c then .fault 0x07 s
      else if isWide c then
        if (s.queue q).count + 1 > Config.queueDepth then .queueWait
        else .done (modQueue q (fun x => { x with hold := some (t, c) }) s)
      else placePush t q c 0 s

/-- An ENQ.I or ENQ.R: its push is made now, or owed (R56, R59). -/
def enqBody (q : Fin 8) (c : Cmd) (len : BitVec 18) (t : Fin 16) (s : State) : Res :=
  let o : Owed := ⟨q, [c]⟩
  match tryPush t q c s with
  | .done s => .next s ((s.thread t).pc + len)
  | .fault code s => .trap code s
  | .queueWait => .next (modThread t (fun th => { th with st := .waitQueue o }) s) (s.thread t).pc
  | .rangeWait => .next (modThread t (fun th => { th with st := .waitRange (some o) }) s) (s.thread t).pc

/-- The four words after ENQ.I (R57, R400). -/
def inlineCmd (s : State) (pc : BitVec 18) : Cmd :=
  (List.range 4).foldl (fun (c : Cmd) i => c ||| ((fetchWord s (pc + 4 + BitVec.ofNat 18 (4 * i))).zeroExtend 128 <<< (32 * i))) 0

def execEnqI (t : Fin 16) (s : State) : Host.Outcome State Fault Refusal :=
  .next (usherRow .enqI (fun t w s => enqBody (wQ w) (inlineCmd s (s.thread t).pc) 20 t s) t s)

def execEnqR (t : Fin 16) (s : State) : Host.Outcome State Fault Refusal :=
  .next (usherRow .enqR (fun t w s =>
    let th := s.thread t
    enqBody (wQ w) ((th.reg (wRb w)) ++ (th.reg (wRa w))) 4 t s) t s)

/-- ENQ.H: the read of its commands takes an entry at issue (R57, R61). -/
def enqHBody : Body := fun t w s =>
  let a := ((s.thread t).reg (wRa w)).toNat
  let n := fld w 0 4 + 1
  if a % 16 ≠ 0 then .fault 0x02
  else if !inSram s.build a (16 * n) then .fault 0x01
  else if s.rangeFull then .wait (.waitRange none)
  else
    let pc := (s.thread t).pc
    let e := takeEntry a (a + 16 * n - 1) false .usher none s
    let j := addJob (.enqh t (wQ w) a n pc) [e.1] s.ush.pushSeq.toNat (some t) none e.2
    let s := addRead j.1 0 .usher (some e.1) a (16 * n) j.2
    .next (modThread t (fun th => { th with st := .waitData (.enqh j.1) }) s) pc

def execEnqH (t : Fin 16) (s : State) : Host.Outcome State Fault Refusal := .next (usherRow .enqH enqHBody t s)

/-! ## Owed pushes (R59) -/

/-- The pushes a thread owes. -/
def Thread.owed? (th : Thread) : Option Owed :=
  match th.st with
  | .waitQueue o => some o
  | .waitRange (some o) => some o
  | .waitData (.owed o) => some o
  | _ => none

/-- The owed push of thread `t` may be made in this cycle, and comes to something other than a wait. -/
def State.owedNow (s : State) (t : Fin 16) : Bool :=
  !s.ush.pushed.contains t && !s.stopHeld &&
    match (s.thread t).owed? with
    | some ⟨q, c :: _⟩ => (match tryPush t q c s with | .done _ => true | .fault _ _ => true | _ => false)
    | _ => false

/-- The length of the instruction that owes the push: ENQ.I with its inline words, or one word. -/
def enqLen (s : State) (pc : BitVec 18) : BitVec 18 :=
  if decodeUsher (fetchWord s pc) = some .enqI then 20 else 4

/-- The thread after the first of its owed pushes `o` was made: it pushes on, or its instruction is done. -/
def owedNext (t : Fin 16) (o : Owed) (s : State) : State :=
  match o.cmds.drop 1 with
  | [] => modThread t (fun th => { th.resume with pc := th.pc + enqLen s th.pc, notBefore := s.now + 1 }) s
  | r => modThread t (fun th => { th with st := .waitData (.owed ⟨o.q, r⟩) }) s

/-- The threads ahead of `t` in the order of the rotation pointer. -/
def State.aheadOf (s : State) (t : Fin 16) : List (Fin 16) := s.rotation.takeWhile (· ≠ t)

/-- Thread `t` makes the next push it owes: before the pushes of this cycle's instructions, and after those of the threads
ahead of it in the rotation. -/
def owedPush (t : Fin 16) (s : State) : State :=
  if !s.clocked || s.clu.phase ≠ .ready || s.ush.slot0.isSome || !s.owedNow t || (s.aheadOf t).any s.owedNow then s
  else match (s.thread t).owed? with
    | some ⟨q, c :: r⟩ =>
      let mark (s : State) : State := { s with ush := { s.ush with pushed := t :: s.ush.pushed } }
      (match tryPush t q c s with
      | .done s => owedNext t ⟨q, c :: r⟩ (mark s)
      | .fault code s => preciseFault t code (mark s)
      | .queueWait => s
      | .rangeWait => s)
    | _ => s

/-- A thread whose owed push could not be made in this cycle shows what it waits for: room in its queue, or range entries
(R52, R56, R63). -/
def noteOwed (t : Fin 16) (s : State) : State :=
  if s.ush.pushed.contains t then s
  else match (s.thread t).owed? with
    | some ⟨q, c :: r⟩ =>
      (match tryPush t q c s with
      | .queueWait => modThread t (fun th => { th with st := .waitQueue ⟨q, c :: r⟩ }) s
      | .rangeWait => modThread t (fun th => { th with st := .waitRange (some ⟨q, c :: r⟩) }) s
      | _ => s)
    | _ => s

def execOwedPush (t : Fin 16) (s : State) : Host.Outcome State Fault Refusal := .next (owedPush t s)

/-- CMD.X: the extension entry of a wide command (R398, R399), pushed by thread `t`'s instruction, or as the push it
owes. -/
def execCmdX (t : Fin 16) (s : State) : Host.Outcome State Fault Refusal :=
  let th := s.thread t
  match th.owed? with
  | some ⟨_, c :: _⟩ => .next (if cOpc c = 0 then owedPush t s else s)
  | _ =>
    let w := fetchWord s th.pc
    match decodeUsher w with
    | some .enqI =>
      if cOpc (inlineCmd s th.pc) = 0 then
        .next (usherRow .enqI (fun t w s => enqBody (wQ w) (inlineCmd s (s.thread t).pc) 20 t s) t s)
      else .next s
    | some .enqR =>
      if cOpc ((th.reg (wRb w)) ++ (th.reg (wRa w)) : Cmd) = 0 then
        .next (usherRow .enqR (fun t w s =>
          let th := s.thread t
          enqBody (wQ w) ((th.reg (wRb w)) ++ (th.reg (wRa w))) 4 t s) t s)
      else .next s
    | _ => .next s

end Sys2Proof.Machine
end

