-- ==== Sys2Proof/Machine/Dispatch.lean ====
section
/-! DEFINITION. The meaning of every command: one arm per row of opcode_table.json. -/

namespace Sys2Proof.Machine

def exec (i : Instr) (s : State) : Host.Outcome State Fault Refusal :=
  match i with
  | .add t => Sys2Proof.Machine.execAdd t s
  | .sub t => Sys2Proof.Machine.execSub t s
  | .and t => Sys2Proof.Machine.execAnd t s
  | .or t => Sys2Proof.Machine.execOr t s
  | .xor t => Sys2Proof.Machine.execXor t s
  | .shl t => Sys2Proof.Machine.execShl t s
  | .shr t => Sys2Proof.Machine.execShr t s
  | .sra t => Sys2Proof.Machine.execSra t s
  | .slt t => Sys2Proof.Machine.execSlt t s
  | .sltu t => Sys2Proof.Machine.execSltu t s
  | .min t => Sys2Proof.Machine.execMin t s
  | .max t => Sys2Proof.Machine.execMax t s
  | .mul t => Sys2Proof.Machine.execMul t s
  | .mulhu t => Sys2Proof.Machine.execMulhu t s
  | .addi t => Sys2Proof.Machine.execAddi t s
  | .andi t => Sys2Proof.Machine.execAndi t s
  | .ori t => Sys2Proof.Machine.execOri t s
  | .xori t => Sys2Proof.Machine.execXori t s
  | .shi t => Sys2Proof.Machine.execShi t s
  | .slti t => Sys2Proof.Machine.execSlti t s
  | .movz t => Sys2Proof.Machine.execMovz t s
  | .movk t => Sys2Proof.Machine.execMovk t s
  | .ldB t => Sys2Proof.Machine.execLdB t s
  | .ldBu t => Sys2Proof.Machine.execLdBu t s
  | .ldH t => Sys2Proof.Machine.execLdH t s
  | .ldHu t => Sys2Proof.Machine.execLdHu t s
  | .ldW t => Sys2Proof.Machine.execLdW t s
  | .ldWu t => Sys2Proof.Machine.execLdWu t s
  | .ldD t => Sys2Proof.Machine.execLdD t s
  | .stB t => Sys2Proof.Machine.execStB t s
  | .stH t => Sys2Proof.Machine.execStH t s
  | .stW t => Sys2Proof.Machine.execStW t s
  | .stD t => Sys2Proof.Machine.execStD t s
  | .beq t => Sys2Proof.Machine.execBeq t s
  | .bne t => Sys2Proof.Machine.execBne t s
  | .blt t => Sys2Proof.Machine.execBlt t s
  | .bge t => Sys2Proof.Machine.execBge t s
  | .bltu t => Sys2Proof.Machine.execBltu t s
  | .bgeu t => Sys2Proof.Machine.execBgeu t s
  | .j t => Sys2Proof.Machine.execJ t s
  | .jal t => Sys2Proof.Machine.execJal t s
  | .jr t => Sys2Proof.Machine.execJr t s
  | .enqI t => Sys2Proof.Machine.execEnqI t s
  | .enqR t => Sys2Proof.Machine.execEnqR t s
  | .enqH t => Sys2Proof.Machine.execEnqH t s
  | .stepWait t => Sys2Proof.Machine.execStepWait t s
  | .stepEnd t => Sys2Proof.Machine.execStepEnd t s
  | .syncWait t => Sys2Proof.Machine.execSyncWait t s
  | .syncAdd t => Sys2Proof.Machine.execSyncAdd t s
  | .syncSet t => Sys2Proof.Machine.execSyncSet t s
  | .syncRd t => Sys2Proof.Machine.execSyncRd t s
  | .queCfg t => Sys2Proof.Machine.execQueCfg t s
  | .quePut t => Sys2Proof.Machine.execQuePut t s
  | .queGet t => Sys2Proof.Machine.execQueGet t s
  | .atomAdd t => Sys2Proof.Machine.execAtomAdd t s
  | .atomMax t => Sys2Proof.Machine.execAtomMax t s
  | .atomMin t => Sys2Proof.Machine.execAtomMin t s
  | .atomAnd t => Sys2Proof.Machine.execAtomAnd t s
  | .atomOr t => Sys2Proof.Machine.execAtomOr t s
  | .atomSwap t => Sys2Proof.Machine.execAtomSwap t s
  | .atomCas t => Sys2Proof.Machine.execAtomCas t s
  | .atomQput t => Sys2Proof.Machine.execAtomQput t s
  | .atomHAdd t => Sys2Proof.Machine.execAtomHAdd t s
  | .atomHSwap t => Sys2Proof.Machine.execAtomHSwap t s
  | .atomHCas t => Sys2Proof.Machine.execAtomHCas t s
  | .taskEnd t => Sys2Proof.Machine.execTaskEnd t s
  | .fwRet t => Sys2Proof.Machine.execFwRet t s
  | .owedPush t => Sys2Proof.Machine.execOwedPush t s
  | .stepWaitExpire t => Sys2Proof.Machine.execStepWaitExpire t s
  | .releaseFenceClear t => Sys2Proof.Machine.execReleaseFenceClear t s
  | .cmdX t => Sys2Proof.Machine.execCmdX t s
  | .opx a => Sys2Proof.Machine.execOpx a s
  | .opaClr a => Sys2Proof.Machine.execOpaClr a s
  | .bankReadoutPoint a b => Sys2Proof.Machine.execBankReadoutPoint a b s
  | .opaResume o a v => Sys2Proof.Machine.execOpaResume o a v s
  | .tileLineLand b => Sys2Proof.Machine.execTileLineLand b s
  | .tilePauseWrite o v => Sys2Proof.Machine.execTilePauseWrite o v s
  | .tileResume o v => Sys2Proof.Machine.execTileResume o v s
  | .tileDiscard o v => Sys2Proof.Machine.execTileDiscard o v s
  | .vecRetry o v => Sys2Proof.Machine.execVecRetry o v s
  | .vecDiscard o v => Sys2Proof.Machine.execVecDiscard o v s
  | .treadProgramLoaded slot => Sys2Proof.Machine.execTreadProgramLoaded slot s
  | .strmCfg n => Sys2Proof.Machine.execStrmCfg n s
  | .strmArm n => Sys2Proof.Machine.execStrmArm n s
  | .strmCancel n => Sys2Proof.Machine.execStrmCancel n s
  | .cancelComplete n c => Sys2Proof.Machine.execCancelComplete n c s
  | .descBlockUsable n c => Sys2Proof.Machine.execDescBlockUsable n c s
  | .descCopy n c => Sys2Proof.Machine.execDescCopy n c s
  | .descGather n c => Sys2Proof.Machine.execDescGather n c s
  | .descScatter n c => Sys2Proof.Machine.execDescScatter n c s
  | .descNop n c => Sys2Proof.Machine.execDescNop n c s
  | .descJump n c => Sys2Proof.Machine.execDescJump n c s
  | .streamTileComplete n c => Sys2Proof.Machine.execStreamTileComplete n c s
  | .strmResume o n v => Sys2Proof.Machine.execStrmResume o n v s
  | .strmDiscard o n v => Sys2Proof.Machine.execStrmDiscard o n v s
  | .fabRdReq src tag addr len => Sys2Proof.Machine.execFabRdReq src tag addr len s
  | .fabRdRsp tag data => Sys2Proof.Machine.execFabRdRsp tag data s
  | .fabWr src tag addr data adv => Sys2Proof.Machine.execFabWr src tag addr data adv s
  | .fabWrAck tag => Sys2Proof.Machine.execFabWrAck tag s
  | .fabAtomReq src tag addr op b c => Sys2Proof.Machine.execFabAtomReq src tag addr op b c s
  | .fabAtomRsp tag value => Sys2Proof.Machine.execFabAtomRsp tag value s
  | .fabErrRsp tag code => Sys2Proof.Machine.execFabErrRsp tag code s
  | .galWriteFlit g f => Sys2Proof.Machine.execGalWriteFlit g f s
  | .galReadRequest g crcOk seq addr len => Sys2Proof.Machine.execGalReadRequest g crcOk seq addr len s
  | .galReadResponse g h of_ data => Sys2Proof.Machine.execGalReadResponse g h of_ data s
  | .galAck g h => Sys2Proof.Machine.execGalAck g h s
  | .galErrorResponse g h code => Sys2Proof.Machine.execGalErrorResponse g h code s
  | .galCreditReturn g vc => Sys2Proof.Machine.execGalCreditReturn g vc s
  | .galReplayRequest g h => Sys2Proof.Machine.execGalReplayRequest g h s
  | .relayForward g => Sys2Proof.Machine.execRelayForward g s
  | .passThroughForward g x => Sys2Proof.Machine.execPassThroughForward g x s
  | .galCapWord p w => Sys2Proof.Machine.execGalCapWord p w s
  | .linkTrained p r => Sys2Proof.Machine.execLinkTrained p r s
  | .galRecalPeriod g => Sys2Proof.Machine.execGalRecalPeriod g s
  | .moduleRecalDone g ok repaired => Sys2Proof.Machine.execModuleRecalDone g ok repaired s
  | .galRetrain o g v => Sys2Proof.Machine.execGalRetrain o g v s
  | .fabRetrain o v => Sys2Proof.Machine.execFabRetrain o v s
  | .galRelayWrite o g e delta v => Sys2Proof.Machine.execGalRelayWrite o g e delta v s
  | .fabIdWrite o v => Sys2Proof.Machine.execFabIdWrite o v s
  | .fabWheelWrite o v => Sys2Proof.Machine.execFabWheelWrite o v s
  | .winCtlWrite o w v => Sys2Proof.Machine.execWinCtlWrite o w v s
  | .winFieldWrite o w field v => Sys2Proof.Machine.execWinFieldWrite o w field v s
  | .hallAccessGrant b inner flagged => Sys2Proof.Machine.execHallAccessGrant b inner flagged s
  | .hallReadDataUsable id => Sys2Proof.Machine.execHallReadDataUsable id s
  | .hallWriteComplete id => Sys2Proof.Machine.execHallWriteComplete id s
  | .outerCodeReread id flagged => Sys2Proof.Machine.execOuterCodeReread id flagged s
  | .outerCodeWriteback id => Sys2Proof.Machine.execOuterCodeWriteback id s
  | .hallScrubStart o tier v => Sys2Proof.Machine.execHallScrubStart o tier v s
  | .scrubPassDone tier => Sys2Proof.Machine.execScrubPassDone tier s
  | .hallPwrWrite o tier v => Sys2Proof.Machine.execHallPwrWrite o tier v s
  | .powerWakeDone tier g => Sys2Proof.Machine.execPowerWakeDone tier g s
  | .landCfgWrite o l v => Sys2Proof.Machine.execLandCfgWrite o l v s
  | .landOvfWrite o l v => Sys2Proof.Machine.execLandOvfWrite o l v s
  | .landTagset o v => Sys2Proof.Machine.execLandTagset o v s
  | .landingSpillStart l => Sys2Proof.Machine.execLandingSpillStart l s
  | .landingSpillReadDone l => Sys2Proof.Machine.execLandingSpillReadDone l s
  | .landingSpillAck l => Sys2Proof.Machine.execLandingSpillAck l s
  | .landingRefillStart l => Sys2Proof.Machine.execLandingRefillStart l s
  | .landingRefillDone l => Sys2Proof.Machine.execLandingRefillDone l s
  | .syncValWrite o v => Sys2Proof.Machine.execSyncValWrite o v s
  | .stepMarkNormal capIn opIn => Sys2Proof.Machine.execStepMarkNormal capIn opIn s
  | .stepCfgWrite o v => Sys2Proof.Machine.execStepCfgWrite o v s
  | .stepLenWrite o v => Sys2Proof.Machine.execStepLenWrite o v s
  | .stepSlackWrite o v => Sys2Proof.Machine.execStepSlackWrite o v s
  | .stepGuardWrite o v => Sys2Proof.Machine.execStepGuardWrite o v s
  | .latSelWrite o v => Sys2Proof.Machine.execLatSelWrite o v s
  | .ushRunSet o v => Sys2Proof.Machine.execUshRunSet o v s
  | .ushRunClear o v => Sys2Proof.Machine.execUshRunClear o v s
  | .ushImemSplitWrite o v => Sys2Proof.Machine.execUshImemSplitWrite o v s
  | .ushTaskWrite o v => Sys2Proof.Machine.execUshTaskWrite o v s
  | .threadStart o t v => Sys2Proof.Machine.execThreadStart o t v s
  | .threadStop o t v => Sys2Proof.Machine.execThreadStop o t v s
  | .wdogKick o v => Sys2Proof.Machine.execWdogKick o v s
  | .wdogCtlWrite o v => Sys2Proof.Machine.execWdogCtlWrite o v s
  | .pwrCapWrite o v => Sys2Proof.Machine.execPwrCapWrite o v s
  | .pwrWinWrite o v => Sys2Proof.Machine.execPwrWinWrite o v s
  | .pwrDroopWrite o v => Sys2Proof.Machine.execPwrDroopWrite o v s
  | .powerInputSample capIn opIn => Sys2Proof.Machine.execPowerInputSample capIn opIn s
  | .droopCrossing microvolts => Sys2Proof.Machine.execDroopCrossing microvolts s
  | .thermConversion k reading => Sys2Proof.Machine.execThermConversion k reading s
  | .evtClear o v => Sys2Proof.Machine.execEvtClear o v s
  | .pageEvtClear o slot v => Sys2Proof.Machine.execPageEvtClear o slot v s
  | .registerWrite o addr v => Sys2Proof.Machine.execRegisterWrite o addr v s
  | .mgmtMemRead addr flagged => Sys2Proof.Machine.execMgmtMemRead addr flagged s
  | .mgmtMemWrite addr v flagged => Sys2Proof.Machine.execMgmtMemWrite addr v flagged s
  | .mgmtReqHdrWrite o v => Sys2Proof.Machine.execMgmtReqHdrWrite o v s
  | .mgmtRspHdrWrite o v => Sys2Proof.Machine.execMgmtRspHdrWrite o v s
  | .testReadThreadReg o unit index => Sys2Proof.Machine.execTestReadThreadReg o unit index s
  | .testWriteThreadReg o unit index => Sys2Proof.Machine.execTestWriteThreadReg o unit index s
  | .testReadVreg o unit index => Sys2Proof.Machine.execTestReadVreg o unit index s
  | .testWriteVreg o unit index => Sys2Proof.Machine.execTestWriteVreg o unit index s
  | .testReadMask o unit index => Sys2Proof.Machine.execTestReadMask o unit index s
  | .testWriteMask o unit index => Sys2Proof.Machine.execTestWriteMask o unit index s
  | .testReadTile o unit index => Sys2Proof.Machine.execTestReadTile o unit index s
  | .testWriteTile o unit index => Sys2Proof.Machine.execTestWriteTile o unit index s
  | .testReadAcc o unit index => Sys2Proof.Machine.execTestReadAcc o unit index s
  | .testWriteAcc o unit index => Sys2Proof.Machine.execTestWriteAcc o unit index s
  | .clusterReset o v => Sys2Proof.Machine.execClusterReset o v s
  | .fuseLoadDone img => Sys2Proof.Machine.execFuseLoadDone img s
  | .selftestDone exhausted spares => Sys2Proof.Machine.execSelftestDone exhausted spares s
  | .hashStart o v => Sys2Proof.Machine.execHashStart o v s
  | .cluModeWrite o v => Sys2Proof.Machine.execCluModeWrite o v s
  | .cluFwidWrite o v => Sys2Proof.Machine.execCluFwidWrite o v s
  | .mgmtRegisterRead addr => Sys2Proof.Machine.execMgmtRegisterRead addr s
  | .galPeerLost g => Sys2Proof.Machine.execGalPeerLost g s
  | .ucieModuleFailure g k => Sys2Proof.Machine.execUcieModuleFailure g k s
  | .fabCreditReturn kind => Sys2Proof.Machine.execFabCreditReturn kind s
  | .mbistMarchDone r => Sys2Proof.Machine.execMbistMarchDone r s
  | .syncWake => Sys2Proof.Machine.execSyncWake s
  | .taskEnded => Sys2Proof.Machine.execTaskEnded s
  | .tcfg => Sys2Proof.Machine.execTcfg s
  | .trel => Sys2Proof.Machine.execTrel s
  | .tileCfgTakeEffect => Sys2Proof.Machine.execTileCfgTakeEffect s
  | .tld => Sys2Proof.Machine.execTld s
  | .tst => Sys2Proof.Machine.execTst s
  | .vadd => Sys2Proof.Machine.execVadd s
  | .vsub => Sys2Proof.Machine.execVsub s
  | .vmul => Sys2Proof.Machine.execVmul s
  | .vfma => Sys2Proof.Machine.execVfma s
  | .vmin => Sys2Proof.Machine.execVmin s
  | .vmax => Sys2Proof.Machine.execVmax s
  | .vabs => Sys2Proof.Machine.execVabs s
  | .vneg => Sys2Proof.Machine.execVneg s
  | .vaddI => Sys2Proof.Machine.execVaddI s
  | .vsubI => Sys2Proof.Machine.execVsubI s
  | .vmulI => Sys2Proof.Machine.execVmulI s
  | .vminI => Sys2Proof.Machine.execVminI s
  | .vmaxI => Sys2Proof.Machine.execVmaxI s
  | .vand => Sys2Proof.Machine.execVand s
  | .vor => Sys2Proof.Machine.execVor s
  | .vxor => Sys2Proof.Machine.execVxor s
  | .vnot => Sys2Proof.Machine.execVnot s
  | .vshl => Sys2Proof.Machine.execVshl s
  | .vshr => Sys2Proof.Machine.execVshr s
  | .vsra => Sys2Proof.Machine.execVsra s
  | .vcmp => Sys2Proof.Machine.execVcmp s
  | .vmov => Sys2Proof.Machine.execVmov s
  | .vsel => Sys2Proof.Machine.execVsel s
  | .vsplat => Sys2Proof.Machine.execVsplat s
  | .kand => Sys2Proof.Machine.execKand s
  | .kor => Sys2Proof.Machine.execKor s
  | .kxor => Sys2Proof.Machine.execKxor s
  | .knot => Sys2Proof.Machine.execKnot s
  | .vcvt => Sys2Proof.Machine.execVcvt s
  | .vrcp => Sys2Proof.Machine.execVrcp s
  | .vrsqrt => Sys2Proof.Machine.execVrsqrt s
  | .vexp2 => Sys2Proof.Machine.execVexp2 s
  | .vlog2 => Sys2Proof.Machine.execVlog2 s
  | .vscan => Sys2Proof.Machine.execVscan s
  | .vred => Sys2Proof.Machine.execVred s
  | .vperm => Sys2Proof.Machine.execVperm s
  | .vbcast => Sys2Proof.Machine.execVbcast s
  | .vcompress => Sys2Proof.Machine.execVcompress s
  | .vexpand => Sys2Proof.Machine.execVexpand s
  | .vld => Sys2Proof.Machine.execVld s
  | .vst => Sys2Proof.Machine.execVst s
  | .vldMx => Sys2Proof.Machine.execVldMx s
  | .vstMx => Sys2Proof.Machine.execVstMx s
  | .vldx => Sys2Proof.Machine.execVldx s
  | .vstx => Sys2Proof.Machine.execVstx s
  | .vaccRd => Sys2Proof.Machine.execVaccRd s
  | .vcfg => Sys2Proof.Machine.execVcfg s
  | .fltStg => Sys2Proof.Machine.execFltStg s
  | .fltAdr => Sys2Proof.Machine.execFltAdr s
  | .fltGo => Sys2Proof.Machine.execFltGo s
  | .flightComplete => Sys2Proof.Machine.execFlightComplete s
  | .trdLoad => Sys2Proof.Machine.execTrdLoad s
  | .fabTransferIssue => Sys2Proof.Machine.execFabTransferIssue s
  | .fabLinkLoss => Sys2Proof.Machine.execFabLinkLoss s
  | .stepMarkStop => Sys2Proof.Machine.execStepMarkStop s
  | .opChangeClockRestart => Sys2Proof.Machine.execOpChangeClockRestart s
  | .stepReadyRise => Sys2Proof.Machine.execStepReadyRise s
  | .stepLateLimit => Sys2Proof.Machine.execStepLateLimit s
  | .stepOverrun => Sys2Proof.Machine.execStepOverrun s
  | .wdogExpired => Sys2Proof.Machine.execWdogExpired s
  | .usherRestart => Sys2Proof.Machine.execUsherRestart s
  | .balustradeInterval => Sys2Proof.Machine.execBalustradeInterval s
  | .banisterHoldExpire => Sys2Proof.Machine.execBanisterHoldExpire s
  | .coolStop => Sys2Proof.Machine.execCoolStop s
  | .mgmtPing => Sys2Proof.Machine.execMgmtPing s
  | .mgmtTaskStart => Sys2Proof.Machine.execMgmtTaskStart s
  | .mgmtEvtSweep => Sys2Proof.Machine.execMgmtEvtSweep s
  | .mgmtThreadRestart => Sys2Proof.Machine.execMgmtThreadRestart s
  | .tapIdcode => Sys2Proof.Machine.execTapIdcode s
  | .tapFuseread => Sys2Proof.Machine.execTapFuseread s
  | .tapMbistRun => Sys2Proof.Machine.execTapMbistRun s
  | .tapMbistResult => Sys2Proof.Machine.execTapMbistResult s
  | .tapBypass => Sys2Proof.Machine.execTapBypass s
  | .wsBypass => Sys2Proof.Machine.execWsBypass s
  | .wsExtest => Sys2Proof.Machine.execWsExtest s
  | .wsIntest => Sys2Proof.Machine.execWsIntest s
  | .wsBondtest => Sys2Proof.Machine.execWsBondtest s
  | .wsUcieloop => Sys2Proof.Machine.execWsUcieloop s
  | .testReset => Sys2Proof.Machine.execTestReset s
  | .powerOnReset => Sys2Proof.Machine.execPowerOnReset s
  | .resetRelease => Sys2Proof.Machine.execResetRelease s
  | .clockLocked => Sys2Proof.Machine.execClockLocked s
  | .clockLockFail => Sys2Proof.Machine.execClockLockFail s
  | .hashDone => Sys2Proof.Machine.execHashDone s

end Sys2Proof.Machine
end

