-- ==== Sys2Proof/Machine/Tick.lean ====
section
/-! DEFINITION. One cycle of the clock, which is what a step does when no command waits: the counts of cycles and of mark
time (R21, R53, R317, R318, R320), what units count while they wait, what the Galleries send, and the end of the cycle. -/

namespace Sys2Proof.Machine

/-! ## Mark time (R21, R312, R319, R320) -/

/-- The frequency of a point, in units of 50 MHz; the plan clock has 28. -/
def pointFreq (op : BitVec 3) : Nat :=
  match op.toNat with | 0 => 18 | 1 => 24 | 2 => 28 | 3 => 31 | 4 => 32 | 5 => 33 | 6 => 34 | _ => 35

/-- The length of a cycle at a Banister level, in eighths of a period. -/
def levelLen (l : Nat) : Nat := match l with | 0 => 8 | 1 => 9 | 2 => 10 | _ => 12

/-- What a cycle at a level costs, in eighths of a mark-time cycle (R320). -/
def levelCost (l : Nat) : Nat := match l with | 0 => 0 | 1 => 1 | 2 => 2 | _ => 4

/-- `n` mark-time cycles pass: step, power interval, watchdog, recalibration periods, the input sampling of R314. -/
def passMark (n : Nat) (s : State) : State :=
  { s with
    step := { s.step with
      mtime := if s.stepOpen then s.step.mtime + BitVec.ofNat 32 n else s.step.mtime,
      freeMt := if s.started && !s.step.enable then s.step.freeMt + n else s.step.freeMt },
    pwr := { s.pwr with iMt := if s.started then s.pwr.iMt + n else s.pwr.iMt },
    clu := { s.clu with wdogLeft := if s.clu.wdogEn then s.clu.wdogLeft - n else s.clu.wdogLeft },
    gal := s.gal.map fun x => { x with recalAt := x.recalAt - n, periodUsed := x.periodUsed && n == 0 } }

/-- The mark time of one cluster cycle, with what is left over. -/
def clockMark (s : State) : State :=
  let unit := 8 * pointFreq s.pwr.op
  let x := s.step.mtFrac + 28 * levelLen s.level
  passMark (x / unit) { s with step := { s.step with mtFrac := x % unit } }

/-! ## Counts of the cycle that ends -/

/-- STEP_CYCLE, the free-running counts and the counts of cycles that are no bubbles (R53, R318). With no step open STEP_CYCLE
and STEP_MTIME stand (DESIGN CHOICE, assumption 44). -/
def countCycle (s : State) : State :=
  let b := b2n (!s.isBubble)
  if !s.started then s
  else ({ s with
    step := { s.step with
      cycle := if s.stepOpen then s.step.cycle + 1 else s.step.cycle,
      nonBubble := if s.stepOpen then s.step.nonBubble + b else s.step.nonBubble,
      freeCycles := s.step.freeCycles + 1, freeNonBubble := s.step.freeNonBubble + b },
    pwr := { s.pwr with iCyc := s.pwr.iCyc + 1, iNonBubble := s.pwr.iNonBubble + b } } : State).spend .clock none 1

/-- PWR_BUBBLES, PWR_STRETCH, the step's own counts of both, and the held level's cycles (R318 to R320, R336). -/
def countPower (s : State) : State :=
  let p := s.pwr
  let bub := if s.isBubble then 1 else 0
  let lv (k : Nat) : BitVec 21 := if s.level = k then 1 else 0
  { s with pwr := { p with
      bubbles := p.bubbles + bub, lvl1 := p.lvl1 + lv 1, lvl2 := p.lvl2 + lv 2, lvl3 := p.lvl3 + lv 3,
      sBubbles := p.sBubbles + (if s.stepOpen then bub else 0),
      sStretch := p.sStretch + (if s.stepOpen then levelCost s.level else 0),
      holdLeft := if p.reqLevel < p.heldLevel then p.holdLeft - 1 else p.holdLeft } }

/-- The lookahead holds the next tile of a context (R234). -/
def State.aheadHolds (s : State) (n c : Fin 4) : Bool :=
  let x := s.ctx n c
  x.st == .active && match x.nextDesc? with
    | some (_, d) => dTile d && !s.lookaheadLets x
    | none => false

/-- The next tile of a context waits on a slot tag. -/
def State.tagHolds (s : State) (n c : Fin 4) : Bool :=
  let x := s.ctx n c
  x.st == .active && !s.aheadHolds n c && match x.nextDesc? with
    | some (_, d) => dTile d && !descBad s x d && !((gatedOf s (dRanges d)).all fun g => tagPermits s g.1 g.2.1 g.2.2)
    | none => false

/-- A context that has started a descriptor in this cycle waits for nothing in it. -/
def State.justStarted (s : State) (n c : Fin 4) : Bool := s.strm[n].descAt == s.now + 1 && s.strm[n].descCtx == c

def countStrm (n : Fin 4) (s : State) : State :=
  let cs := (List.finRange 4).filter fun c => !s.justStarted n c
  let a := cs.any (s.aheadHolds n)
  let t := cs.any (s.tagHolds n)
  modStrm n (fun x => { x with waitAhead := upIf a x.waitAhead, waitTag := upIf t x.waitTag }) s

def countOpa (a : Fin 2) (s : State) : State :=
  let st := s.opaState a
  modOpa a (fun x => { x with waitTile := upIf (st == 2) x.waitTile, waitBank := upIf (st == 3) x.waitBank }) s

/-- Threads in WAIT_RANGE, and threads in a release fence. -/
def State.rangeWaits (s : State) : Bool :=
  allThreads.any fun t => match (s.thread t).st with | .waitRange _ => true | _ => false
def State.fences (s : State) : Nat :=
  (allThreads.filter fun t => match (s.thread t).st with | .waitSync (.fence _ _ _ _) => true | _ => false).length

/-- The wait counters of the units. -/
def countWaits (s : State) : State :=
  let ts := s.tileState
  let vs := s.vecState
  let lw := !s.tagWaits.isEmpty
  let s := (List.finRange 4).foldl (fun s n => countStrm n s) (countOpa 1 (countOpa 0 s))
  { s with
    tile := { s.tile with waitUse := upIf (ts == 2) s.tile.waitUse },
    vec := { s.vec with waitReg := upIf (vs == 2) s.vec.waitReg, waitBank := upIf (vs == 4) s.vec.waitBank },
    land := { s.land with waitCycles := upIf lw s.land.waitCycles },
    ush := { s.ush with pushWaits := upIf s.rangeWaits s.ush.pushWaits },
    sync := { s.sync with relWait := s.sync.relWait + BitVec.ofNat 32 s.fences } }

/-! ## Galleries and the limiters (R246, R271) -/

/-- The token bucket gains RATE / 64 tokens, up to BURST, of which 0 counts as 1. -/
def refill (rate burst : BitVec 8) (tokens : Nat) : Nat := min (64 * max 1 burst.toNat) (tokens + rate.toNat)

/-- GALx_RXCR: one credit of each virtual channel goes back in a cycle (R354). -/
def Gal.returnCredits (x : Gal) : Gal :=
  { x with
    rxcr := BitVec.ofNat 3 (b2n (x.owed[0] > 0) + 2 * b2n (x.owed[1] > 0) + 4 * b2n (x.owed[2] > 0)),
    owed := x.owed.map (· - 1) }

/-- The end of the cycle at Gallery `g`: the head of its buffer, its turn to send, its credits, its bucket. -/
def galCycle (g : Fin 4) (s : State) : State :=
  let held := s.galLimited g
  let s := if held then modGal g (fun x => Gal.payAhead { x with limited := x.limited + 1 }) s else s
  let s := galSend g (galDrain g s)
  modGal g (fun x => Gal.returnCredits { x with
    pins := if x.busy then x.pins else [], busy := false, tokens := refill x.rate x.burst x.tokens }) s

/-- FAB_RXCR: with 64 inbound requests held the port withholds the credits for requests and writes (R262). -/
def State.fabRxcr (s : State) : BitVec 3 := if s.fabRxCredit then 7 else 4

def fabCycle (s : State) : State :=
  let lim := s.fabLimited && !s.fab.slotUsed
  let cr := s.fabRxcr
  modFab (fun x => { x with
    limited := if lim then x.limited + 1 else x.limited, tokens := refill x.rate x.burst x.tokens,
    slotUsed := false, tx := [], rxcr := cr }) s

/-! ## The end of a cycle -/

/-- A context whose lookahead holds now may start SYNC.LOCAL cycles after the advance that frees it (R234). -/
def noteLookahead (n c : Fin 4) (s : State) : State :=
  let x := s.ctx n c
  if x.link && !x.lookaheadOk (syncGet s x.free.toNat) then
    modCtx n c (fun x => { x with freeAt := s.now + 1 + Config.syncLocal }) s
  else s

/-- Threads that wait for a range entry of their own try again once one is free (R63). -/
def wakeRange (s : State) : State :=
  if s.rangeFull then s
  else { s with ush := { s.ush with threads := s.ush.threads.map fun th =>
    match th.st with | .waitRange none => { th with st := .ready } | _ => th } }

/-- HIGH of USH_RANGE, FAB_OUT and STRMn_OUT follow the occupancy of every cycle, also after a read cleared them. -/
def noteHighs (s : State) : State :=
  let s := modFab (fun x => { x with outHigh := BitVec.ofNat 10 (max x.outHigh.toNat s.fabOut) }) s
  let s := (List.finRange 4).foldl (fun s n =>
    modStrm n (fun x => { x with outHigh := BitVec.ofNat 8 (max x.outHigh.toNat (s.strmOut n)) }) s) s
  { s with ush := { s.ush with rangeHigh := BitVec.ofNat 7 (max s.ush.rangeHigh.toNat s.inUse) } }

/-- What lasts one cycle ends: issue slots, grants, landed lines, flags set, signals (R9, R53, R64, R278). -/
def endCycle (s : State) : State :=
  { s with
    now := s.now + 1,
    range := s.range.filter (·.live),
    granted := [], setNow := [], paged := [], therm := { s.therm with oldLim := none }, win := { s.win with closing := [] },
    tile := { s.tile with landed := [], read := [] },
    sync := { s.sync with adds := [], taken := [] },
    ush := { s.ush with slot0 := none, slotsUsed := 0, pushed := [], stopped := [] } }

/-- What the vector engine does as a cycle begins: results reach the registers, commands end, Flights take their turn, loads and
stores issue passes (R60, R152, R174). -/
def vecBegin (s : State) : State := memPasses (flightTurns (endRuns (applyWrites s)))

/-- What the read-to-clear counters hold as a cycle begins (R371). -/
def noteCounters (s : State) : State := { s with rcOld := rcCounters.map fun r => r.get s }

/-- One cycle of the cluster clock. -/
def clockCycle (s : State) : State :=
  let s := allThreads.foldl (fun s t => noteOwed t s) s
  let s := lanePasses (arrayCycles (countWaits s))
  let s := (List.finRange 4).foldl (fun s g => galCycle g s) s
  let s := fabCycle s
  let s := allCtx.foldl (fun s nc => noteLookahead nc.1 nc.2 (requestBlock nc.1 nc.2 s)) s
  let s := if s.stepClosed then applyShadow (fun _ => true) (s.now + 1) s else s
  let s := clockMark (countCycle (countPower s))
  let s := (List.finRange 64).foldl (fun s l => noteMoves l s) s
  let s := wakeRange (powerIdle (endCycle (noteHighs (pauseTile s))))
  performDue (commitBeats 1 (commitBeats 0 (vecBegin (noteCounters s))))

/-- A mark-time cycle while the clock stands for a change of the point (R314). -/
def switchCycle (s : State) : State :=
  if s.pwr.switchLeft = 0 then s
  else
    let s := passMark 1 { s with pwr := { s.pwr with switchLeft := s.pwr.switchLeft - 1 }, setNow := [], paged := [], therm := { s.therm with oldLim := none } }
    noteCounters s

/-- Time passes with every clock of the cluster stopped (R324). -/
def stoppedCycle (s : State) : State := noteCounters { s with now := s.now + 1, setNow := [], paged := [], therm := { s.therm with oldLim := none } }

/-- What a step does when no command waits. -/
def tick (s : State) : State :=
  if s.pwr.coolStopped then stoppedCycle s
  else if s.pwr.switching then switchCycle s
  else clockCycle s

end Sys2Proof.Machine
end

