-- ==== Sys2Proof/Certificates/Slice0/Obligations.lean ====
section
/-! DEFINITION. The statements for the provers. `Claims` holds the conditions and results that several of them share. -/

namespace Sys2Proof

open Sys2Proof.Machine

/-! ## Conditions and results of Usher's rows -/

/-- Thread `t` has an issue slot of this cycle, and the word it fetches is `w`, the instruction `o`, with no register of
it waiting for a load (R50, R53, R54, R66, R400). -/
def Claims.issues (s : State) (t : Fin 16) (o : UOp) (w : BitVec 32) : Bool :=
  (match s.turn t with | .first _ => true | .second => true | .pair u => pairOk u o w | _ => false) &&
    !fetchPriv s t && fetchWord s (s.thread t).pc == w && decodeUsher w == some o &&
    (o != .fwRet || t == fwThread) && pendingReg (s.thread t) o w == none

/-- The energy counts once thread `t` has issued an instruction (R311, R317). -/
def Claims.issueSpent (s : State) (t : Fin 16) : Vector Nat 85 := (s.spend .issue (some t) 1).energy

/-- Of all the state only thread `t`, now `th`, the slots of the cycle and the energy of an issue differ from `s`. -/
def Claims.OnlyThread (s s' : State) (t : Fin 16) (th : Thread) : Prop :=
  s' = { s with
    energy := Claims.issueSpent s t,
    ush := { s.ush with
      threads := s.ush.threads.set t th, slot0 := s'.ush.slot0, slotsUsed := s'.ush.slotsUsed } }

/-- Of all the state only thread `t`, now `th`, and the slots of the cycle differ from `s`: its instruction waits and has not
issued. -/
def Claims.Waits (s s' : State) (t : Fin 16) (th : Thread) : Prop :=
  s' = { s with ush := { s.ush with
    threads := s.ush.threads.set t th, slot0 := s'.ush.slot0, slotsUsed := s'.ush.slotsUsed } }

/-- Thread `th` after an instruction that ends: it goes on at `pc`, one more instruction issued, unless a stop was asked for
(R78); a thread that its own instruction stopped stays so. -/
def Claims.goesOn (th : Thread) (pc : BitVec 18) : Thread :=
  let x := { th with pc := pc, issued := th.issued + 1 }
  if th.st = .ready then { x with st := if th.stop then .halted else .ready, stop := false } else x

/-- Thread `t` goes on at `pc`, and everything else but the slots of the cycle and the energy is as in `s`. -/
def Claims.Went (s s' : State) (t : Fin 16) (pc : BitVec 18) : Prop :=
  Claims.OnlyThread s s' t (Claims.goesOn (s.thread t) pc)

/-- Thread `t` goes on at `pc` with register `r` holding `v` (a write of S0 is ignored), every other register as before,
and everything else but the slots of the cycle and the energy as in `s`. -/
def Claims.Result (s s' : State) (t : Fin 16) (r : Fin 32) (v : BitVec 64) (pc : BitVec 18) : Prop :=
  (∀ q, (s'.thread t).reg q = if q = 0 then 0 else if q = r then v else (s.thread t).reg q) ∧
    Claims.OnlyThread s s' t { Claims.goesOn (s.thread t) pc with regs := (s'.thread t).regs }

/-- The row `i` of the instruction `o` completes and writes `f` of its thread's registers and word to rd. -/
def Claims.Computes (o : UOp) (i : Fin 16 → Instr) (f : Thread → BitVec 32 → BitVec 64) : Prop :=
  ∀ (t : Fin 16) (s : State) (w : BitVec 32), Claims.issues s t o w = true →
    ∃ s', exec (i t) s = .next s' ∧ Claims.Result s s' t (wRd w) (f (s.thread t) w) ((s.thread t).pc + 4)

/-- `Claims.Computes` of a function of Sa and Sb. -/
def Claims.ComputesReg (o : UOp) (i : Fin 16 → Instr) (f : BitVec 64 → BitVec 64 → BitVec 64) : Prop :=
  Claims.Computes o i fun th w => f (th.reg (wRa w)) (th.reg (wRb w))

/-- The imm16 of a word as bits 15 to 0 of a 64-bit number. -/
def Claims.imm (w : BitVec 32) : BitVec 64 := BitVec.ofNat 64 (w.toNat % 65536)

/-- The imm16 of a word, sign-extended. -/
def Claims.simm (w : BitVec 32) : BitVec 64 := BitVec.ofInt 64 (BitVec.ofNat 16 w.toNat).toInt

/-- The load of `n` bytes at `a` that thread `t` issued at `pc` for register `r`, with number `id` and the range entry
`e`, and the line request `q` for it. -/
def Claims.loadJob (t : Fin 16) (r : Fin 32) (a n : Nat) (sg : Bool) (pc : BitVec 18) (id e seq : Nat) : Job :=
  ⟨id, .load t r a n sg pc, [], 1, 0, 0, none, [e], seq, some t, none, false, 0, 0⟩

/-- The row `i` of the load `o` of `n` bytes completes for an aligned address of Hall or Lower Hall while a range entry is
free: it takes an entry for its bytes, requests them, and leaves rd pending (S0 never); every other register, and all of
memory, is as before. -/
def Claims.LoadIssues (o : UOp) (i : Fin 16 → Instr) (n : Nat) (sg : Bool) : Prop :=
  ∀ (t : Fin 16) (s : State) (w : BitVec 32), Claims.issues s t o w = true →
    let th := s.thread t
    let a := (th.reg (wRa w) + Claims.simm w).toNat
    inSram s.build a n = true → a % n = 0 → s.range.length < 64 →
    ∃ s', exec (i t) s = .next s' ∧
      s'.range = s.range ++ [⟨s.nextId, a, a + n - 1, false, .usher, none, true⟩] ∧
      s'.jobs = s.jobs.map (fun j => if j.id = s.nextId + 1 then { j with left := j.left + 1 } else j) ++
        [Claims.loadJob t (wRd w) a n sg th.pc (s.nextId + 1) s.nextId s.ush.pushSeq.toNat] ∧
      s'.reqs = s.reqs ++ [⟨s.nextId + 2, s.nextId + 1, 0, 80, .usher, some s.nextId, a, n, none⟩] ∧
      s' = { s with
        range := s'.range, jobs := s'.jobs, reqs := s'.reqs, nextId := s.nextId + 3, energy := Claims.issueSpent s t,
        ush := { s.ush with
          rangeHigh := s'.ush.rangeHigh, slot0 := s'.ush.slot0, slotsUsed := s'.ush.slotsUsed,
          threads := s.ush.threads.set t { Claims.goesOn th (th.pc + 4) with
            pend := th.pend ++ (if wRd w = 0 then [] else [(s.nextId + 1, wRd w)]) } } }

/-- The row `i` of the store `o` of `n` bytes completes for an aligned address of Hall or Lower Hall while a range entry
is free: it takes an entry and requests the write of rd's low `n` bytes, lowest first. Memory changes only when the bank
grants the request. -/
def Claims.StoreIssues (o : UOp) (i : Fin 16 → Instr) (n : Nat) : Prop :=
  ∀ (t : Fin 16) (s : State) (w : BitVec 32), Claims.issues s t o w = true →
    let th := s.thread t
    let a := (th.reg (wRa w) + Claims.simm w).toNat
    inSram s.build a n = true → a % n = 0 → s.range.length < 64 →
    ∃ s', exec (i t) s = .next s' ∧
      s'.range = s.range ++ [⟨s.nextId, a, a + n - 1, true, .usher, none, true⟩] ∧
      (∃ r, s'.reqs = s.reqs ++ [r] ∧ r.addr = a ∧ r.len = n ∧ r.unit = .usher ∧ r.entry = some s.nextId ∧
        ∃ cs, r.wr = some cs ∧ cs.length = n ∧
          ∀ k < n, cs[k]? = some (a + k, (th.reg (wRd w)).extractLsb' (8 * k) 8)) ∧
      s' = { s with
        range := s'.range, jobs := s'.jobs, reqs := s'.reqs, nextId := s'.nextId, energy := Claims.issueSpent s t,
        ush := { s.ush with
          rangeHigh := s'.ush.rangeHigh, slot0 := s'.ush.slot0, slotsUsed := s'.ush.slotsUsed,
          threads := s.ush.threads.set t (Claims.goesOn th (th.pc + 4)) } }

/-- Code of the precise fault that an access of `n` bytes at `a` raises, none where it is carried out (R6, R49, R50): a
page takes only aligned accesses of 8 bytes. -/
def Claims.accessFault (b : Build) (a n : Nat) : Option Nat :=
  if inSram b a 1 then (if a % n = 0 then none else some 0x02)
  else if 0x30000000 ≤ a ∧ a < 0x30040000 then (if n = 8 ∧ a % 8 = 0 then none else some 0x05)
  else some 0x01

/-- The thread after R69 step 2: it stops, a FREE one too; a FAULTED one keeps its state. -/
def Claims.stopped (st : TState) : TState := match st with | .faulted => .faulted | _ => .halted

/-- What a precise fault of the instruction at thread `t`'s pc leaves. The instruction has changed nothing, and memory
holds what it held. A task thread stands FAULTED at it, and unless the live mode holds, the task is aborted: every other
task thread is HALTED. Thread 15 goes to its vector with the code in S31 and the address in S30; in
its handler it stands FAULTED. -/
def Claims.Faults (s s' : State) (t : Fin 16) (code : Nat) : Prop :=
  let th := s.thread t
  let th' := s'.thread t
  s'.mem = s.mem ∧ th'.issued = th.issued ∧ th'.pend = th.pend ∧ th'.fault = BitVec.ofNat 8 code ∧
  (t ≠ 15 → th'.pc = th.pc ∧ th'.st = .faulted ∧ (∀ r, th'.reg r = th.reg r) ∧
    (s.clu.live = false → s'.ush.task = .aborted ∧ (s.ush.task ≠ .aborted → ∀ u, u ≠ t → u ≠ 15 →
      (s'.thread u).st = Claims.stopped (s.thread u).st)) ∧
    (s.clu.live = true → s'.ush.task = s.ush.task ∧ ∀ u, u ≠ t → s'.thread u = s.thread u)) ∧
  (t = 15 → s'.ush.task = s.ush.task ∧ (∀ u, u ≠ t → s'.thread u = s.thread u) ∧
    (s.ush.inHandler = true → th'.pc = th.pc ∧ th'.st = .faulted ∧ ∀ r, th'.reg r = th.reg r) ∧
    (s.ush.inHandler = false → th'.pc.toNat = (s.ush.fwTop.toNat * 4096 + 0x40000 - 256) % 0x40000 ∧ th'.st = .ready ∧
      s'.ush.inHandler = true ∧
      ∀ r, th'.reg r = if r = 31 then BitVec.ofNat 64 code
        else if r = 30 then BitVec.ofNat 64 (0x20000000 + th.pc.toNat) else th.reg r))

/-- The branch `o` goes on at its target, counted in words from the branch, when `c` holds of its registers, and at the
next instruction otherwise; nothing else changes. A target outside instruction memory raises ADDR_BAD, taken or not (R71). -/
def Claims.Branches (o : UOp) (i : Fin 16 → Instr) (c : BitVec 64 → BitVec 64 → Prop) : Prop :=
  ∀ (t : Fin 16) (s : State) (w : BitVec 32), Claims.issues s t o w = true →
    let th := s.thread t
    let a := th.reg (wRd w)
    let b := th.reg (wRa w)
    let target : Int := th.pc.toNat + 4 * (BitVec.ofNat 16 w.toNat).toInt
    (0 ≤ target → target < 0x40000 →
      (c a b → ∃ s', exec (i t) s = .next s' ∧ Claims.Went s s' t (BitVec.ofInt 18 target)) ∧
      (¬ c a b → ∃ s', exec (i t) s = .next s' ∧ Claims.Went s s' t (th.pc + 4))) ∧
    ((target < 0 ∨ 0x40000 ≤ target) → ∃ s', exec (i t) s = .next s' ∧ Claims.Faults s s' t 0x01)

/-- The row `i` of the load or store `o` of `n` bytes raises the fault that its address asks for. -/
def Claims.AccessFaults (o : UOp) (i : Fin 16 → Instr) (n : Nat) : Prop :=
  ∀ (t : Fin 16) (s : State) (w : BitVec 32) (code : Nat), Claims.issues s t o w = true →
    Claims.accessFault s.build ((s.thread t).reg (wRa w) + Claims.simm w).toNat n = some code →
    ∃ s', exec (i t) s = .next s' ∧ Claims.Faults s s' t code

/-- The entry that operand `o` of a command of queue `q` takes under number `id`. -/
def Claims.pushEntry (q : Fin 8) (o : Nat × Nat × Bool) (id : Nat) : RangeEntry :=
  ⟨id, o.1, o.1 + o.2.1 - 1, o.2.2, if q = 3 then .vec else .tile, none, true⟩

/-- The Hall and Lower Hall operands of command `c` that no slot tag gates: base, bytes, and whether it writes them. -/
def Claims.ungated (s : State) (c : Cmd) : List (Nat × Nat × Bool) :=
  (cmdOperands c (pushVl s) (if cOpc c = 0x1E then pushView s (goDef c) else [])).filter fun o =>
    gateOf s o.1 o.2.1 == .plain

/-- Queue `q` takes a command `c` from a thread: a version is selected, `c` passes the checks of a push, its operands lie
in single slots, the queue has room, and the range table leaves 16 entries beside those that `c` takes. -/
def Claims.pushes (s : State) (q : Fin 8) (c : Cmd) : Bool :=
  let ops := Claims.ungated s c
  s.lat.version != 0 && !pushBad s q c &&
    !slotRange s (cmdOperands c (pushVl s) (if cOpc c = 0x1E then pushView s (goDef c) else [])) &&
    (s.queue q).count + 1 ≤ 16 && (ops.isEmpty || s.range.length + ops.length + 16 ≤ 64)

/-- Thread `t`, now `th`, has put command `c` with extension `ext` at the end of queue `q`: it takes its push sequence and
one range entry for each ungated operand, in their order. All else but the slots of the cycle and the energy, now `en`, is as in `s`. -/
def Claims.Pushed (s s' : State) (t : Fin 16) (q : Fin 8) (c : Cmd) (ext : BitVec 64) (th : Thread) (en : Vector Nat 85) :
    Prop :=
  let ops := Claims.ungated s c
  let ids := (List.range ops.length).map (s.nextId + ·)
  let x := s.queue q
  s' = { s with
    range := s.range ++ List.zipWith (Claims.pushEntry q) ops ids,
    nextId := s.nextId + ops.length, energy := en,
    ush := { s.ush with
      pushSeq := s.ush.pushSeq + 1,
      queues := s.ush.queues.set q { hold := none, cmds := x.cmds ++
        [⟨c, ext, (s.ush.pushSeq + 1).toNat, t, s.now, ids, if cOpc c = 0x1E then pushView s (goDef c) else [], pushVl s⟩] },
      threads := s.ush.threads.set t th,
      rangeHigh := s'.ush.rangeHigh, slot0 := s'.ush.slot0, slotsUsed := s'.ush.slotsUsed, pushed := s'.ush.pushed } }

/-- The command that an ENQ.I or ENQ.R of thread `t` pushes: the four words after it, lowest first, or Sa below Sb. -/
def Claims.inline (s : State) (t : Fin 16) : Cmd :=
  let word (i : Nat) : Nat := (fetchWord s ((s.thread t).pc + BitVec.ofNat 18 (4 + 4 * i))).toNat
  BitVec.ofNat 128 (word 0 + 2 ^ 32 * word 1 + 2 ^ 64 * word 2 + 2 ^ 96 * word 3)
def Claims.pair (s : State) (t : Fin 16) (w : BitVec 32) : Cmd := (s.thread t).reg (wRb w) ++ (s.thread t).reg (wRa w)

/-- A command of one entry that is no extension. -/
def Claims.narrow (c : Cmd) : Prop := cOpc c ≠ 0 ∧ cOpc c ≠ 0x17 ∧ cOpc c ≠ 0x19

/-- Originator `o` writes the register at `off` of page `p` now: the management port reaches it, or a thread that may write
every bit of it performs the store to a page that has performed no access in this cycle (R369). -/
def Claims.writes (o : Originator) (p : Page) (off : Nat) (s : State) : Prop :=
  match o with
  | .mgmt => s.reaches p off = true ∧ mgmtMay p off = BitVec.allOnes 64
  | .thread t => s.usherActs = true ∧ mayWrite s (.thread t) p off = BitVec.allOnes 64 ∧ p ∉ s.paged

/-- `s` once page `p` has performed a write and its originator has the answer: the management port reads OK. -/
def Claims.answered (o : Originator) (p : Page) (s : State) : State :=
  match o with
  | .mgmt => { s with paged := p :: s.paged, mgmt := { s.mgmt with rstat := .ok } }
  | .thread _ => { s with paged := p :: s.paged }

/-- The sync object an instruction names: the immediate's, or the one a register holds. -/
def Claims.object (imm : Bool) (w : BitVec 32) (r : BitVec 64) (n : Nat) : Prop :=
  if imm then n = w.toNat % 8192 else r.toNat = n ∧ n < 8192

/-- The row `i` of the sync operation `o` completes. While the named object has taken no operation in this cycle, its count,
before the advances of this cycle, goes to rd where the row writes it, and the count becomes `f` of it and of Sa's low word,
with those advances added; the threads that wait for the object see the new value. Where it has taken one, the operation is
kept for the next cycle, and rd is pending meanwhile (R278). -/
def Claims.SyncOp (o : UOp) (i : Fin 16 → Instr) (wr : Bool) (f : BitVec 32 → BitVec 32 → BitVec 32) : Prop :=
  ∀ (t : Fin 16) (s : State) (w : BitVec 32) (n : Nat), Claims.issues s t o w = true →
    let th := s.thread t
    let k := BitVec.ofNat 32 (th.reg (wRa w)).toNat
    let old := syncBase s n
    let v := f old k + syncAdded s n
    let kept : Machine.SyncOp := if wr then .add t (wRd w) k else .set k
    Claims.object (bitAt w 13) w (th.reg (Fin.ofNat 32 (w.toNat % 32))) n →
    (n ∉ s.sync.taken → ∃ s', exec (i t) s = .next s' ∧
      (∀ r, (s'.thread t).reg r = if wr ∧ r = wRd w ∧ r ≠ 0 then BitVec.ofNat 64 old.toNat else th.reg r) ∧
      (∀ u, u ≠ t → s'.thread u = Thread.noteSync s.now n v (s.thread u)) ∧
      s' = { s with
        energy := Claims.issueSpent s t,
        sync := { s.sync with counts := s.sync.counts.set n v, taken := n :: s.sync.taken },
        ush := { s.ush with
          slot0 := s'.ush.slot0, slotsUsed := s'.ush.slotsUsed,
          threads := (s.ush.threads.map (Thread.noteSync s.now n v)).set t
            { Claims.goesOn th (th.pc + 4) with regs := (s'.thread t).regs } } }) ∧
    (n ∈ s.sync.taken → ∃ s', exec (i t) s = .next s' ∧
      s' = { s with
        energy := Claims.issueSpent s t, nextId := s.nextId + 1,
        jobs := s.jobs.map (fun j => if j.id = s.nextId then { j with due := s.now + 1 } else j) ++
          [⟨s.nextId, .syncOp n kept, [], 0, 0, 0, none, [], 0, none, none, false, 0, s.now + 1⟩],
        ush := { s.ush with
          slot0 := s'.ush.slot0, slotsUsed := s'.ush.slotsUsed,
          threads := s.ush.threads.set t { Claims.goesOn th (th.pc + 4) with
            pend := th.pend ++ (if wr ∧ wRd w ≠ 0 then [(s.nextId, wRd w)] else []) } } })

/-- What an atomic instruction asks for; a home atomic has the scope of the fabric. -/
def Claims.atom (s : State) (t : Fin 16) (w : BitVec 32) (op : AtomOp) (home : Bool) : AtomReq :=
  let th := s.thread t
  ⟨s.nextId, wRd w, th.reg (wRa w), op, th.reg (wRb w), th.reg (wRc w),
    if home then .fb else scopeOf (w.toNat / 2 % 4), home⟩

/-- Thread `th` once its atomic is under way with number `id`: a posted one ends at once, any other waits (R285). -/
def Claims.afterAtom (th : Thread) (a : AtomReq) (id : Nat) : Thread :=
  if a.rd = 0 ∧ a.home = false then Claims.goesOn th (th.pc + 4)
  else { th with st := .waitData (.atom id), issued := th.issued + 1 }

/-- The job of a local atomic. -/
def Claims.atomJob (s : State) (t : Fin 16) (a : AtomReq) (id left due : Nat) (es : List Nat) : Job :=
  ⟨id, .atomMem t a (s.thread t).pc, [], left, 0, 0, none, es, s.ush.pushSeq.toNat, some t, none, false, 0, due⟩

/-- The write entries in use, and the older atomics, that a release fence of `a` waits for (R284). -/
def Claims.olderWrites (s : State) : List Nat := (s.range.filter fun e => e.wr && e.live).map (·.id)

/-- The row `i` of the atomic `o` completes when no fence holds it: scope CL, or no older write and no earlier atomic of
its scope open. On a word of this cluster it takes a write entry and requests the word; on a sync object or queue context
of this cluster it is due in the next cycle; to another cluster it goes out through the fabric port. -/
def Claims.AtomSent (o : UOp) (i : Fin 16 → Instr) (op : AtomOp) (home : Bool) : Prop :=
  ∀ (t : Fin 16) (s : State) (w : BitVec 32), Claims.issues s t o w = true →
    let th := s.thread t
    let a := Claims.atom s t w op home
    (a.scope ≠ .cl → Claims.olderWrites s = [] ∧ s.openAtoms a.scope = []) →
    (∀ x, a.isOwn s = true → a.target? s = some (.word x) → s.range.length < 64 →
      ∃ s', exec (i t) s = .next s' ∧
        s' = { s with
          range := s.range ++ [⟨s.nextId + 1, x, x + 7, true, .usher, none, true⟩],
          jobs := s.jobs.map (fun j => if j.id = s.nextId + 2 then { j with left := j.left + 1 } else j) ++
            [Claims.atomJob s t a (s.nextId + 2) 1 0 [s.nextId + 1]],
          reqs := s.reqs ++ [⟨s.nextId + 3, s.nextId + 2, 0, 80, .usher, some (s.nextId + 1), x, 8, none⟩],
          nextId := s.nextId + 4, energy := Claims.issueSpent s t,
          ush := { s.ush with
            rangeHigh := s'.ush.rangeHigh, slot0 := s'.ush.slot0, slotsUsed := s'.ush.slotsUsed,
            threads := s.ush.threads.set t (Claims.afterAtom th a (s.nextId + 2)) } }) ∧
    (∀ g, a.isOwn s = true → a.target? s = some g → (∀ x, g ≠ .word x) →
      ∃ s', exec (i t) s = .next s' ∧
        s' = { s with
          jobs := s.jobs.map (fun j => if j.id = s.nextId + 1 then { j with due := s.now + 1 } else j) ++
            [Claims.atomJob s t a (s.nextId + 1) 0 (s.now + 1) []],
          nextId := s.nextId + 2, energy := Claims.issueSpent s t,
          ush := { s.ush with
            slot0 := s'.ush.slot0, slotsUsed := s'.ush.slotsUsed,
            threads := s.ush.threads.set t (Claims.afterAtom th a (s.nextId + 1)) } }) ∧
    (a.isOwn s = false → s.remoteAtoms < 16 →
      ∃ s', exec (i t) s = .next s' ∧
        s' = { s with
          fab := { s.fab with xfers := s.fab.xfers ++
            [⟨.usher t (s.nextId + 1) a.rd (a.rd = 0 ∧ home = false), .atom a, a.addr, 0, 0, none, 0, s.now, false⟩] },
          nextId := s.nextId + 2, energy := Claims.issueSpent s t,
          ush := { s.ush with
            slot0 := s'.ush.slot0, slotsUsed := s'.ush.slotsUsed,
            threads := s.ush.threads.set t (Claims.afterAtom th a (s.nextId + 1)) } })

/-- The atomic `o` of a wider scope waits in its release fence while an older write or an earlier atomic of its scope is
open. One on a word of this cluster takes its entry at issue, before the fence. -/
def Claims.AtomFenced (o : UOp) (i : Fin 16 → Instr) (op : AtomOp) (home : Bool) : Prop :=
  ∀ (t : Fin 16) (s : State) (w : BitVec 32), Claims.issues s t o w = true →
    let th := s.thread t
    let a := Claims.atom s t w op home
    let older := Claims.olderWrites s
    a.scope ≠ .cl → ¬ (older = [] ∧ s.openAtoms a.scope = []) →
    (∀ x, a.isOwn s = true → a.target? s = some (.word x) → s.range.length < 64 →
      ∃ s', exec (i t) s = .next s' ∧
        s' = { s with
          range := s.range ++ [⟨s.nextId + 1, x, x + 7, true, .usher, none, true⟩], nextId := s.nextId + 2,
          energy := Claims.issueSpent s t,
          ush := { s.ush with
            rangeHigh := s'.ush.rangeHigh, slot0 := s'.ush.slot0, slotsUsed := s'.ush.slotsUsed,
            threads := s.ush.threads.set t { th with
              st := .waitSync (.fence a (some (s.nextId + 1)) older (s.openAtoms a.scope)), issued := th.issued + 1 } } }) ∧
    ((a.isOwn s = true → ∃ g, a.target? s = some g ∧ ∀ x, g ≠ .word x) →
      ∃ s', exec (i t) s = .next s' ∧ Claims.OnlyThread { s with nextId := s.nextId + 1 } s' t
        { th with st := .waitSync (.fence a none older (s.openAtoms a.scope)), issued := th.issued + 1 })

/-- The word that an atomic leaves where it found `old` (R283). -/
def Claims.atomValue (op : AtomOp) (old b c : BitVec 64) : BitVec 64 :=
  match op with
  | .add => BitVec.ofNat 64 (old.toNat + b.toNat)
  | .max => if old.toNat ≤ b.toNat then b else old
  | .min => if b.toNat ≤ old.toNat then b else old
  | .and => old &&& b
  | .or => old ||| b
  | .swap => b
  | .cas => if old = b then c else old
  | .qput => old

/-! ## Conditions and results of the vector engine's rows -/

/-- Lane `n` is one that pass `p` of the command `e` covers (R150). -/
def Claims.inPass (b : Build) (e : QEntry) (p n : Nat) : Bool := p * b.vlen ≤ n && n < (p + 1) * b.vlen && n < e.vl

/-- What the results `cells` of command `e` do when they reach the registers, of whatever state `u` then is: a lane of `vd`
that `cover` names takes `f` of its number and of what it held, if it is active or the command writes every lane (`all`); in
inspection mode MZ zeroes an inactive one; every other lane, and every mask bit, keeps its value. -/
def Claims.LaneCells (s : State) (e : QEntry) (all : Bool) (cover : Nat → Bool) (cells : List VCell)
    (f : Nat → BitVec 32 → BitVec 32) : Prop :=
  ∀ u : State, (putCells cells u).vec.k = u.vec.k ∧ ∀ r < 32, ∀ n < 65536,
    (putCells cells u).lane r n = if r = cVd e.raw ∧ cover n = true then
        (if all ∨ s.active e.raw n = true then f n (u.lane r n)
        else if s.clu.live ∧ bitAt e.raw 22 then 0 else u.lane r n)
      else u.lane r n

/-- What the results `cells` of pass `p` of the mask command `e` do: bit n of Kd takes `f n`; a write of K0 is ignored. -/
def Claims.MaskCells (s : State) (e : QEntry) (p : Nat) (cells : List VCell) (f : State → Nat → Bool) : Prop :=
  ∀ u : State, (putCells cells u).vec.v = u.vec.v ∧ ∀ k < 8, ∀ n < 65536,
    (putCells cells u).mask k n = if k ≠ 0 ∧ k = e.raw.toNat / 2 ^ 23 % 8 ∧ Claims.inPass s.build e p n = true then f u n
      else u.mask k n

/-- The command `e`, of opcode `opc` and function `fn`, is at the head of queue 3, its unit is free and the registers let
its first pass issue. -/
def Claims.starting (s : State) (e : QEntry) (opc fn : Nat) : Prop :=
  s.vecHead = some e ∧ cOpc e.raw = opc ∧ cFn e.raw = fn ∧ s.passReady e = true

/-- The run `r` at place `k`, of opcode `opc` and function `fn`, has its next pass due, and neither its registers nor a
bubble hold it. -/
def Claims.passDue (s : State) (k : Nat) (r : VRun) (opc fn : Nat) : Prop :=
  s.vec.runs[k]? = some r ∧ cOpc r.e.raw = opc ∧ cFn r.e.raw = fn ∧ r.unit = unitOf r.e.raw ∧ r.due s.now = true ∧
    s.runHeld k r = false ∧ s.isBubble = false ∧ r.e.vl ≤ 65536

/-- `s` with the energy that a pass of `e` adds (R317). -/
def Claims.passSpent (s : State) (e : QEntry) : Vector Nat 85 :=
  (s.spend (.pass (cOpc e.raw) (fld e.raw 43 10)) (some e.thread) 1).energy

/-- `s` once the head `e` of queue 3 has started as the run `r`, its first pass counted, with the results `w` on their way. -/
def Claims.started (s : State) (e : QEntry) (r : VRun) (w : List VWrite) : State :=
  { popQueue 3 s with
    energy := Claims.passSpent s e,
    vec := { s.vec with
      startedAt := s.now + 1, lastVl := e.vl, passes := s.vec.passes + 1, runs := s.vec.runs ++ [r],
      writes := s.vec.writes ++ w } }

/-- `s` once the run at place `k` has issued a pass, counted, and is `r` now, with the results `w` on their way. -/
def Claims.passed (s : State) (k : Nat) (r : VRun) (w : List VWrite) : State :=
  { s with
    energy := Claims.passSpent s r.e,
    vec := { s.vec with passes := s.vec.passes + 1, runs := s.vec.runs.set k r, writes := s.vec.writes ++ w } }

/-- The row `i` of opcode `opc` and function `fn` completes: its command leaves the queue and its first pass issues; each
later pass issues when it is due. `ok` says of each pass, by its number and what passes before it took from the lanes, what
its results are; they are usable `lat` cycles after it. -/
def Claims.PassRow (i : Instr) (opc fn : Nat) (lat : Build → Nat)
    (ok : State → QEntry → Nat → List VSrc → List VCell → Prop) : Prop :=
  (∀ (s : State) (e : QEntry), Claims.starting s e opc fn → ∃ r cells,
    exec i s = .next (Claims.started s e r [⟨s.now + lat s.build, cells⟩]) ∧ ok s e 0 [] cells ∧
    r = { r with
      e := e, unit := unitOf e.raw, job := none, n := (e.vl + s.build.vlen - 1) / s.build.vlen, issued := [s.now],
      done := [], fall := [] }) ∧
  (∀ (s : State) (k : Nat) (r : VRun), Claims.passDue s k r opc fn → ∃ r' cells,
    lanePass k s = Claims.passed s k r' [⟨s.now + lat s.build, cells⟩] ∧ ok s r.e r.issued.length r.src cells ∧
    r' = { r with issued := r.issued ++ [s.now], src := r'.src, out := r'.out })

/-- The row `i` of opcode `opc` and function `fn` completes: lane n of Vd takes `f` of the command and of lane n of Va, Vb
and Vc. -/
def Claims.LaneOp (i : Instr) (opc fn lat : Nat) (f : Cmd → BitVec 32 → BitVec 32 → BitVec 32 → BitVec 32) : Prop :=
  Claims.PassRow i opc fn (fun _ => lat) fun s e p _ cells =>
    let c := e.raw
    Claims.LaneCells s e false (Claims.inPass s.build e p) cells
      fun n _ => f c (s.lane (cVa c) n) (s.lane (cVb c) n) (s.lane (cVc c) n)

/-- `Claims.LaneOp` of a VFP function, on FP32 or on the two BF16 halves (W). -/
def Claims.FpOp (i : Instr) (fn : Nat) : Prop :=
  Claims.LaneOp i 0x0A fn 4 (fun c a b d => vfpLane (bitAt c 48) fn a b d)

/-- `Claims.LaneOp` of a VINT function of two 32-bit words. -/
def Claims.IntOp (i : Instr) (fn : Nat) (f : BitVec 32 → BitVec 32 → BitVec 32) : Prop :=
  Claims.LaneOp i 0x0B fn 4 (fun _ a b _ => f a b)

/-- The row `i` of the mask function `fn` completes: bit n of Kd takes `f` of the bits of Ka and Kb. -/
def Claims.MaskOp (i : Instr) (fn : Nat) (f : Bool → Bool → Bool) : Prop :=
  Claims.PassRow i 0x0E fn (fun _ => 4) fun s e p _ cells =>
    let c := e.raw.toNat
    Claims.MaskCells s e p cells fun _ n => f (s.mask (c / 2 ^ 28 % 8) n) (s.mask (c / 2 ^ 33 % 8) n)

/-- Bytes of one element of a memory format. -/
def Claims.elemBytes (c : Cmd) : Nat := mfmtBits (vmFmt c) / 8

/-- The lanes of pass `p` of a command over `vl` lanes. -/
def Claims.lanesOf (b : Build) (vl p : Nat) : List Nat := (List.range vl).filter fun n => n / b.vlen == p

/-- The vector load or store `e` of opcode `opc` is at the head of queue 3, its port is free, its registers are, and its
slot tags permit it. -/
def Claims.memStarting (s : State) (e : QEntry) (opc : Nat) : Prop :=
  s.vecHead = some e ∧ cOpc e.raw = opc ∧ s.passReady e = true ∧ s.mayTake e = true

/-- The load or store run `r` of opcode `opc` at place `k`, of the job `j`, may issue its next pass: its port has room and
its registers are free. -/
def Claims.memDue (s : State) (k : Nat) (r : VRun) (j : Job) (opc : Nat) : Prop :=
  s.vec.runs[k]? = some r ∧ cOpc r.e.raw = opc ∧ r.unit = unitOf r.e.raw ∧ r.issued.length < r.n ∧ s.isBubble = false ∧
    (∃ id, r.job = some id ∧ s.job? id = some j) ∧ j.voided = false ∧ s.regsHold k r = false ∧
    s.storeFree j.entries r.e = true ∧ s.portLoad (r.unit == .write) = 0

/-- All of the state but requests, jobs and numbers after a pass of a load or store: of a start of `e` from `s`, whose
entries were taken in `u`, or of a later pass of the run at place `k`. -/
def Claims.memStarted (s u t : State) (e : QEntry) (es : List Nat) : Prop :=
  (∃ src, t = { popQueue 3 u with
    reqs := t.reqs, jobs := t.jobs, nextId := t.nextId, energy := Claims.passSpent s e,
    vec := { s.vec with
      startedAt := s.now + 1, lastVl := e.vl, passes := s.vec.passes + 1, runs := s.vec.runs ++
        [⟨e, unitOf e.raw, some u.nextId, (e.vl + s.build.vlen - 1) / s.build.vlen, [s.now], [], [], src, []⟩] } }) ∧
  ∃ j, t.jobs.getLast? = some j ∧ j.id = u.nextId ∧ j.entries = es ∧ j.sig = cSig e.raw ∧ j.seq = e.seq ∧
    j.voided = false ∧ j.kind = if unitOf e.raw = .write then .vstore e else .vload e
def Claims.memPassed (s t : State) (k : Nat) (r : VRun) : Prop :=
  ∃ src, t = { s with
    reqs := t.reqs, jobs := t.jobs, nextId := t.nextId, energy := Claims.passSpent s r.e,
    vec := { s.vec with
      passes := s.vec.passes + 1, runs := s.vec.runs.set k { r with issued := r.issued ++ [s.now], src := src } } }

/-- The row `i` of the load or store of opcode `opc` completes: it takes its entries and issues its first pass; each later
pass issues when it is due. `ok` says what a pass, by its number, asks of memory under the entries of its job: requests
`new` of that job. -/
def Claims.MemRow (i : Instr) (opc : Nat) (fin : Nat → State → State) (may : State → QEntry → Prop)
    (ok : State → QEntry → Nat → List Nat → List LineReq → Prop) : Prop :=
  (∀ (s : State) (e : QEntry), Claims.memStarting s e opc → may s e →
    let u := takeAtStart .vec e.operands e.entries s
    (u.2.storeFree u.1 e = true) →
    ∃ t new, exec i s = .next (fin u.2.nextId t) ∧ Claims.memStarted s u.2 t e u.1 ∧ t.reqs = u.2.reqs ++ new ∧
      ok s e 0 u.1 new ∧ ∀ q ∈ new, q.job = u.2.nextId ∧ q.unit = .vec) ∧
  (∀ (s : State) (k : Nat) (r : VRun) (j : Job), Claims.memDue s k r j opc → may s r.e →
    ∃ t new, memPass k s = fin j.id t ∧ Claims.memPassed s t k r ∧ t.reqs = s.reqs ++ new ∧
      ok s r.e r.issued.length j.entries new ∧ ∀ q ∈ new, q.job = j.id ∧ q.unit = .vec)

end Sys2Proof

open Sys2Proof Sys2Proof.Machine

/-! ## The queue -/

/-- A step takes the command at the front of the queue and runs it with the queue's rest. -/
def Obligations.StepRunsFront : Prop :=
  ∀ (c : Instr) (rest : List Instr) (s : State), step { s with pending := c :: rest } = exec c { s with pending := rest }

/-! ## Usher: arithmetic, branches, jumps -/

/-- The register forms of R401: the value each writes, its frame, and that it completes. Shifts use Sb[5:0]; SLT, MIN and
MAX compare as signed numbers; MULHU gives the high half of the unsigned product. -/
def Claims.AluRegisterResults : Prop :=
  Claims.ComputesReg .add .add (fun a b => BitVec.ofNat 64 (a.toNat + b.toNat)) ∧
  Claims.ComputesReg .sub .sub (fun a b => BitVec.ofInt 64 (a.toNat - b.toNat)) ∧
  Claims.ComputesReg .and .and (· &&& ·) ∧ Claims.ComputesReg .or .or (· ||| ·) ∧ Claims.ComputesReg .xor .xor (· ^^^ ·) ∧
  Claims.ComputesReg .shl .shl (fun a b => BitVec.ofNat 64 (a.toNat * 2 ^ (b.toNat % 64))) ∧
  Claims.ComputesReg .shr .shr (fun a b => BitVec.ofNat 64 (a.toNat / 2 ^ (b.toNat % 64))) ∧
  Claims.ComputesReg .sra .sra (fun a b => a.sshiftRight (b.toNat % 64)) ∧
  Claims.ComputesReg .slt .slt (fun a b => if a.toInt < b.toInt then 1 else 0) ∧
  Claims.ComputesReg .sltu .sltu (fun a b => if a.toNat < b.toNat then 1 else 0) ∧
  Claims.ComputesReg .min .min (fun a b => if a.toInt ≤ b.toInt then a else b) ∧
  Claims.ComputesReg .max .max (fun a b => if a.toInt ≤ b.toInt then b else a) ∧
  Claims.ComputesReg .mul .mul (fun a b => BitVec.ofNat 64 (a.toNat * b.toNat)) ∧
  Claims.ComputesReg .mulhu .mulhu (fun a b => BitVec.ofNat 64 (a.toNat * b.toNat / 2 ^ 64))

/-- The immediate forms and the moves of R401: ADDI and SLTI extend the sign, ANDI, ORI and XORI do not; SHI takes its
shift and amount from the immediate; MOVZ and MOVK place the immediate at halfword h, clearing or keeping the rest. -/
def Claims.AluImmediateResults : Prop :=
  Claims.Computes .addi .addi (fun th w => th.reg (wRa w) + Claims.simm w) ∧
  Claims.Computes .andi .andi (fun th w => th.reg (wRa w) &&& Claims.imm w) ∧
  Claims.Computes .ori .ori (fun th w => th.reg (wRa w) ||| Claims.imm w) ∧
  Claims.Computes .xori .xori (fun th w => th.reg (wRa w) ^^^ Claims.imm w) ∧
  Claims.Computes .slti .slti (fun th w => if (th.reg (wRa w)).toInt < (Claims.simm w).toInt then 1 else 0) ∧
  Claims.Computes .shi .shi (fun th w =>
    let a := th.reg (wRa w)
    let n := w.toNat % 64
    if w.toNat / 64 % 4 = 0 then a <<< n else if w.toNat / 64 % 4 = 1 then a >>> n else a.sshiftRight n) ∧
  Claims.Computes .movz .movz (fun _ w => Claims.imm w <<< (16 * (w.toNat / 2 ^ 16 % 4))) ∧
  Claims.Computes .movk .movk (fun th w =>
    let n := 16 * (w.toNat / 2 ^ 16 % 4)
    (th.reg (wRd w) &&& ~~~((0xFFFF : BitVec 64) <<< n)) ||| (Claims.imm w <<< n))

/-- The arithmetic instructions of R401, in their register and immediate forms, and the moves. -/
def Obligations.AluResults : Prop := Claims.AluRegisterResults ∧ Claims.AluImmediateResults

/-- The six branches: where each goes on. -/
def Claims.BranchTargets : Prop :=
  Claims.Branches .beq .beq (· = ·) ∧ Claims.Branches .bne .bne (· ≠ ·) ∧
  Claims.Branches .blt .blt (fun a b => a.toInt < b.toInt) ∧ Claims.Branches .bge .bge (fun a b => b.toInt ≤ a.toInt) ∧
  Claims.Branches .bltu .bltu (fun a b => a.toNat < b.toNat) ∧ Claims.Branches .bgeu .bgeu (fun a b => b.toNat ≤ a.toNat)

/-- J and JAL go on at pc + 4 × imm26, JAL with the return address in S31; JR goes on at the address in Sa, and FW.RET, of
thread 15 only, at the address in S30 with the handler ended. Targets in instruction memory; nothing else changes. -/
def Claims.JumpTargets : Prop :=
  ∀ (t : Fin 16) (s : State) (w : BitVec 32),
    let th := s.thread t
    let target : Int := th.pc.toNat + 4 * (w.extractLsb' 0 26).toInt
    let inMem (a : BitVec 64) : Prop := 0x20000000 ≤ a.toNat ∧ a.toNat < 0x20040000 ∧ a.toNat % 4 = 0
    (Claims.issues s t .j w = true → 0 ≤ target → target < 0x40000 →
      ∃ s', exec (.j t) s = .next s' ∧ Claims.Went s s' t (BitVec.ofInt 18 target)) ∧
    (Claims.issues s t .jal w = true → 0 ≤ target → target < 0x40000 →
      ∃ s', exec (.jal t) s = .next s' ∧
        Claims.Result s s' t 31 (BitVec.ofNat 64 (0x20000000 + th.pc.toNat + 4)) (BitVec.ofInt 18 target)) ∧
    (Claims.issues s t .jr w = true → inMem (th.reg (wRa w)) →
      ∃ s', exec (.jr t) s = .next s' ∧ Claims.Went s s' t (BitVec.ofNat 18 ((th.reg (wRa w)).toNat - 0x20000000))) ∧
    (Claims.issues s t .fwRet w = true → inMem (th.reg 30) →
      ∃ s', exec (.fwRet t) s = .next s' ∧
        Claims.Went { s with ush := { s.ush with inHandler := false } } s' t
          (BitVec.ofNat 18 ((th.reg 30).toNat - 0x20000000)))

/-- Branches and jumps: where each goes on, and what else it writes. -/
def Obligations.BranchesJumps : Prop := Claims.BranchTargets ∧ Claims.JumpTargets

/-! ## Usher: loads and stores -/

def Claims.LoadsIssue : Prop :=
  Claims.LoadIssues .ldB .ldB 1 true ∧ Claims.LoadIssues .ldBu .ldBu 1 false ∧ Claims.LoadIssues .ldH .ldH 2 true ∧
  Claims.LoadIssues .ldHu .ldHu 2 false ∧ Claims.LoadIssues .ldW .ldW 4 true ∧ Claims.LoadIssues .ldWu .ldWu 4 false ∧
  Claims.LoadIssues .ldD .ldD 8 false

def Claims.StoresIssue : Prop :=
  Claims.StoreIssues .stB .stB 1 ∧ Claims.StoreIssues .stH .stH 2 ∧ Claims.StoreIssues .stW .stW 4 ∧
  Claims.StoreIssues .stD .stD 8

/-- Every load and every store of Hall and Lower Hall takes its entry and requests its access. -/
def Obligations.LoadsStoresIssue : Prop := Claims.LoadsIssue ∧ Claims.StoresIssue

/-- Every load and store raises the precise fault that its address asks for: ADDR_BAD outside Hall, Lower Hall and the
pages, ALIGN where misaligned, REG_ACCESS for a page access that is not an aligned one of 8 bytes. -/
def Obligations.AccessFaults : Prop :=
  Claims.AccessFaults .ldB .ldB 1 ∧ Claims.AccessFaults .ldBu .ldBu 1 ∧ Claims.AccessFaults .ldH .ldH 2 ∧
  Claims.AccessFaults .ldHu .ldHu 2 ∧ Claims.AccessFaults .ldW .ldW 4 ∧ Claims.AccessFaults .ldWu .ldWu 4 ∧
  Claims.AccessFaults .ldD .ldD 8 ∧ Claims.AccessFaults .stB .stB 1 ∧ Claims.AccessFaults .stH .stH 2 ∧
  Claims.AccessFaults .stW .stW 4 ∧ Claims.AccessFaults .stD .stD 8

/-- LD.D of a page register gives rd what the register reads, with the read's own effects; ST.D to one performs the write,
or raises REG_PRIV where the register refuses the thread. The page then has had its access of the cycle; a thread that finds
it so waits for the next cycle (R369). -/
def Obligations.PageAccess : Prop :=
  ∀ (t : Fin 16) (s : State) (w : BitVec 32) (p : Page) (off : Nat),
    let th := s.thread t
    let a := (th.reg (wRa w) + Claims.simm w).toNat
    let v := th.reg (wRd w)
    a = 0x30000000 + 4096 * p.slot.val + off → off < 4096 → off % 8 = 0 →
    (Claims.issues s t .ldD w = true → p ∉ s.paged →
      let r := regRead p off s
      ∃ s', exec (.ldD t) s = .next s' ∧
        Claims.Result { r.2 with paged := p :: s.paged, ush := { r.2.ush with threads := s.ush.threads } } s' t
          (wRd w) r.1 (th.pc + 4)) ∧
    (Claims.issues s t .stD w = true → p ∉ s.paged → refusedStore s t p off v = false →
      let u := regWrite (.thread t) p off v s
      ∃ s', exec (.stD t) s = .next s' ∧ Claims.Went { u with paged := p :: u.paged } s' t (th.pc + 4)) ∧
    (Claims.issues s t .ldD w = true → p ∈ s.paged → ∃ s', exec (.ldD t) s = .next s' ∧ Claims.Waits s s' t th) ∧
    (Claims.issues s t .stD w = true → p ∈ s.paged → refusedStore s t p off v = false →
      ∃ s', exec (.stD t) s = .next s' ∧ Claims.Waits s s' t th) ∧
    (Claims.issues s t .stD w = true → refusedStore s t p off v = true →
      ∃ s', exec (.stD t) s = .next s' ∧ Claims.Faults s s' t 0x06)

/-! ## Usher: pushes -/

/-- A push puts its command at the end of its queue, from the words after ENQ.I, from the registers of ENQ.R, as the
extension of a wide command whose first entry waits (CMD.X), or as a push that its thread owes. The first entry of a wide
command is held in its queue. -/
def Claims.PushesJoinQueue : Prop :=
  ∀ (t : Fin 16) (s : State) (w : BitVec 32),
    let th := s.thread t
    let q := wQ w
    (Claims.issues s t .enqI w = true → Claims.narrow (Claims.inline s t) → (s.queue q).hold = none →
      Claims.pushes s q (Claims.inline s t) = true →
      ∃ s', exec (.enqI t) s = .next s' ∧
        Claims.Pushed s s' t q (Claims.inline s t) 0 (Claims.goesOn th (th.pc + 20)) (Claims.issueSpent s t)) ∧
    (Claims.issues s t .enqR w = true → Claims.narrow (Claims.pair s t w) → (s.queue q).hold = none →
      Claims.pushes s q (Claims.pair s t w) = true →
      ∃ s', exec (.enqR t) s = .next s' ∧
        Claims.Pushed s s' t q (Claims.pair s t w) 0 (Claims.goesOn th (th.pc + 4)) (Claims.issueSpent s t)) ∧
    (Claims.issues s t .enqR w = true → isWide (Claims.pair s t w) = true → (s.queue q).hold = none →
      s.lat.version ≠ 0 → pushBad s q (Claims.pair s t w) = false → (s.queue q).count < 16 →
      ∃ s', exec (.enqR t) s = .next s' ∧
        Claims.Went (modQueue q (fun x => { x with hold := some (t, Claims.pair s t w) }) s) s' t (th.pc + 4)) ∧
    (∀ first, Claims.issues s t .enqR w = true → cOpc (Claims.pair s t w) = 0 → (s.queue q).hold = some (t, first) →
      th.owed? = none → pushBad s q (Claims.pair s t w) = false → Claims.pushes s q first = true →
      ∃ s', exec (.cmdX t) s = .next s' ∧
        Claims.Pushed s s' t q first (BitVec.ofNat 64 ((Claims.pair s t w).toNat / 2 ^ 64))
          (Claims.goesOn th (th.pc + 4)) (Claims.issueSpent s t)) ∧
    (∀ q c r, th.owed? = some ⟨q, c :: r⟩ → s.clocked = true → s.clu.phase = .ready → s.ush.slot0 = none →
      s.ush.pushed.contains t = false → s.step.phase ≠ .stopped →
      (∀ u ∈ s.rotation.takeWhile (· ≠ t), s.owedNow u = false) →
      Claims.narrow c → (s.queue q).hold = none → Claims.pushes s q c = true →
      ∃ s', exec (.owedPush t) s = .next s' ∧ s'.ush.pushed = t :: s.ush.pushed ∧
        Claims.Pushed s s' t q c 0 (if r = [] then
            { th.resume with
              notBefore := s.now + 1, pc := th.pc + (if decodeUsher (fetchWord s th.pc) = some .enqI then 20 else 4) }
          else { th with st := .waitData (.owed ⟨q, r⟩) }) s.energy)

/-- ENQ.H of aligned commands in Hall or Lower Hall takes an entry for the bytes it reads, requests their lines, and holds
its thread in WAIT_DATA. -/
def Claims.EnqHFetches : Prop :=
  ∀ (t : Fin 16) (s : State) (w : BitVec 32), Claims.issues s t .enqH w = true →
    let th := s.thread t
    let a := (th.reg (wRa w)).toNat
    let n := w.toNat % 16 + 1
    a % 16 = 0 → inSram s.build a (16 * n) = true → s.range.length < 64 →
    ∃ s', exec (.enqH t) s = .next s' ∧
      s'.range = s.range ++ [⟨s.nextId, a, a + 16 * n - 1, false, .usher, none, true⟩] ∧
      (∃ new, s'.reqs = s.reqs ++ new ∧ new.map (fun r => (r.addr, r.len)) = lineChunks a (16 * n) ∧
        ∀ r ∈ new, r.job = s.nextId + 1 ∧ r.unit = .usher ∧ r.entry = some s.nextId ∧ r.wr = none) ∧
      s' = { s with
        range := s'.range, reqs := s'.reqs, jobs := s'.jobs, nextId := s'.nextId, energy := Claims.issueSpent s t,
        ush := { s.ush with
          rangeHigh := s'.ush.rangeHigh, slot0 := s'.ush.slot0, slotsUsed := s'.ush.slotsUsed,
          threads := s.ush.threads.set t { th with st := .waitData (.enqh (s.nextId + 1)), issued := th.issued + 1 } } }

/-- The pushes: commands from words, registers and owed lists join their queue; ENQ.H fetches its own from memory. -/
def Obligations.Pushes : Prop := Claims.PushesJoinQueue ∧ Claims.EnqHFetches

/-- A push that a check refuses raises its code: LAT_UNSET without a selected version, CMD_BAD, SLOT_RANGE for an operand
that straddles a slot. One that finds its queue full waits. -/
def Obligations.PushRefusals : Prop :=
  ∀ (t : Fin 16) (s : State) (w : BitVec 32), Claims.issues s t .enqR w = true →
    let th := s.thread t
    let q := wQ w
    let c := Claims.pair s t w
    let ops := cmdOperands c (pushVl s) (if cOpc c = 0x1E then pushView s (goDef c) else [])
    (s.lat.version = 0 → ∃ s', exec (.enqR t) s = .next s' ∧ Claims.Faults s s' t 0x08) ∧
    (s.lat.version ≠ 0 → (s.queue q).hold = none → (cOpc c = 0 ∨ pushBad s q c = true) →
      ∃ s', exec (.enqR t) s = .next s' ∧ Claims.Faults s s' t 0x07) ∧
    (s.lat.version ≠ 0 → (s.queue q).hold = none → Claims.narrow c → pushBad s q c = false → slotRange s ops = true →
      ∃ s', exec (.enqR t) s = .next s' ∧ Claims.Faults s s' t 0x09) ∧
    (s.lat.version ≠ 0 → (s.queue q).hold = none → Claims.narrow c → pushBad s q c = false → slotRange s ops = false →
      (s.queue q).count ≥ 16 →
      ∃ s', exec (.enqR t) s = .next s' ∧
        Claims.OnlyThread s s' t { th with st := .waitQueue ⟨q, [c]⟩, issued := th.issued + 1 })

/-! ## Usher: steps, tasks, synchronisation -/

/-- STEP.WAIT goes on once STEP_CYCLE has reached its operand and else waits for it; STEP.END waits for the next mark and
counts as ended in this step; TASK.END halts its thread. The task ends when every task thread is HALTED or FREE, every
queue is empty and no range entry is in use. -/
def Obligations.StepInstructions : Prop :=
  (∀ s : State, s.ush.task = .running → s.queuesEmpty = true → s.range = [] →
    (∀ t, t ≠ 15 → (s.thread t).st = .halted ∨ (s.thread t).st = .free) →
    exec .taskEnded s = .next { s with ush := { s.ush with task := .ended } }) ∧
  ∀ (t : Fin 16) (s : State) (w : BitVec 32),
    let th := s.thread t
    let c := (th.reg (wRa w) + Claims.imm w).toNat
    (Claims.issues s t .stepWait w = true →
      ∃ s', exec (.stepWait t) s = .next s' ∧ Claims.OnlyThread s s' t
        (if c ≤ s.step.cycle.toNat then Claims.goesOn th (th.pc + 4)
        else { th with st := .waitStep c, pc := th.pc + 4, issued := th.issued + 1 })) ∧
    (Claims.issues s t .stepEnd w = true →
      ∃ s', exec (.stepEnd t) s = .next s' ∧
        Claims.OnlyThread { s with step := { s.step with ended := s.step.ended ||| (1 <<< t.val) } } s' t
          { th with st := .waitMark, pc := th.pc + 4, issued := th.issued + 1 }) ∧
    (Claims.issues s t .taskEnd w = true →
      ∃ s', exec (.taskEnd t) s = .next s' ∧
        Claims.OnlyThread s s' t { th with st := .halted, pc := th.pc + 4, issued := th.issued + 1 }) ∧
    (∀ c, th.st = .waitStep c → s.clocked = true → c ≤ s.step.cycle.toNat →
      exec (.stepWaitExpire t) s =
        .next { s with ush := { s.ush with threads := s.ush.threads.set t th.resume } })

/-- SYNC.ADD, SYNC.SET and SYNC.RD. -/
def Claims.SyncOperations : Prop :=
  Claims.SyncOp .syncAdd .syncAdd true (fun c a => c + a) ∧ Claims.SyncOp .syncSet .syncSet false (fun _ a => a) ∧
  ∀ (t : Fin 16) (s : State) (w : BitVec 32) (n : Nat), Claims.issues s t .syncRd w = true →
    Claims.object (bitAt w 13) w ((s.thread t).reg (Fin.ofNat 32 (w.toNat % 32))) n →
    ∃ s', exec (.syncRd t) s = .next s' ∧
      Claims.Result s s' t (wRd w) (BitVec.ofNat 64 (syncBase s n).toNat) ((s.thread t).pc + 4)

/-- SYNC.WAIT goes on when the count has reached its target, counting modulo 2³²; else its thread waits. A change that
reaches the target wakes it SYNC.LOCAL cycles later, at the next SYNC_WAKE; what the cycle of the change leaves decides.
A write of SYNC_VAL whose EXPECT is the selected object's count sets it; one that finds the object's operation of the cycle
taken waits for the next. -/
def Claims.SyncWaits : Prop :=
  ∀ (t : Fin 16) (s : State) (w : BitVec 32) (n : Nat),
    let th := s.thread t
    let target := BitVec.ofNat 32 (th.reg (wRa w)).toNat
    (Claims.issues s t .syncWait w = true → Claims.object (bitAt w 23) w (th.reg (wRb w)) n →
      ∃ s', exec (.syncWait t) s = .next s' ∧ Claims.OnlyThread s s' t
        (if 0 ≤ (syncGet s n - target).toInt then Claims.goesOn th (th.pc + 4)
        else { th with
          st := .waitSync (.obj (BitVec.ofNat 13 n) target none), pc := th.pc + 4, issued := th.issued + 1 })) ∧
    (∀ m tgt k v, th.st = .waitSync (.obj m tgt k) → m.toNat = n → (k = none ∨ k = some (s.now + 4)) →
      Thread.noteSync s.now n v th =
        { th with st := .waitSync (.obj m tgt (if 0 ≤ (v - tgt).toInt then some (s.now + 4) else none)) }) ∧
    (∃ s', exec .syncWake s = .next s' ∧ s' = { s with ush := { s.ush with threads := s'.ush.threads } } ∧
      (∀ m tgt k, th.st = .waitSync (.obj m tgt (some k)) → k ≤ s.now → s'.thread t = th.resume) ∧
      ((∀ m tgt k, th.st = .waitSync (.obj m tgt (some k)) → s.now < k) → s'.thread t = th)) ∧
    (∀ (o : Originator) (v : BitVec 64), Claims.writes o .sync 0x48 s → s.sync.sel.toNat = n →
      let new := BitVec.ofNat 32 v.toNat
      let c := new + syncAdded s n
      (n ∉ s.sync.taken → exec (.syncValWrite o v) s = .next (Claims.answered o .sync
        (if syncBase s n = BitVec.ofNat 32 (v.toNat / 2 ^ 32) then
          { s with
            sync := { s.sync with counts := s.sync.counts.set n c, taken := n :: s.sync.taken },
            ush := { s.ush with threads := s.ush.threads.map (Thread.noteSync s.now n c) } }
        else countEvt .sync 0 s))) ∧
      (n ∈ s.sync.taken → exec (.syncValWrite o v) s = .next (Claims.answered o .sync { s with
        nextId := s.nextId + 1,
        jobs := s.jobs.map (fun j => if j.id = s.nextId then { j with due := s.now + 1 } else j) ++
          [⟨s.nextId, .syncOp n (.val new (BitVec.ofNat 32 (v.toNat / 2 ^ 32))), [], 0, 0, 0, none, [], 0, none, none, false, 0,
            s.now + 1⟩] })))

/-- The operations on sync objects, and the waits for them. -/
def Obligations.SyncObjects : Prop := Claims.SyncOperations ∧ Claims.SyncWaits

/-- QUE.CFG enables a context whose buffer lies in Hall, aligned to its size, empty; it disables one that no thread waits
for and that holds no reserved entry. -/
def Claims.QueueConfigure : Prop :=
  ∀ (t : Fin 16) (s : State) (w : BitVec 32), Claims.issues s t .queCfg w = true →
    let th := s.thread t
    let q := (th.reg (wRd w)).toNat
    let a := th.reg (wRa w)
    let lg := a.toNat / 256 % 16
    let base := (th.reg (wRb w)).toNat
    let x := s.que q
    q < 8192 → 1 ≤ lg → lg ≤ 12 → base % (8 * 2 ^ lg) = 0 → base + 8 * 2 ^ lg ≤ 0x1800000 →
    (a.toNat % 2 = 1 → x.en = false →
      ∃ s', exec (.queCfg t) s = .next s' ∧
        Claims.Went (modQue q (fun _ => ⟨true, BitVec.ofNat 4 lg, BitVec.ofNat 32 base, 0, 0, 0, []⟩) s) s' t (th.pc + 4)) ∧
    (a.toNat % 2 = 0 → s.queWaiters q = false → x.res = x.tail →
      ∃ s', exec (.queCfg t) s = .next s' ∧
        Claims.Went (modQue q (fun x => { x with en := false, depthLog2 := BitVec.ofNat 4 lg, base := BitVec.ofNat 32 base }) s)
          s' t (th.pc + 4))

/-- QUE.PUT with room writes Sb at the slot of index RES and counts RES; QUE.GET of an entry reads the slot of index HEAD
into rd, counts HEAD and lets the threads that wait for room try again. Without room, or without an entry, they wait. -/
def Claims.QueuePutGet : Prop :=
  ∀ (t : Fin 16) (s : State) (w : BitVec 32),
    let th := s.thread t
    let q := (th.reg (wRa w)).toNat
    let x := s.que q
    let slot (i : Nat) : Nat := x.base.toNat + 8 * (i % 2 ^ x.depthLog2.toNat)
    q < 8192 → x.en = true → s.range.length < 64 →
    (Claims.issues s t .quePut w = true → x.res - x.head < 2 ^ x.depthLog2.toNat →
      ∃ s', exec (.quePut t) s = .next s' ∧
        s'.range = s.range ++ [⟨s.nextId, slot x.res, slot x.res + 7, true, .usher, none, true⟩] ∧
        (∃ new, s'.reqs = s.reqs ++ new ∧ new.map (fun r => (r.addr, r.len)) = lineChunks (slot x.res) 8 ∧
          new.flatMap (fun r => r.wr.getD []) = cellsAt (slot x.res) (leBytes (th.reg (wRb w)).toNat 8) ∧
          ∀ r ∈ new, r.job = s.nextId + 1 ∧ r.unit = .usher ∧ r.entry = some s.nextId ∧ r.wr.isSome = true) ∧
        s' = { s with
          range := s'.range, reqs := s'.reqs, jobs := s'.jobs, nextId := s'.nextId, energy := Claims.issueSpent s t,
          sync := { s.sync with ques := cellsSet QueCtx.off q { x with res := x.res + 1 } s.sync.ques },
          ush := { s.ush with
            rangeHigh := s'.ush.rangeHigh, slot0 := s'.ush.slot0, slotsUsed := s'.ush.slotsUsed,
            threads := s.ush.threads.set t (Claims.goesOn th (th.pc + 4)) } }) ∧
    (Claims.issues s t .quePut w = true → 2 ^ x.depthLog2.toNat ≤ x.res - x.head →
      ∃ s', exec (.quePut t) s = .next s' ∧
        Claims.Waits s s' t { th with st := .waitSync (.quePut (BitVec.ofNat 13 q)) }) ∧
    (Claims.issues s t .queGet w = true → x.head ≠ x.tail →
      ∃ s', exec (.queGet t) s = .next s' ∧
        s'.range = s.range ++ [⟨s.nextId, slot x.head, slot x.head + 7, false, .usher, none, true⟩] ∧
        (∃ new, s'.reqs = s.reqs ++ new ∧ new.map (fun r => (r.addr, r.len)) = lineChunks (slot x.head) 8 ∧
          ∀ r ∈ new, r.job = s.nextId + 1 ∧ r.unit = .usher ∧ r.entry = some s.nextId ∧ r.wr = none) ∧
        (∀ u, u ≠ t → s'.thread u = if (s.thread u).st = .waitSync (.quePut (BitVec.ofNat 13 q))
          then { s.thread u with st := .ready } else s.thread u) ∧
        s'.thread t = { Claims.goesOn th (th.pc + 4) with
          pend := th.pend ++ (if wRd w = 0 then [] else [(s.nextId + 1, wRd w)]) } ∧
        s' = { s with
          range := s'.range, reqs := s'.reqs, jobs := s'.jobs, nextId := s'.nextId, energy := Claims.issueSpent s t,
          sync := { s.sync with ques := cellsSet QueCtx.off q { x with head := x.head + 1 } s.sync.ques },
          ush := { s.ush with
            rangeHigh := s'.ush.rangeHigh, slot0 := s'.ush.slot0, slotsUsed := s'.ush.slotsUsed,
            threads := s'.ush.threads } }) ∧
    (Claims.issues s t .queGet w = true → x.head = x.tail →
      ∃ s', exec (.queGet t) s = .next s' ∧
        Claims.Waits s s' t { th with st := .waitSync (.queGet (BitVec.ofNat 13 q)) })

/-- Queue contexts: enabling and disabling, putting and getting. -/
def Obligations.QueueContexts : Prop := Claims.QueueConfigure ∧ Claims.QueuePutGet

/-- The atomics, scoped and of the home form. -/
def Claims.AtomicsSent : Prop :=
  Claims.AtomSent .atomAdd .atomAdd .add false ∧ Claims.AtomSent .atomMax .atomMax .max false ∧
  Claims.AtomSent .atomMin .atomMin .min false ∧ Claims.AtomSent .atomAnd .atomAnd .and false ∧
  Claims.AtomSent .atomOr .atomOr .or false ∧ Claims.AtomSent .atomSwap .atomSwap .swap false ∧
  Claims.AtomSent .atomCas .atomCas .cas false ∧ Claims.AtomSent .atomQput .atomQput .qput false ∧
  Claims.AtomSent .atomHAdd .atomHAdd .add true ∧ Claims.AtomSent .atomHSwap .atomHSwap .swap true ∧
  Claims.AtomSent .atomHCas .atomHCas .cas true

/-- The atomics of a wider scope than CL, and of the home form, in their release fence. -/
def Claims.AtomicsFenced : Prop :=
  Claims.AtomFenced .atomAdd .atomAdd .add false ∧ Claims.AtomFenced .atomMax .atomMax .max false ∧
  Claims.AtomFenced .atomMin .atomMin .min false ∧ Claims.AtomFenced .atomAnd .atomAnd .and false ∧
  Claims.AtomFenced .atomOr .atomOr .or false ∧ Claims.AtomFenced .atomSwap .atomSwap .swap false ∧
  Claims.AtomFenced .atomCas .atomCas .cas false ∧ Claims.AtomFenced .atomQput .atomQput .qput false ∧
  Claims.AtomFenced .atomHAdd .atomHAdd .add true ∧ Claims.AtomFenced .atomHSwap .atomHSwap .swap true ∧
  Claims.AtomFenced .atomHCas .atomHCas .cas true

/-- When the last write and atomic that a fence waits for has gone, RELEASE_FENCE_CLEAR sends its atomic: the word's read
under the entry it holds, or the request to another cluster, of which 16 may be outstanding. -/
def Claims.ReleaseFence : Prop :=
  ∀ (t : Fin 16) (s : State) (a : AtomReq) (own : Option Nat) (es as : List Nat),
    let th := s.thread t
    let after (id : Nat) : Thread := if a.rd = 0 ∧ a.home = false then { th.resume with pc := th.pc + 4 }
      else { th with st := .waitData (.atom id) }
    th.st = .waitSync (.fence a own es as) → s.clocked = true →
    (∀ e ∈ s.range, e.live = true → e.id ∉ es) → (∀ j ∈ as, j ∉ s.openAtoms a.scope) →
    (a.isOwn s = false → s.remoteAtoms < 16 →
      exec (.releaseFenceClear t) s = .next { s with
        fab := { s.fab with xfers := s.fab.xfers ++
          [⟨.usher t s.nextId a.rd a.posted, .atom a, a.addr, 0, 0, none, 0, s.now, false⟩] },
        nextId := s.nextId + 1,
        ush := { s.ush with threads := s.ush.threads.set t (after s.nextId) } }) ∧
    (∀ x, a.isOwn s = true → a.target? s = some (.word x) →
      exec (.releaseFenceClear t) s = .next { s with
        jobs := s.jobs.map (fun j => if j.id = s.nextId then { j with left := j.left + 1 } else j) ++
          [Claims.atomJob s t a s.nextId 1 0 own.toList],
        reqs := s.reqs ++ [⟨s.nextId + 1, s.nextId, 0, 80, .usher, own, x, 8, none⟩],
        nextId := s.nextId + 2,
        ush := { s.ush with threads := s.ush.threads.set t (after s.nextId) } })

/-- An atomic on a word takes one grant: the word becomes the operation's value, every other byte stays, and the access
carries the word as it was. Its end gives that word to rd and lets the thread go on. One on a sync object does the same to the
count in the cycle in which it falls due, and its count is usable in the next. -/
def Claims.AtomicPerformed : Prop :=
  ∀ (s : State) (t : Fin 16) (a : AtomReq) (pc : BitVec 18) (j : Job), j.kind = .atomMem t a pc →
    let th := s.thread t
    (∀ (b : LineBank) (inner : Nat) (r : LineReq), s.clocked = true → LineBank.idx b ∉ s.granted →
      s.repairAsks (LineBank.idx b) = false → s.winner (LineBank.idx b) = some r → s.job? r.job = some j → r.wr = none → r.len = 8 → s.powerAt r.addr = .on →
      Memory.wf s.mem →
      let old := BitVec.ofNat 64 (leNat (memRead s r.addr 8))
      ∃ s' x, exec (.hallAccessGrant b inner 0) s = .next s' ∧ s'.access = s.access ++ [x] ∧ x.req = r ∧
        (∀ i < 8, memByte s' (r.addr + i) = (Claims.atomValue a.op old a.b a.c).extractLsb' (8 * i) 8) ∧
        (∀ k, (k < r.addr ∨ r.addr + 8 ≤ k) → memByte s' k = memByte s k) ∧
        x.data = (List.range 8).map (fun i => (r.addr + i, memByte s (r.addr + i)))) ∧
    (∀ (id : Nat) (x : Access) (bs : List (BitVec 8)), s.access.find? (fun y => y.req.id == id) = some x → s.clocked = true →
      x.due ≤ s.now → x.ecc = .clean → x.req.wr = none → s.job? x.req.job = some j → j.voided = false → j.left = 1 →
      j.buf = [] → x.data.map (·.2) = bs → bs.length = 8 → th.st = .waitData (.atom j.id) →
      ∃ s', exec (.hallReadDataUsable id) s = .next s' ∧
        (∀ q, (s'.thread t).reg q = if q = 0 then 0 else if q = a.rd then BitVec.ofNat 64 (leNat bs) else th.reg q) ∧
        s'.thread t = { th.resume with regs := (s'.thread t).regs, pc := th.pc + 4, notBefore := s.now } ∧
        (∀ u, u ≠ t → s'.thread u = s.thread u) ∧ s'.mem = s.mem) ∧
    (∀ n v, j.left = 0 → 0 < j.due → j.due ≤ s.now → a.target? s = some (.obj n) → n ∉ s.sync.taken →
      th.st = .waitData (.atom j.id) →
      let old := syncBase s n
      atomCount a.op old (BitVec.ofNat 32 a.b.toNat) (BitVec.ofNat 32 a.c.toNat) = some v →
      let s' := performJob j s
      syncGet s' n = v + syncAdded s n ∧ (∀ k, k ≠ n → syncGet s' k = syncGet s k) ∧
        (∀ q, (s'.thread t).reg q = if q = 0 then 0 else if q = a.rd then BitVec.ofNat 64 old.toNat else th.reg q) ∧
        (s'.thread t).pc = th.pc + 4 ∧ (s'.thread t).notBefore = s.now + 1 ∧ s'.mem = s.mem)

/-- Atomics are sent at once where no release fence holds them, and when it clears where one does; and what they do. -/
def Obligations.Atomics : Prop :=
  Claims.AtomicsSent ∧ Claims.AtomicsFenced ∧ Claims.ReleaseFence ∧ Claims.AtomicPerformed

/-! ## The arrays -/

/-- The head of array `a`'s queue is the OPX `e`, nothing holds it, and its registers have the shapes `ha` and `hb`. -/
def Claims.opxReady (s : State) (a : Fin 2) (e : QEntry) (ha hb : TileShape) : Prop :=
  s.head? (opaQ a) = some e ∧ cOpc e.raw = 1 ∧ s.opaNext a e = .go ∧
    s.shapeOf (opxOf e.raw).ta = some ha ∧ s.shapeOf (opxOf e.raw).tb = some hb

/-- Cell (r, c) of bank `b` of array `a`. -/
def Claims.cell (s : State) (a b : Fin 2) (r c : Nat) : BitVec 32 := (s.opa[a].banks[b]).cells.get (128 * r + c)

/-- `s` with the head of array `a`'s queue gone. -/
def Claims.arrayPopped (s : State) (a : Fin 2) : State :=
  { s with ush := { s.ush with
    queues := s.ush.queues.set (opaQ a) { s.queue (opaQ a) with cmds := (s.queue (opaQ a)).cmds.drop 1 } } }

/-- Array `a` once command `e` of `n` beats has started on bank `b`: its beats enter from this cycle on, and the bank has one
more readout point to come. -/
def Claims.arrayRuns (s : State) (a b : Fin 2) (e : QEntry) (n : Nat) (shape : BitVec 3) (kind : Bool) : Opa :=
  let x := s.opa[a]
  { x with
    shape := shape, bank := b == 1, cur := e.raw, curSeq := e.seq, curThread := e.thread, left := n, nextBeat := s.now, feed := 0,
    banks := x.banks.set b { x.banks[b] with
      kindNext := kind, pend := (x.banks[b]).pend ++ [⟨none, cSig e.raw⟩] } }

/-- The beats of array `a`'s command enter one after another: the one that is due takes its k-vectors with it and commits
OPA.COMMIT cycles later; the next follows one cycle later, two at half rate. The last one leaves the bank's readout point
OPA.READY after its commit, ends the use of the tile registers, and lets the next command start after its own cycles. -/
def Claims.BeatEnters : Prop :=
  ∀ (a : Fin 2) (s : State),
    let x := s.opa[a]
    let t := takeBeat s x.cur x.beatIx
    let x' := (enterBeat a s).opa[a]
    let b := arrayBank x.cur
    let gap := if cOpc x.cur = 1 ∧ (opxOf x.cur).half = true then 2 else 1
    t.commitAt = s.now + 38 ∧ x'.pipe = x.pipe ++ [t] ∧ x'.left = x.left - 1 ∧ x'.nextBeat = s.now + gap ∧
      x'.beats = x.beats + 1 ∧ x'.beatIdx.toNat = x.beatIx % 65536 ∧
      x'.zgated = (if x.zgEn then x.zgated + BitVec.ofNat 48 t.gated else x.zgated) ∧
      (∀ k : Fin 2, (x'.banks[k]).cells = (x.banks[k]).cells ∧ (x'.banks[k]).int32 = (x.banks[k]).int32) ∧
      (x.left ≠ 1 → x'.freeAt = x.freeAt ∧ x'.banks = x.banks ∧ (enterBeat a s).tile = s.tile) ∧
      (x.left = 1 → x'.freeAt = s.now + gap ∧
        (∀ l sig, (x.banks[b]).pend = l ++ [⟨none, sig⟩] → (x'.banks[b]).pend = l ++ [⟨some (s.now + 44), sig⟩]) ∧
        ∀ r ∈ tileUses x.cur, ((enterBeat a s).tile.regs[r]).retiredAt ≥ s.now) ∧
      (∀ k, k ≠ a → (enterBeat a s).opa[k] = s.opa[k]) ∧ (enterBeat a s).mem = s.mem

/-- An OPX that starts leaves its queue and occupies its array for KLEN / k beats; what every beat does as it enters. -/
def Obligations.OpxStarts : Prop :=
  (∀ (a : Fin 2) (s : State) (e : QEntry) (ha hb : TileShape), Claims.opxReady s a e ha hb →
    let o := opxOf e.raw
    exec (.opx a) s = .next { Claims.arrayPopped s a with
      opa := s.opa.set a (Claims.arrayRuns s a o.bank e o.beats (e.raw.extractLsb' 23 3)
        (if o.z then decide (o.var = 2) else ((s.opa[a]).banks[o.bank]).kindNext)) }) ∧
  Claims.BeatEnters

/-- The k-vector of operand `x` at index `n` that beat `b` of `o` takes: the elements' bits and scale bytes. -/
def Claims.kvec (s : State) (o : OpxCmd) (x : Operand) (h : TileShape) (b n : Nat) : List (Nat × Nat) :=
  (List.range o.k).map fun u =>
    let k := o.kstart + b * o.k + u
    let r := if x.ax then k else n
    let c := if x.ax then n else k
    (tileElem s x.t h r c, tileScale s x.t h r c)

/-- What the commit of beat `b`, which entered in state `s₀`, does to its bank. The cells outside the active partitions keep
their values; in an active partition those outside the active rows and columns are zeroed by the first beat under Z and else
keep theirs; every other cell adds the dot product of its row's and its column's k-vectors: under INT8 of signed products,
clamped to 32 bits, in the other variants rounded once to FP32 with the scales of both blocks. The other bank, the other
array, and all memory stay. -/
def Obligations.OpxCells : Prop :=
  ∀ (a : Fin 2) (s₀ s : State) (c : Cmd) (b : Nat) (ha hb : TileShape), cOpc c = 1 →
    let o := opxOf c
    s₀.shapeOf o.ta = some ha → s₀.shapeOf o.tb = some hb →
    let s' := commitBeat a (takeBeat s₀ c b) s
    (∀ k, k ≠ o.bank → s'.opa[a].banks[k] = s.opa[a].banks[k]) ∧ (∀ k, k ≠ a → s'.opa[k] = s.opa[k]) ∧ s'.mem = s.mem ∧
    (s'.opa[a].banks[o.bank]).int32 =
      (if b = 0 ∧ o.z then decide (o.var = 2) else (s.opa[a].banks[o.bank]).int32) ∧
    ∀ r < 128, ∀ k < 128,
      let old := Claims.cell s a o.bank r k
      let new := Claims.cell s' a o.bank r k
      let start : BitVec 32 := if o.z ∧ b = 0 then 0 else old
      ∀ p i j, o.locate r k = (p, i, j) →
      let va := Claims.kvec s₀ o o.a ha b (if o.aSh then i else p * o.mact + i)
      let vb := Claims.kvec s₀ o o.b hb b (if o.bSh then j else p * o.nact + j)
      (p ∉ o.active → new = old) ∧
      (p ∈ o.active → (o.mact ≤ i ∨ o.nact ≤ j) → new = start) ∧
      (p ∈ o.active → i < o.mact → j < o.nact →
        (o.var = 2 →
          let sum := start.toInt +
            (List.zipWith (fun x y => (BitVec.ofNat 8 x.1).toInt * (BitVec.ofNat 8 y.1).toInt) va vb).sum
          new = if sum > 2147483647 then 0x7FFFFFFF else if sum < -2147483648 then 0x80000000 else BitVec.ofInt 32 sum) ∧
        (o.var ≠ 2 → new = cubeStep start
          (List.zipWith (fun x y => (elemNum ha.fmt.toNat x.1, elemNum hb.fmt.toNat y.1)) va vb)
          ((va.head?.map (·.2)).getD 127) ((vb.head?.map (·.2)).getD 127)))

/-- OPA.CLR takes one beat, whose commit zeroes its bank and gives it a kind. A bank's readout point is reached no earlier
than its cycle, and signals. A RESUME drops the held command of the array. -/
def Obligations.ArrayControl : Prop :=
  ∀ (a : Fin 2) (s : State),
    let x := s.opa[a]
    (∀ e, s.head? (opaQ a) = some e → cOpc e.raw = 2 → s.opaNext a e = .go →
      let b : Fin 2 := Fin.ofNat 2 (e.raw.toNat / 2 ^ 19)
      exec (.opaClr a) s = .next { Claims.arrayPopped s a with
        opa := s.opa.set a (Claims.arrayRuns s a b e 1 x.shape (e.raw.toNat / 2 ^ 20 % 2 = 1)) }) ∧
    (∀ (c : Cmd) (s₀ : State), cOpc c = 2 →
      let b : Fin 2 := Fin.ofNat 2 (c.toNat / 2 ^ 19)
      let s' := commitBeat a (takeBeat s₀ c 0) s
      (s'.opa[a].banks[b]).int32 = decide (c.toNat / 2 ^ 20 % 2 = 1) ∧
        (∀ r < 128, ∀ k < 128, Claims.cell s' a b r k = 0) ∧ (∀ k, k ≠ b → s'.opa[a].banks[k] = x.banks[k])) ∧
    (∀ b k sig r, (x.banks[b]).pend = ⟨some k, sig⟩ :: r → s.clocked = true → k ≤ s.now →
      exec (.bankReadoutPoint a b) s = .next (signalOpt sig
        { s with opa := s.opa.set a { x with banks := x.banks.set b { x.banks[b] with pend := r } } })) ∧
    (∀ o v, Claims.writes o (Page.opa a) 0x40 s → x.held = true →
      exec (.opaResume o a v) s = .next (Claims.answered o (Page.opa a) { Claims.arrayPopped s a with
        opa := s.opa.set a { x with zgEn := v.toNat % 2 = 1, held := false } }))

/-- An OPX whose registers or extents R107 refuses raises TILE_SHAPE, one of another bank kind ACC_KIND: its page logs the
fault with the bank, and in normal service the task is aborted; in inspection the array holds the command. -/
def Obligations.OpxFaults : Prop :=
  ∀ (a : Fin 2) (s : State) (e : QEntry) (code : Nat),
    s.head? (opaQ a) = some e → cOpc e.raw = 1 → s.opaNext a e = .bad code →
    let o := opxOf e.raw
    (code = 0x10 ∨ code = 0x11) ∧
    ∃ s', exec (.opx a) s = .next s' ∧
      s'.mem = s.mem ∧
      (s.clu.live = false → s.ush.task = .running →
        s'.ush.task = .aborted ∧ s'.evt.valid = true ∧ (s.evt.valid = false →
          s'.evt.code = BitVec.ofNat 8 code ∧ s'.evt.page = BitVec.ofNat 6 (4 + a.val))) ∧
      (s.clu.live = true → s'.opa[a].held = true ∧ s'.ush = s.ush ∧ (∀ b : Fin 2, s'.opa[a].banks[b] = s.opa[a].banks[b]) ∧
        (s'.hdrOf (Page.opa a)).log =
          BitVec.ofNat 64 (code + 2 ^ 8 * o.bank.val + 2 ^ 16 * (e.seq % 2 ^ 32) + 2 ^ 60 * (code - 0x10)))

/-! ## The tile unit -/

/-- The head of the tile queue is `e`, of opcode `opc`; the unit is free and no PAUSE holds it. -/
def Claims.tileReady (s : State) (opc : Nat) (e : QEntry) : Prop :=
  s.head? 2 = some e ∧ cOpc e.raw = opc ∧ s.tileFree = true ∧ (s.tile.pause = false ∨ s.clu.live = false)

/-- A TCFG of a shape R128 allows, and a TREL, wait in the unit; TILE.CFG cycles later, and after the last earlier use of
the register, it takes effect: the register has the shape and scales of 127, or no shape. -/
def Obligations.TileConfiguration : Prop :=
  ∀ (s : State) (e : QEntry),
    (Claims.tileReady s 3 e → (tcfgShape e.raw).bad = false →
      exec .tcfg s = .next { popQueue 2 s with tile := { s.tile with cfg := some (e, s.now) } }) ∧
    (Claims.tileReady s 6 e → exec .trel s = .next { popQueue 2 s with tile := { s.tile with cfg := some (e, s.now) } }) ∧
    (∀ st, s.tile.cfg = some (e, st) →
      let t := cTreg e.raw
      let r := s.tile.regs[t]
      s.clocked = true → s.opxUses t e.seq = false → s.loading t = false → max st r.retiredAt + 2 ≤ s.now →
      exec .tileCfgTakeEffect s = .next (signalOpt (cSig e.raw) { s with tile := { s.tile with
        cfg := none,
        regs := s.tile.regs.set t (if cOpc e.raw = 3
          then { r with shape := some (tcfgShape e.raw), scale := ⟨127, []⟩, retiredAt := s.now }
          else { r with shape := none, retiredAt := s.now }) } }))

/-- The requests of a move: tag, address and length of each piece, row by row, a row's scales after it. -/
def Claims.moveLines (m : TmoveCmd) : List (Nat × Nat × Nat) :=
  (List.range m.count).flatMap fun i =>
    let r := m.first + i
    (lineChunks (m.base + r * m.stride) m.width).map (fun c => (2 * r, c)) ++
      (if m.scl = 0 ∨ (m.sbax = true ∧ r % 32 ≠ 0) then [] else
        let k := if m.sbax then r / 32 else r
        (lineChunks (m.sbase + k * m.sstride) m.scaleBytes).map (fun c => (2 * r + 1, c)))

/-- The bytes a TST stores: each row from its tile lines, each scale row from the plane. -/
def Claims.moveBytes (s : State) (m : TmoveCmd) (h : TileShape) : List Host.Cell :=
  (List.range m.count).flatMap fun i =>
    let r := m.first + i
    cellsAt (m.base + r * m.stride) ((List.range m.width).map fun o => tileByte s m.t h r o) ++
      (if m.scl = 0 ∨ (m.sbax = true ∧ r % 32 ≠ 0) then [] else
        let k := if m.sbax then r / 32 else r
        cellsAt (m.sbase + k * m.sstride)
          ((List.range m.scaleBytes).map fun b => s.tile.regs[m.t].scale.get (k * m.scaleBytes + b)))

/-- A TLD or TST that starts takes the entries its push left open, unless it has them all, and requests its lines in row
order. A TST's requests carry the rows' bytes; neither changes memory or a tile register by its start. -/
def Claims.TileMovesStart : Prop :=
  ∀ (s : State) (e : QEntry) (h : TileShape) (store : Bool),
    let m := tmoveOf e.raw
    let ops := e.operands
    let u := takeAtStart .tile ops e.entries (popQueue 2 s)
    Claims.tileReady s (if store then 5 else 4) e → (if store then s.loadLate m.t else s.opxUses m.t e.seq) = false →
    (e.entries.length = ops.length ∨ canTake s ops = true) → s.shapeOf m.t = some h → moveBad s m = false →
    ∃ s', exec (if store then .tst else .tld) s = .next s' ∧
      (∃ new, s'.reqs = s.reqs ++ new ∧ new.map (fun q => (q.tag, q.addr, q.len)) = Claims.moveLines m ∧
        (∀ q ∈ new, q.job = u.2.nextId ∧ q.unit = .tile ∧ q.entry = u.1[q.tag % 2]? ∧ q.wr.isSome = store) ∧
        new.flatMap (fun q => q.wr.getD []) = if store then Claims.moveBytes s m h else []) ∧
      (∃ j, s'.jobs.getLast? = some j ∧ j.id = u.2.nextId ∧ j.kind = (if store then .tst e else .tld e) ∧
        j.entries = u.1 ∧ j.sig = cSig e.raw) ∧
      s' = { u.2 with reqs := s'.reqs, jobs := s'.jobs, nextId := s'.nextId }

/-- The first line of the landing buffer that may go into bank `b` goes into its word of the register's place, and counts. -/
def Claims.TileLineLands : Prop :=
  ∀ (b : Fin 64) (s : State) (x : LandLine) (h : TileShape) (t : Fin 16),
    s.tile.landbuf.find? (fun y => (s.landsIn y b.val).isSome) = some x → s.landsIn x b.val = some (t, h) → s.clocked = true →
    (∀ g ∈ s.tile.landed, g.1 ≠ b.val) → b.val ∉ s.tile.read → b.val ∉ s.collectorBanks →
    ∃ s', exec (.tileLineLand b) s = .next s' ∧
      h.bank x.line = b.val ∧ (∀ i < 64, s'.tile.words.get (h.place t x.line + i) = x.bytes.getD i 0) ∧
      s'.tile.words = s.tile.words.fill (h.place t x.line) 64 (fun i => x.bytes.getD i 0) ∧
      s'.tile.landbuf = s.tile.landbuf.erase x ∧ s'.tile.landed = (b.val, t, x.line) :: s.tile.landed ∧
      s'.tile.loaded = s.tile.loaded + 1 ∧ s'.mem = s.mem ∧ s'.reqs = s.reqs

/-- Tile moves: what a start requests, and where an arrived line lands. -/
def Obligations.TileMoves : Prop := Claims.TileMovesStart ∧ Claims.TileLineLands

/-- TILE_CTL: PAUSE is kept; RESUME puts the held command back at the head of its queue, from TILE_START_ROW on; DISCARD
drops it and releases its entries. Both end the hold and the pause. -/
def Obligations.TileControl : Prop :=
  ∀ (s : State) (o : Originator) (v : BitVec 64), Claims.writes o .tile 0x40 s →
    (s.tile.held = none →
      exec (.tilePauseWrite o v) s = .next (Claims.answered o .tile { s with tile := { s.tile with pause := v.toNat % 2 = 1 } })) ∧
    (∀ e, s.tile.held = some e →
      (v.toNat / 2 ^ 9 % 2 = 0 →
        exec (.tileResume o v) s = .next (Claims.answered o .tile
          (modQueue 2 (fun q => { q with cmds := restartAt e s.tile.startRow.toNat :: q.cmds })
            { s with tile := { s.tile with held := none, pause := false } }))) ∧
      exec (.tileDiscard o v) s = .next (Claims.answered o .tile (retireUse (cTreg e.raw)
        (releaseAll e.entries false { s with tile := { s.tile with held := none, pause := false } }))))

/-! ## The vector engine -/

/-- The VFP rows compute in FP32, or in BF16 halves under W. -/
def Obligations.VectorFloat : Prop :=
  Claims.FpOp .vadd 0 ∧ Claims.FpOp .vsub 1 ∧ Claims.FpOp .vmul 2 ∧ Claims.FpOp .vfma 3 ∧ Claims.FpOp .vmin 4 ∧
  Claims.FpOp .vmax 5 ∧ Claims.FpOp .vabs 6 ∧ Claims.FpOp .vneg 7

/-- MIN and MAX of a number and a NaN are the number (a subnormal reads as zero), of two NaNs the canonical NaN; −0 orders
below +0. -/
def Obligations.MinMaxNan : Prop :=
  ∀ (s : State) (e : QEntry) (n : Nat) (max : Bool),
    Claims.starting s e 0x0A (if max then 5 else 4) → n < s.build.vlen → n < e.vl → s.active e.raw n = true →
    bitAt e.raw 48 = false →
    let a := s.lane (cVa e.raw) n
    let b := s.lane (cVb e.raw) n
    let nan (x : BitVec 32) : Prop := x.toNat / 2 ^ 23 % 256 = 255 ∧ x.toNat % 2 ^ 23 ≠ 0
    let flushed (x : BitVec 32) : BitVec 32 := if x.toNat / 2 ^ 23 % 256 = 0 then x &&& 0x80000000 else x
    ∃ r cells, exec (if max then .vmax else .vmin) s = .next (Claims.started s e r [⟨s.now + 4, cells⟩]) ∧ ∀ u,
      let x := (putCells cells u).lane (cVd e.raw) n
      (nan a → ¬ nan b → x = flushed b) ∧ (nan b → ¬ nan a → x = flushed a) ∧ (nan a → nan b → x = 0x7FC00000) ∧
      (a = 0 → b = 0x80000000 → x = if max then 0 else 0x80000000) ∧
      (a = 0x80000000 → b = 0 → x = if max then 0 else 0x80000000)

/-- The VINT rows compute modulo 2³²; minimum and maximum are signed; shifts take the low five bits of Vb. -/
def Obligations.VectorInteger : Prop :=
  Claims.IntOp .vaddI 0 (fun a b => BitVec.ofNat 32 (a.toNat + b.toNat)) ∧
  Claims.IntOp .vsubI 1 (fun a b => BitVec.ofInt 32 (a.toInt - b.toInt)) ∧
  Claims.IntOp .vmulI 2 (fun a b => BitVec.ofNat 32 (a.toNat * b.toNat)) ∧
  Claims.IntOp .vminI 3 (fun a b => if a.toInt ≤ b.toInt then a else b) ∧
  Claims.IntOp .vmaxI 4 (fun a b => if a.toInt ≤ b.toInt then b else a) ∧
  Claims.IntOp .vand 5 (· &&& ·) ∧ Claims.IntOp .vor 6 (· ||| ·) ∧ Claims.IntOp .vxor 7 (· ^^^ ·) ∧
  Claims.IntOp .vnot 8 (fun a _ => ~~~a) ∧
  Claims.IntOp .vshl 9 (fun a b => BitVec.ofNat 32 (a.toNat * 2 ^ (b.toNat % 32))) ∧
  Claims.IntOp .vshr 10 (fun a b => BitVec.ofNat 32 (a.toNat / 2 ^ (b.toNat % 32))) ∧
  Claims.IntOp .vsra 11 (fun a b => a.sshiftRight (b.toNat % 32))

/-- Results reach the registers in the cycle from which they are usable, in the order in which they were formed; a command
whose last result is usable signals and ends (R60, R152). -/
def Claims.ResultsReach : Prop :=
  ∀ s : State,
    (∀ w rest, s.vec.writes = w :: rest → w.at_ ≤ s.now → (∀ x ∈ rest, s.now < x.at_) →
      applyWrites s = putCells w.cells { s with vec := { s.vec with writes := rest } }) ∧
    ((∀ w ∈ s.vec.writes, s.now < w.at_) → applyWrites s = s) ∧
    (∀ r k, s.vec.runs = [r] → (r.unit = .alu ∨ r.unit = .trans ∨ r.unit = .xnet) → r.issued.length = r.n →
      r.issued.getLast? = some k → endRuns s = if k + passLat s.build r.e.raw ≤ s.now then
        signalOpt (cSig r.e.raw) { s with vec := { s.vec with runs := [] } } else s)

/-- VMOV copies lanes of Va, VSEL takes them from Va where K[VC] is set and else from Vb, VSPLAT writes its immediate;
VCVT converts, keeping the other half of a narrow destination; the transcendentals take eight cycles on a unit of quarter
rate. What a pass computes reaches the registers when it is usable. -/
def Obligations.VectorMovesConversions : Prop :=
  Claims.LaneOp .vmov 0x0D 0 4 (fun _ a _ _ => a) ∧
  Claims.LaneOp .vsplat 0x0D 2 4 (fun c _ _ _ => BitVec.ofNat 32 (c.toNat / 2 ^ 49)) ∧
  Claims.PassRow .vsel 0x0D 1 (fun _ => 4) (fun s e p _ cells =>
    Claims.LaneCells s e false (Claims.inPass s.build e p) cells fun n _ =>
      if s.mask (e.raw.toNat / 2 ^ 38 % 8) n then s.lane (cVa e.raw) n else s.lane (cVb e.raw) n) ∧
  (∀ fn, Claims.PassRow .vcvt 0x0F fn (fun _ => 4) fun s e p _ cells =>
    let c := e.raw
    c.toNat / 2 ^ 51 % 4 ≠ 3 → Claims.LaneCells s e false (Claims.inPass s.build e p) cells fun n old =>
      vcvtLane (c.toNat / 2 ^ 49 % 4) (c.toNat / 2 ^ 51 % 4) (bitAt c 53) (c.toNat / 2 ^ 54 % 8)
        (srBits (c.extractLsb' 64 64) n 0) (s.lane (cVa c) n) old) ∧
  Claims.LaneOp .vrcp 0x10 0 8 (fun _ a _ _ => transLane 0 a) ∧
  Claims.LaneOp .vrsqrt 0x10 1 8 (fun _ a _ _ => transLane 1 a) ∧
  Claims.LaneOp .vexp2 0x10 2 8 (fun _ a _ _ => transLane 2 a) ∧
  Claims.LaneOp .vlog2 0x10 3 8 (fun _ a _ _ => transLane 3 a) ∧ Claims.ResultsReach

/-- The transcendentals' values at the operands that R94 names. -/
def Obligations.TranscendentalCases : Prop :=
  ∀ (s : State) (e : QEntry) (n fn : Nat), n < s.build.vlen → n < e.vl → s.active e.raw n = true → fn < 4 →
    Claims.starting s e 0x10 fn →
    let x := s.lane (cVa e.raw) n
    ∃ run cells, exec (if fn = 0 then .vrcp else if fn = 1 then .vrsqrt else if fn = 2 then .vexp2 else .vlog2) s =
      .next (Claims.started s e run [⟨s.now + 8, cells⟩]) ∧ ∀ u,
      let r := (putCells cells u).lane (cVd e.raw) n
      (x.toNat / 2 ^ 23 % 256 = 255 → x.toNat % 2 ^ 23 ≠ 0 → r = 0x7FC00000) ∧
      (fn = 0 → (x = 0 → r = 0x7F800000) ∧ (x = 0x80000000 → r = 0xFF800000) ∧ (x = 0x7F800000 → r = 0) ∧
        (x = 0xFF800000 → r = 0x80000000)) ∧
      (fn = 1 → (x = 0 → r = 0x7F800000) ∧ (x = 0x80000000 → r = 0xFF800000) ∧ (x = 0x7F800000 → r = 0) ∧
        (0x80800000 ≤ x.toNat → x.toNat ≤ 0xFF800000 → r = 0x7FC00000)) ∧
      (fn = 2 → (0x43000000 ≤ x.toNat → x.toNat ≤ 0x7F800000 → r = 0x7F800000) ∧
        (0xC2FC0000 < x.toNat → x.toNat ≤ 0xFF800000 → r = 0)) ∧
      (fn = 3 → (x = 0 ∨ x = 0x80000000 → r = 0xFF800000) ∧ (x = 0x7F800000 → r = 0x7F800000) ∧
        (0x80800000 ≤ x.toNat → x.toNat ≤ 0xFF800000 → r = 0x7FC00000) ∧
        (∀ k : Int, -126 ≤ k → k ≤ 127 → x.toNat = (k + 127).toNat * 2 ^ 23 →
          r.toNat = intToFp32 0 0 (BitVec.ofInt 32 k)))

/-- What VCMP writes of `n`, where it found `old` (R157). -/
def Claims.compared (s : State) (c : Cmd) (n : Nat) (old : Bool) : Bool :=
  let fn := cFn c
  let a := s.lane (cVa c) n
  let b := s.lane (cVb c) n
  let nan (x : BitVec 32) : Prop := x.toNat / 2 ^ 23 % 256 = 255 ∧ x.toNat % 2 ^ 23 ≠ 0
  let key (x : BitVec 32) : Int := if x.toNat / 2 ^ 23 % 256 = 0 then 0
    else if x.toNat / 2 ^ 31 = 1 then -(x.toNat % 2 ^ 31 : Nat) else x.toNat
  if s.active c n = false then (if s.clu.live ∧ bitAt c 22 then false else old)
  else if fn / 8 = 0 then
    decide (if fn = 6 then nan a ∨ nan b else if fn = 7 then ¬ (nan a ∨ nan b)
      else if nan a ∨ nan b then fn = 1
      else if fn = 0 then key a = key b else if fn = 1 then key a ≠ key b else if fn = 2 then key a < key b
      else if fn = 3 then key a ≤ key b else if fn = 4 then key b < key a else key b ≤ key a)
  else if fn / 8 = 1 then
    decide (if fn % 8 = 0 then a = b else if fn % 8 = 1 then a ≠ b else if fn % 8 = 2 then a.toInt < b.toInt
      else if fn % 8 = 3 then a.toInt ≤ b.toInt else if fn % 8 = 4 then b.toInt < a.toInt
      else fn % 8 = 5 ∧ b.toInt ≤ a.toInt)
  else
    decide (if fn % 8 = 0 then a = b else if fn % 8 = 1 then a ≠ b else if fn % 8 = 2 then a.toNat < b.toNat
      else if fn % 8 = 3 then a.toNat ≤ b.toNat else if fn % 8 = 4 then b.toNat < a.toNat
      else fn % 8 = 5 ∧ b.toNat ≤ a.toNat)

/-- The mask functions, and VCMP: the FP32 comparisons, where a NaN makes all but NE and UN false and zeros and
subnormals are equal, and the signed and unsigned ones; an inactive lane's bit keeps its value,
or is cleared by MZ in inspection mode. -/
def Obligations.VectorMasks : Prop :=
  Claims.MaskOp .kand 0 (· && ·) ∧ Claims.MaskOp .kor 1 (· || ·) ∧ Claims.MaskOp .kxor 2 (· != ·) ∧
  Claims.MaskOp .knot 3 (fun a _ => !a) ∧
  ∀ fn < 24, Claims.PassRow .vcmp 0x0C fn (fun _ => 4) fun s e p _ cells =>
    Claims.MaskCells s e p cells fun u n => Claims.compared s e.raw n (u.mask (e.raw.toNat / 2 ^ 23 % 8) n)

/-- A permute, of function `fn`: all its values are formed as its first pass issues, and each pass writes those of its own
lanes, `f` of a lane's number. -/
def Claims.PermRow (i : Instr) (fn : Nat) (all : Bool) (may : State → QEntry → Prop) (before : State → QEntry → State)
    (f : State → Cmd → Nat → Nat → BitVec 32) : Prop :=
  (∀ (s : State) (e : QEntry), Claims.starting s e 0x13 fn → e.vl ≤ 65536 → may s e → ∃ r cells,
    exec i s = .next (Claims.started (before s e) e r [⟨s.now + 6, cells⟩]) ∧
    r = ⟨e, .xnet, none, (e.vl + s.build.vlen - 1) / s.build.vlen, [s.now], [], [], [], r.out⟩ ∧
    Claims.LaneCells s e all (Claims.inPass s.build e 0) cells (fun n _ => f s e.raw e.vl n) ∧
    ∀ p, 0 < p → p < r.n → Claims.LaneCells s e all (Claims.inPass s.build e p)
      (r.out.filter fun x => x.key % 65536 / s.build.vlen == p) (fun n _ => f s e.raw e.vl n)) ∧
  (∀ (s : State) (k : Nat) (r : VRun), Claims.passDue s k r 0x13 fn → r.issued ≠ [] → ∃ r',
    lanePass k s = Claims.passed s k r'
      [⟨s.now + 6, r.out.filter fun x => x.key % 65536 / s.build.vlen == r.issued.length⟩] ∧
    r' = { r with issued := r.issued ++ [s.now], out := r'.out })

/-- Lanes of `e`, of which an active one has an index outside VL. -/
def Claims.permOob (s : State) (e : QEntry) (idx : Nat → Nat) : Nat :=
  ((List.range e.vl).filter fun n => s.active e.raw n && e.vl ≤ idx n).length

/-- `s` once a permute has counted its lanes out of range. -/
def Claims.permCounted (s : State) (n : Nat) : State :=
  if n = 0 then s else State.noteSet { s with vec := { s.vec with
    permOob := true, oobPerm := s.vec.oobPerm + BitVec.ofNat 32 n } } .vec 32

/-- The permutes: VPERM gathers lanes of Va by the indices in Vb, VBCAST copies one lane, VCOMPRESS packs the lanes that
K[KS] selects and fills with zero, VEXPAND spreads them. An index outside VL gives zero, and in normal service sets the
sticky flag and counts; in inspection mode it holds the engine before a lane is written. -/
def Obligations.VectorPermutes : Prop :=
  let sel (s : State) (c : Cmd) (n : Nat) : Bool := s.mask (c.toNat / 2 ^ 49 % 8) n
  let gather (s : State) (e : QEntry) (n : Nat) : Nat := (s.lane (cVb e.raw) n).toNat
  let one (e : QEntry) : Nat := e.raw.toNat / 2 ^ 49 % 2 ^ 16
  Claims.PermRow .vperm 0 false (fun s _ => s.clu.live = false)
    (fun s e => Claims.permCounted s (Claims.permOob s e (gather s e)))
    (fun s c vl n => if (s.lane (cVb c) n).toNat < vl then s.lane (cVa c) (s.lane (cVb c) n).toNat else 0) ∧
  Claims.PermRow .vperm 0 false (fun s e => s.clu.live = true ∧ ∀ n < e.vl, gather s e n < e.vl) (fun s _ => s)
    (fun s c _ n => s.lane (cVa c) (s.lane (cVb c) n).toNat) ∧
  Claims.PermRow .vbcast 1 false (fun s e => s.clu.live = false ∨ one e < e.vl)
    (fun s e => Claims.permCounted s (Claims.permOob s e fun _ => one e))
    (fun s c vl _ => if c.toNat / 2 ^ 49 % 2 ^ 16 < vl then s.lane (cVa c) (c.toNat / 2 ^ 49 % 2 ^ 16) else 0) ∧
  Claims.PermRow .vcompress 2 true (fun _ _ => True) (fun s _ => s) (fun s c vl n =>
    match ((List.range vl).filter (sel s c))[n]? with | some m => s.lane (cVa c) m | none => 0) ∧
  Claims.PermRow .vexpand 3 true (fun _ _ => True) (fun s _ => s) (fun s c _ n =>
    if sel s c n then s.lane (cVa c) ((List.range n).countP (sel s c)) else 0) ∧
  ∀ (s : State) (e : QEntry) (n : Nat), Claims.starting s e 0x13 0 → s.clu.live = true → n < e.vl → e.vl ≤ gather s e n →
    (∀ k < n, gather s e k < e.vl) →
    ∃ s', exec .vperm s = .next s' ∧ s'.vec = { s.vec with
        held := true, faultLane := BitVec.ofNat 16 n, faultCode := 1, faultInactive := !s.active e.raw n,
        faultSeq := BitVec.ofNat 32 e.seq } ∧
      s'.ush = s.ush ∧ s'.mem = s.mem ∧ (s'.hdrOf .vec).evt.toNat % 2 = 1 ∧
      (s'.hdrOf .vec).log.toNat % 256 = 0x1C

/-- The lanes from `lo` to `hi - 1` of Va that are active, in order. -/
def Claims.covered (s : State) (c : Cmd) (lo hi : Nat) : List (BitVec 32) :=
  ((List.range hi).filter fun j => decide (lo ≤ j) && s.active c j).map fun j => s.lane (cVa c) j

/-- Lane `j` starts a segment: lane 0, and under S each lane of the segment mask. -/
def Claims.segStart (s : State) (c : Cmd) (j : Nat) : Prop :=
  j = 0 ∨ (cFn c / 16 = 1 ∧ s.mask (c.toNat / 2 ^ 49 % 8) j = true)

/-- VSCAN gives each active lane the combination of the active lanes of its segment up to itself, without itself when
exclusive; VRED that of its whole segment, with its last pass. A segment starts at lane 0 and at each lane of the segment
mask. Sums of INT32 are modulo 2³². -/
def Obligations.VectorScans : Prop :=
  (∀ fn < 32, Claims.PassRow .vscan 0x11 fn (fun b => 11 + b.lanes.val) fun s e p src cells =>
    let c := e.raw
    ∃ g : Nat → BitVec 32, Claims.LaneCells s e false (Claims.inPass s.build e p) cells (fun n _ => g n) ∧
      (src = (List.range (p * s.build.vlen)).map (takeLane s c) →
        ∀ n, Claims.inPass s.build e p n = true → s.active c n = true →
        (fn = 1 → g n = (Claims.covered s c 0 (n + 1)).sum) ∧ (fn = 9 → g n = (Claims.covered s c 0 n).sum) ∧
        (∀ lo ≤ n, Claims.segStart s c lo → (∀ j, lo < j → j ≤ n → ¬ Claims.segStart s c j) →
          g n = scanCombine (fn % 8) (Claims.covered s c lo (if fn / 8 % 2 = 1 then n else n + 1))))) ∧
  (∀ (s : State) (e : QEntry) (fn : Nat), Claims.starting s e 0x12 fn → 0 < e.vl → e.vl ≤ 65536 →
    let c := e.raw
    ∃ (r : VRun) (cells : List VCell) (g : Nat → BitVec 32), exec .vred s = .next (Claims.started s e r
        (if e.vl ≤ s.build.vlen then [⟨s.now + 11 + s.build.lanes.val, cells⟩] else [])) ∧
      (s.build.vlen < e.vl → r.out = cells) ∧
      r = { r with
        e := e, unit := .xnet, job := none, n := (e.vl + s.build.vlen - 1) / s.build.vlen, issued := [s.now], done := [],
        fall := [] } ∧
      Claims.LaneCells s e false (fun n => n < e.vl) cells (fun n _ => g n) ∧ ∀ n < e.vl, s.active c n = true →
        (fn = 1 → g n = (Claims.covered s c 0 e.vl).sum) ∧
        (∀ lo ≤ n, ∀ hi > n, Claims.segStart s c lo → (∀ j, lo < j → j < hi → ¬ Claims.segStart s c j) →
          (hi = e.vl ∨ (hi < e.vl ∧ Claims.segStart s c hi)) → g n = scanCombine (fn % 8) (Claims.covered s c lo hi))) ∧
  (∀ (s : State) (k : Nat) (r : VRun) (fn : Nat), Claims.passDue s k r 0x12 fn → r.issued ≠ [] → ∃ r',
    lanePass k s = Claims.passed s k r' (if r.issued.length + 1 = r.n then [⟨s.now + 11 + s.build.lanes.val, r.out⟩] else []) ∧
    r' = { r with issued := r.issued ++ [s.now], out := r'.out })

/-- A vector load that starts takes its entries, and each of its passes requests the bytes of its lanes: VLD its lanes'
elements, VLD.MX elements and scales, VLDX the element of each active lane, its indices inside the window. No register
changes before the data has arrived; then each active lane of the pass has its element, and with the last pass the load
signals and releases its entries. -/
def Obligations.VectorLoads : Prop :=
  let asks (e : QEntry) (lines : State → List Nat → List (Nat × Nat)) (s : State) (p : Nat) (es : List Nat)
      (new : List LineReq) : Prop :=
    new.map (fun q => (q.addr, q.len)) = lines s (Claims.lanesOf s.build e.vl p) ∧
      ∀ q ∈ new, q.wr = none ∧ q.tag / 2 = p ∧ q.entry = es[q.tag % 2]?
  Claims.MemRow .vld 0x14 loadArrived (fun _ e => 32 ∣ e.vl) (fun s e => asks e (fun _ l =>
    let b := mfmtBits (vmFmt e.raw)
    lineChunks (vmBase e.raw + l.headD 0 * b / 8) (l.length * b / 8)) s) ∧
  Claims.MemRow .vldMx 0x16 loadArrived (fun _ e => 32 ∣ e.vl) (fun s e => asks e (fun _ l =>
    let b := fmtBits (vmFmt e.raw)
    lineChunks (vmBase e.raw + l.headD 0 * b / 8) (l.length * b / 8) ++
      lineChunks (vmSbase e.raw + l.headD 0 / 32) (l.length / 32)) s) ∧
  Claims.MemRow .vldx 0x18 loadArrived
    (fun s e => (∀ n < e.vl, (s.lane (cVa e.raw) n).toNat < vmWindow e.raw) ∧
      (s.clu.live = true → passOk s.build s.vec.runs e true 0 s.now = true))
    (fun s e => asks e (fun s l => (l.filter fun n => s.active e.raw n).flatMap fun n =>
      lineChunks (vmBase e.raw + (s.lane (cVa e.raw) n).toNat * Claims.elemBytes e.raw) (Claims.elemBytes e.raw)) s) ∧
  ∀ (s : State) (e : QEntry) (j : Job) (r : VRun), s.job? j.id = some j → s.vec.runs = [r] → r.job = some j.id → r.e = e →
    r.n = 1 → r.issued.length = 1 → r.done = [] → s.passInFlight j.id 0 = false → j.voided = false → e.vl ≤ s.build.vlen →
    cOpc e.raw = 0x14 → vmFmt e.raw = 0 → r.src = (List.range e.vl).map (takeLane s e.raw) →
    let word (n : Nat) : BitVec 32 := BitVec.ofNat 32 (leNat (bufBytes j.buf (vmBase e.raw + 4 * n) 4))
    let t := loadArrived j.id s
    t.vec.runs = [] ∧ t.vec.k = s.vec.k ∧ t.mem = s.mem ∧
      (∀ q < 32, ∀ n < 65536, t.lane q n = if q = cVd e.raw ∧ n < e.vl then
          (if s.active e.raw n = true then word n else if s.clu.live ∧ bitAt e.raw 22 then 0 else s.lane q n)
        else s.lane q n) ∧
      (∀ x ∈ t.jobs, x.id ≠ j.id) ∧ (∀ x ∈ t.range, x.id ∈ j.entries → x.live = false)

/-- A vector store that starts takes its entries, and each of its passes requests the bytes of its active lanes, each lane's
element at its place: in lane order for VST, at its index for VSTX, where of two lanes with one index the higher goes, and
with the block's scale for VST.MX. Memory changes only as banks grant; a store that requests nothing ends at once. -/
def Obligations.VectorStores : Prop :=
  let bytes (s : State) (e : QEntry) (n : Nat) : List (BitVec 8) :=
    leBytes (storeLane (vmFmt e.raw) (storeRm e.raw) (srBits e.seed n 0) (s.lane (cVd e.raw) n)) (Claims.elemBytes e.raw)
  let stores (e : QEntry) (cells : State → List Nat → List Host.Cell) (s : State) (p : Nat) (es : List Nat)
      (new : List LineReq) : Prop :=
    (new.flatMap fun q => q.wr.getD []) = cells s (Claims.lanesOf s.build e.vl p) ∧
      ∀ q ∈ new, q.wr.isSome = true ∧ q.entry = es[q.tag % 2]?
  Claims.MemRow .vst 0x15 storeDone (fun _ e => 32 ∣ e.vl) (fun s e => stores e (fun s l =>
    (l.filter fun n => s.active e.raw n).flatMap fun n =>
      cellsAt (vmBase e.raw + n * Claims.elemBytes e.raw) (bytes s e n)) s) ∧
  Claims.MemRow .vstMx 0x17 storeDone (fun _ e => 32 ∣ e.vl) (fun s e => stores e (fun s l =>
    let o := l.headD 0 * fmtBits (vmFmt e.raw) / 8
    ((List.range (l.length * fmtBits (vmFmt e.raw) / 8)).filterMap fun k =>
        (mxByte s e (o + k)).map fun x => (vmBase e.raw + o + k, x)) ++
      ((List.range (l.length / 32)).filterMap fun k =>
        let b := l.headD 0 / 32 + k
        let act := ((List.range 32).map (32 * b + ·)).filter fun n => s.active e.raw n
        if act = [] then none
        else some (vmSbase e.raw + b,
          BitVec.ofNat 8 (mxScale (vmFmt e.raw) (act.map fun n => fpIn fp32 (s.lane (cVd e.raw) n).toNat))))) s) ∧
  Claims.MemRow .vstx 0x19 storeDone
    (fun s e => (∀ n < e.vl, (s.lane (cVa e.raw) n).toNat < vmWindow e.raw) ∧
      (s.clu.live = true → passOk s.build s.vec.runs e true 0 s.now = true))
    (fun s e => stores e (fun s l =>
      let act := l.filter fun n => s.active e.raw n
      (act.filter fun n => !(act.any fun k => n < k && s.lane (cVa e.raw) k == s.lane (cVa e.raw) n)).flatMap fun n =>
        cellsAt (vmBase e.raw + (s.lane (cVa e.raw) n).toNat * Claims.elemBytes e.raw) (bytes s e n)) s) ∧
  ∀ (s : State) (j : Job), s.job? j.id = some j → j.left = 0 → j.voided = false → (∀ r ∈ s.vec.runs, r.job ≠ some j.id) →
    storeDone j.id s = signalOpt j.sig (dropJob j.id (releaseAll j.entries true s))

/-- The 512 cells that cycle `t` of the VACC.RD `c` brings: they reach the lanes of Vd from 512 × (PART + t) on (R167). -/
def Claims.ReadCells (s : State) (c : Cmd) (t : Nat) (cells : List VCell) : Prop :=
  let n := c.toNat
  let a : Fin 2 := Fin.ofNat 2 (n / 2 ^ 19 % 2)
  let b : Fin 2 := Fin.ofNat 2 (n / 2 ^ 20 % 2)
  let lo := 512 * (n / 2 ^ 36 % 128 + t)
  ∀ u : State, (putCells cells u).vec.k = u.vec.k ∧ ∀ r < 32, ∀ k < 65536,
    (putCells cells u).lane r k = if r = n / 2 ^ 31 % 32 ∧ lo ≤ k ∧ k < lo + 512
      then Claims.cell s a b (4 * (n / 2 ^ 21 % 32) + 4 * t) (k - lo) else u.lane r k

/-- VACC.RD copies rows of a bank into a V register, four rows of 128 cells in each of its cycles, which busies the bank and
the readout path. VCFG sets VL. A RETRY frees the held engine; a DISCARD drops the held command too. -/
def Obligations.VectorControl : Prop :=
  ∀ (s : State) (e : QEntry),
    let c := e.raw.toNat
    let a : Fin 2 := Fin.ofNat 2 (c / 2 ^ 19 % 2)
    let b : Fin 2 := Fin.ofNat 2 (c / 2 ^ 20 % 2)
    let n := c / 2 ^ 26 % 32 + 1
    let read : Vector Opa 2 := s.opa.set a { s.opa[a] with
      banks := s.opa[a].banks.set b { s.opa[a].banks[b] with readUntil := s.now } }
    c / 2 ^ 36 % 128 + n ≤ 128 →
    (s.vecHead = some e → cOpc e.raw = 0x1A → s.readoutReady a b e.seq = true → s.passReady e = true →
      ∃ cells, Claims.ReadCells s e.raw 0 cells ∧
        exec .vaccRd s = .next { popQueue 3 s with
          opa := read,
          vec := { s.vec with
            startedAt := s.now + 1, lastVl := e.vl, rdCyc := s.vec.rdCyc + 1,
            runs := s.vec.runs ++ [⟨e, .readout, none, n, [s.now], [], [], [], []⟩],
            writes := s.vec.writes ++ [⟨s.now + 1, cells⟩] } }) ∧
    (∀ k r, s.vec.runs[k]? = some r → r.e = e → r.unit = .readout → r.n = n → r.issued.length < n → r.due s.now = true →
      s.runHeld k r = false → ∃ cells, Claims.ReadCells s e.raw r.issued.length cells ∧
        lanePass k s = { s with
          opa := read,
          vec := { s.vec with
            rdCyc := s.vec.rdCyc + 1, runs := s.vec.runs.set k { r with issued := r.issued ++ [s.now] },
            writes := s.vec.writes ++ [⟨s.now + 1, cells⟩] } }) ∧
    (s.vecHead = some e → cOpc e.raw = 0x1B →
      let vl := (c / 2 ^ 19 % 2048 + 1) * 32
      exec .vcfg s = .next (signalOpt (cSig e.raw)
        { popQueue 3 s with vec := { s.vec with startedAt := s.now + 1, lastVl := vl, vl := vl } })) ∧
    (∀ o v, Claims.writes o .vec 0x40 s → (s.vec.held = true ∨ s.vec.heldFlt = true) →
      (v.toNat / 2 ^ 9 % 2 = 0 → exec (.vecRetry o v) s =
        .next (Claims.answered o .vec { s with vec := { s.vec with held := false, heldFlt := false } })) ∧
      ((s.queue 3).cmds.head? = some e →
        ∃ s', exec (.vecDiscard o v) s = .next s' ∧ (s'.queue 3).cmds = (s.queue 3).cmds.drop 1 ∧
          s'.vec = { s.vec with held := false, heldFlt := false } ∧ s'.mem = s.mem ∧
          ∀ x ∈ s'.range, x.id ∈ e.entries → x.live = false))

/-! ## Flights and Treads -/

/-- A Flight that starts reads its first 512 positions in that cycle: it leaves the queue, holds the values of a readout or a
register, and requests the elements that a memory source has there. -/
def Claims.FlightStarts : Prop :=
  ∀ (s : State) (e : QEntry), s.vecHead = some e → cOpc e.raw = 0x1E → s.flightReady e = true →
    let c := e.raw
    let u := takeAtStart .vec e.operands e.entries s
    let es := cyclePos c e.cap e.vl 0
    let m := capRec e.cap 4
    (∀ i < goNstg c, stKind (capStage e.cap i) = 0x1F → s.flt.treads.get (stProg (capStage e.cap i)).val ≠ 0) →
    treadOver s c e.cap = none → narrowsInt s c e.cap = false →
    ∃ s', exec .fltGo s = .next s' ∧
      (∃ j, s'.jobs.getLast? = some j ∧ j.id = u.2.nextId ∧ j.kind = .flight e false ∧ j.entries = u.1 ∧ j.sig = cSig c ∧
        j.buf = sourceCells s c es) ∧
      (∃ new, s'.reqs = s.reqs ++ new ∧ (∀ q ∈ new, q.job = u.2.nextId ∧ q.unit = .vec ∧ q.wr = none ∧ q.tag < 2) ∧
        (usesM1 c e.cap = false → new.map (fun q => (q.addr, q.len)) = if goSrc c ≠ 2 then [] else
          (runsOf c es).flatMap fun x => lineChunks
            (arBase m + x.1 * arStride m + x.2.1 * fmtBits (arTap m) / 8) (x.2.2 * fmtBits (arTap m) / 8))) ∧
      (goSrc c ≠ 0 → s'.opa = s.opa) ∧
      s' = { popQueue 3 u.2 with
        reqs := s'.reqs, jobs := s'.jobs, nextId := s'.nextId, opa := s'.opa,
        flt := { s.flt with lastDef := BitVec.ofNat 4 (c.toNat / 2 ^ 19) },
        vec := { s.vec with
          startedAt := s.now + 1, lastVl := e.vl, rdCyc := s.vec.rdCyc + (if goSrc c = 0 then 1 else 0),
          runs := s.vec.runs ++
            [⟨e, .flight, some u.2.nextId, (goCount c e.vl + 511) / 512, [s.now], [], [s.now], [], []⟩] } }

/-- The next read cycle of a Flight, while none of its values leave: it takes the values of the next positions. -/
def Claims.FlightReads : Prop :=
  ∀ (s : State) (i : Nat) (r : VRun) (j : Job), s.vec.runs[i]? = some r → r.unit = .flight → r.job = some j.id →
    s.job? j.id = some j → s.valuesLeave j.id r = false → s.flightDue j.id r = true →
    let c := r.e.raw
    let es := cyclePos c r.e.cap r.e.vl r.issued.length
    let s' := flightTurn i s
    s'.mem = s.mem ∧ s'.vec.v = s.vec.v ∧ s'.vec.k = s.vec.k ∧ s'.flt = s.flt ∧ s'.tile = s.tile ∧ s'.ush = s.ush ∧
    (∀ x, s'.job? j.id = some x → x.buf = j.buf ++ sourceCells s c es) ∧
    (goSrc c ≠ 2 → usesM1 c r.e.cap = false → s'.reqs = s.reqs) ∧
    s'.vec.runs = s.vec.runs.set i { r with
      issued := r.issued ++ [s.now],
      fall := r.fall ++ [match r.fall.getLast? with | some x => max s.now (x + 1) | none => s.now] }

/-- FLT.STG and FLT.ADR write a stage entry and an address record. A Flight that nothing refuses starts to read; TRD.LOAD
requests its image of 192 bytes. A loaded image becomes the slot's program. A Flight whose writes have all completed ends with
its signal. -/
def Obligations.FlightCommands : Prop :=
  Claims.FlightStarts ∧ Claims.FlightReads ∧
  ∀ (s : State) (e : QEntry), s.vecHead = some e →
    let c := e.raw
    let n := c.toNat
    let started := { popQueue 3 s with vec := { s.vec with startedAt := s.now + 1, lastVl := e.vl } }
    let u := takeAtStart .vec e.operands e.entries s
    (cOpc c = 0x1C → exec .fltStg s = .next (signalOpt (cSig c)
      { started with flt := { s.flt with defs := s.flt.defs.set (8 * (n / 2 ^ 19 % 16) + n / 2 ^ 23 % 8) c } })) ∧
    (cOpc c = 0x1D → exec .fltAdr s = .next (signalOpt (cSig c)
      { started with flt := { s.flt with recs := s.flt.recs.set (n / 2 ^ 19 % 8) c } })) ∧
    (cOpc c = 0x1F → canTake s e.operands = true → s.flightNames (n / 2 ^ 19 % 64) = false →
      s.loadingProg (Fin.ofNat 64 (n / 2 ^ 19 % 64)) = false →
      ∃ s', exec .trdLoad s = .next s' ∧
        (∃ new, s'.reqs = s.reqs ++ new ∧ new.map (fun q => (q.addr, q.len)) = lineChunks (vmBase c) 192 ∧
          ∀ q ∈ new, q.job = u.2.nextId ∧ q.unit = .vec ∧ q.wr = none) ∧
        s' = { popQueue 3 u.2 with
          vec := started.vec, reqs := s'.reqs, jobs := s'.jobs, nextId := s'.nextId }) ∧
    (∀ j, s.clocked = true →
      s.jobs.find? (fun j => (match j.kind with | .flight _ true => true | _ => false) && j.left == 0 && j.due ≤ s.now) =
        some j → j.bad = none → j.voided = false →
      exec .flightComplete s = .next (signalOpt j.sig (dropJob j.id (releaseAll j.entries true s)))) ∧
    (∀ (p : Fin 64) j x, s.clocked = true →
      s.jobs.find? (fun j => j.left == 0 && match j.kind with | .tread e => fld e.raw 19 6 == p.val | _ => false) = some j →
      j.kind = .tread x → j.voided = false →
      let img : Tread := BitVec.ofNat 1536 (leNat (bufBytes j.buf (vmBase x.raw) 192))
      treadBad img = false →
      exec (.treadProgramLoaded p) s = .next (signalOpt j.sig (dropJob j.id (releaseAll j.entries true
        { s with flt := { s.flt with treads := s.flt.treads.set p.val img } }))))

/-- The values of a read cycle leave a Flight no earlier than FLT.DEPTH after it. They then request exactly the bytes of their
destinations, each element in the format of its tap at its record's row and column, with the scale bytes of the block-scaled
ones; of a position from a failed read on nothing is written. FLT_ELEMS counts the others. -/
def Obligations.FlightWrites : Prop :=
  ∀ (s : State) (j : Job) (r : VRun), s.job? j.id = some j →
    let c := r.e.raw
    let cap := r.e.cap
    let es := cyclePos c cap r.e.vl r.done.length
    let lim := j.bad.getD (goCount c r.e.vl)
    let t := leaveFlight j r s
    (s.valuesLeave j.id r = true → ∃ x, r.fall[r.done.length]? = some x ∧ x + s.flightDepth c cap ≤ s.now) ∧
    ∃ new, t.reqs = s.reqs ++ new ∧
      (new.flatMap fun q => q.wr.getD []).Perm ((destRecs cap).flatMap fun d =>
        destCells s c cap j.buf r.e.vl lim d es ++
          (if fmtMx (destFmt cap d) then scaleCells s c cap j.buf lim d es else [])) ∧
      (∀ q ∈ new, q.job = j.id ∧ q.unit = .vec ∧ ∃ k : Nat, q.entry = j.entries[k]?) ∧
      t = { s with
        reqs := t.reqs, jobs := t.jobs, nextId := t.nextId, energy := t.energy,
        flt := { s.flt with elems := s.flt.elems + BitVec.ofNat 48 (es.filter (· < lim)).length } }

/-! ## Streams -/

/-- STRM.CFG on an IDLE context with nothing pending configures it; the engine's next command starts in a later cycle.
STRM.ARM makes its generation active on an IDLE context and behind one whose LAST descriptor has started, pending on another
that has none pending, and is else dropped, counted and flagged. STRM.CANCEL signals at once on an IDLE context and else
withdraws its walk; a context whose cancel has nothing left in flight becomes IDLE and signals. -/
def Obligations.StreamCommands : Prop :=
  ∀ (n : Fin 4) (s : State) (e : QEntry),
    let w := e.raw.toNat
    let c : Fin 4 := Fin.ofNat 4 (w / 2 ^ 19 % 4)
    let x := s.ctx n c
    let list := w / 2 ^ 21 % 2 ^ 32
    let last := x.st = .active ∧ ∃ g, x.gen = some g ∧ g.lastSeen = true
    let g : Gen := ⟨cSig e.raw, e.thread, list, none, none, false, 0, e.seq⟩
    s.strm[n].cfgAt ≠ s.now + 1 →
    (s.head? (strmQ n) = some e → cOpc e.raw = 0x07 → x.st = .idle → x.pend = none →
      exec (.strmCfg n) s = .next (signalOpt (cSig e.raw) (popQueue (strmQ n)
        (modStrm n (fun y => { y with cfgAt := s.now + 1 }) (modCtx n c (fun x => { x with
          lookahead := BitVec.ofNat 4 (w / 2 ^ 21), link := w / 2 ^ 25 % 2 = 1, fillEn := w / 2 ^ 26 % 2 = 1,
          fill := BitVec.ofNat 13 (w / 2 ^ 27), free := BitVec.ofNat 13 (w / 2 ^ 40) }) s))))) ∧
    (s.head? (strmQ n) = some e → cOpc e.raw = 0x08 →
      (x.st = .idle → exec (.strmArm n) s = .next (modCtx n c (fun x => { x with
        st := .active, gen := some { g with fetch := some (list, s.now + 6, none) }, d := 0,
        b := syncGet s x.free.toNat }) (popQueue (strmQ n) s))) ∧
      (last → exec (.strmArm n) s = .next (modCtx n c (fun x => { x with
        gen := some { g with fetch := some (list, s.now + 1, none) } }) (popQueue (strmQ n) s))) ∧
      (x.st ≠ .idle → ¬ last → x.pend = none →
        exec (.strmArm n) s = .next (modCtx n c (fun x => { x with pend := some g }) (popQueue (strmQ n) s))) ∧
      (x.st ≠ .idle → ¬ last → x.pend ≠ none →
        exec (.strmArm n) s = .next (modStrm n (fun y => { y with rearm := y.rearm + 1 })
          (countEvt (Page.strm n) 0 (popQueue (strmQ n) s))))) ∧
    (s.head? (strmQ n) = some e → cOpc e.raw = 0x09 →
      (x.st = .idle → exec (.strmCancel n) s = .next (signalOpt (cSig e.raw) (popQueue (strmQ n) s))) ∧
      (x.st ≠ .idle → ∃ s', exec (.strmCancel n) s = .next s' ∧
        (s'.ctx n c).st = .cancelling ∧ (s'.ctx n c).gen = none ∧ (s'.ctx n c).pend = none ∧
        (s'.ctx n c).cancelSigs = x.cancelSigs ++ (cSig e.raw).toList ∧ s'.mem = s.mem ∧ s'.sync = s.sync)) ∧
    (∀ k, (s.ctx n k).st = .cancelling → (s.ctx n k).tiles = [] → (s.ctx n k).pend = none →
      exec (.cancelComplete n k) s = .next ((s.ctx n k).cancelSigs.foldl (fun s sig => signal sig.toNat s)
        (modCtx n k (fun x => { x with st := .idle, cancelSigs := [] }) s)))

/-- Context `c` of engine `n` starts the descriptor `d`, which stands at `addr`: it is the next of the generation `g`, no
context before it in the rotation can go, and the lookahead and the slot tags allow it. -/
def Claims.descStarts (s : State) (n c : Fin 4) (g : Gen) (addr : Nat) (d : Desc) : Prop :=
  (s.ctx n c).gen = some g ∧ (s.ctx n c).nextDesc? = some (addr, d) ∧ s.mayIssue = true ∧ s.strm[n].descAt ≠ s.now + 1 ∧
    (∀ k ∈ s.ctxOrder.takeWhile (· ≠ c), s.descGo n k = .no) ∧ s.descGo n c = .start

/-- `s` after engine `n` has started a descriptor of context `c` in this cycle. -/
def Claims.descMark (n c : Fin 4) (s : State) : State :=
  modStrm n (fun y => { y with descAt := s.now + 1, descCtx := c }) s

/-- The row `i` of tiles of kind `k` completes: the tile counts, joins its context's list with the entries of its local
ranges, and requests its index array; its rows follow as they can be issued. A LAST descriptor ends the walk, and a block read
on its way for it is given up. -/
def Claims.TileStarts (i : Fin 4 → Fin 4 → Instr) (k : Nat) : Prop :=
  ∀ (n c : Fin 4) (s : State) (g : Gen) (addr : Nat) (d : Desc), Claims.descStarts s n c g addr d → dKind d = k →
    (∀ b at_ id, g.fetch = some (b, at_, some id) → id < s.nextId) →
    let u := takeAtStart (.strm n) (dRanges d) [] (Claims.descMark n c s)
    ∃ t, exec (i n c) s = .next (settleTile u.2.nextId t) ∧
      (t.ctx n c).d = (s.ctx n c).d + 1 ∧
      (t.ctx n c).tiles.map (fun x => (x.job, x.desc)) = (s.ctx n c).tiles.map (fun x => (x.job, x.desc)) ++ [(u.2.nextId, d)] ∧
      (∃ j, t.jobs.getLast? = some j ∧ j.id = u.2.nextId ∧ j.kind = .tile n c d addr ∧ j.entries = u.1 ∧ j.sig = dSig d ∧
        j.next = 0) ∧
      (∃ new, t.reqs = (if dLast d then (dropBlock g s).reqs else s.reqs) ++ new ∧
        new.map (fun q => (q.addr, q.len)) = (if k = 1 then [] else lineChunks (dIdxAddr d) (4 * dRows d)) ∧
        ∀ q ∈ new, q.job = u.2.nextId ∧ q.unit = .strm n ∧ q.wr = none ∧ q.tag = 1) ∧
      t.mem = s.mem ∧ t.vec = s.vec ∧ t.tile = s.tile ∧ t.opa = s.opa ∧ t.fab = s.fab ∧ t.gal = s.gal ∧
      (∀ m k, (m, k) ≠ (n, c) → t.ctx m k = s.ctx m k)

/-- COPY, GATHER and SCATTER start their tiles; NOP only passes; JUMP goes on with the block at its target. -/
def Obligations.StreamDescriptors : Prop :=
  Claims.TileStarts .descCopy 1 ∧ Claims.TileStarts .descGather 2 ∧ Claims.TileStarts .descScatter 3 ∧
  ∀ (n c : Fin 4) (s : State) (g : Gen) (addr : Nat) (d : Desc), Claims.descStarts s n c g addr d →
    (dKind d = 0 → dLast d = false → ∃ s' f, exec (.descNop n c) s = .next s' ∧
      s' = modCtx n c (fun x => { x with gen := some { g with next := g.next + 64, fetch := f } }) (Claims.descMark n c s) ∧
      (∀ b ds, g.block = some (b, ds) → f = if (g.next - b) / 64 % 16 = 8
        then some (b + 64 * ((g.next - b) / 64 + 8), s.now, none) else g.fetch)) ∧
    (dKind d = 15 → exec (.descJump n c) s = .next (modCtx n c (fun x => { x with
      gen := some { g with next := dSrc d, block := none, fetch := some (dSrc d, s.now, none) } })
        (dropBlock g (Claims.descMark n c s)))) ∧
    (dKind d = 0 → dLast d = true → (s.ctx n c).pend = none → (s.ctx n c).tiles = [] →
      exec (.descNop n c) s = .next (modCtx n c (fun x => { x with st := .idle, gen := none })
        (signalOpt g.sig (modCtx n c (fun x => { x with gens := x.gens + 1 }) (dropBlock g (Claims.descMark n c s))))))

/-- A descriptor block takes a range entry and requests its 1,024 bytes when its fetch falls due; it is usable STRM.DESC cycles
later once they have been read, with the 16 descriptors they hold. A tile all of whose rows have arrived signals once every
tile before it has: its own signal, the FILL of its context, and the generation's with the last. RESUME of a HELD context makes
it ACTIVE again and starts the tile that a fault stopped from its first row; DISCARD cancels it. -/
def Obligations.StreamProgress : Prop :=
  ∀ (n c : Fin 4) (s : State),
    let x := s.ctx n c
    (∀ g b at_, x.gen = some g → g.fetch = some (b, at_, none) → x.st = .active → at_ ≤ s.now → s.rangeFull = false →
      s.isBubble = false →
      let s' := requestBlock n c s
      s'.range = s.range ++ [⟨s.nextId, b, b + 1023, false, .strm n, none, true⟩] ∧
        (∃ new, s'.reqs = s.reqs ++ new ∧ new.map (fun q => (q.addr, q.len)) = lineChunks b 1024 ∧
          ∀ q ∈ new, q.job = s.nextId + 1 ∧ q.unit = .strm n ∧ q.entry = some s.nextId ∧ q.wr = none) ∧
        s'.strm = (modCtx n c (fun x => { x with gen := some { g with fetch := some (b, s.now, some (s.nextId + 1)) } }) s).strm ∧
        s'.mem = s.mem) ∧
    (∀ g base k id j, x.gen = some g → g.fetch = some (base, k, some id) → s.job? id = some j → j.left = 0 → k + 12 ≤ s.now →
      s.clocked = true →
      let ds := (List.range 16).map fun i => BitVec.ofNat 512 (leNat (bufBytes j.buf (base + 64 * i) 64))
      ∃ b, exec (.descBlockUsable n c) s = .next (dropJob id
          (modCtx n c (fun x => { x with gen := some { g with block := some b, fetch := none } }) s)) ∧
        (g.block = none → b = (base, ds)) ∧
        (∀ a old, g.block = some (a, old) → b = if base = a + 64 * old.length then (a, old ++ ds) else (base, ds))) ∧
    (∀ t j, x.tiles = [t] → s.tileArrived t = true → x.holds t.job = false → x.st ≠ .cancelling → s.job? t.job = some j →
      exec (.streamTileComplete n c) s = .next (idleCtx n c
        (modCtx n c (fun x => { x with tiles := [], gens := if t.lastOfGen then x.gens + 1 else x.gens })
          (signalOpt t.armSig (signalOpt (if dFill t.desc then some x.fill else none)
            (signalOpt (dSig t.desc) (modCtx n c (fun x => { x with tiles := [{ t with complete := true }] })
              (dropJob t.job (releaseAll j.entries true s))))))))) ∧
    (∀ t y j, x.tiles = [y, t] → y.complete = false → s.tileArrived y = false → s.tileArrived t = true → x.holds t.job = false →
      y.job ≠ t.job →
      x.st ≠ .cancelling → s.job? t.job = some j →
      exec (.streamTileComplete n c) s = .next (modCtx n c (fun x => { x with tiles := [y, { t with complete := true }] })
        (dropJob t.job (releaseAll j.entries true s)))) ∧
    (∀ (o : Originator) (v : BitVec 64), Claims.writes o (Page.strm n) 0x40 s → v.toNat % 4 = c.val → x.st = .held →
      (∀ g, x.gen = some g → g.lastSeen = false) →
      let active := modCtx n c (fun x => { x with st := .active, held := [] }) s
      ((∀ h ∈ x.held, h.1 = none) → exec (.strmResume o n v) s = .next (Claims.answered o (Page.strm n) active)) ∧
      (∀ id h j d a, x.held = [(some id, h)] → s.job? id = some j → j.kind = .tile n c d a → dKind d = 1 →
        let from0 := settleTile id (modJob id (fun j => { j with next := 0, buf := [], bad := none, sent := 0 }) active)
        (∀ g, (from0.ctx n c).gen = some g → g.lastSeen = false) →
        exec (.strmResume o n v) s = .next (Claims.answered o (Page.strm n) from0)) ∧
      (v.toNat / 2 ^ 8 % 2 = 0 → ∃ s', exec (.strmDiscard o n v) s = .next s' ∧
        (s'.ctx n c).st = .cancelling ∧ (s'.ctx n c).gen = none ∧ (s'.ctx n c).held = [] ∧ s'.mem = s.mem))

/-! ## The fabric port -/

/-- An inbound request that a window admits to memory reads, or writes, the lines its window maps it to; an atomic on a
sync object is performed and answered at once, unless the object has taken an operation in this cycle; a read of one sends its
count. A request that no window admits is refused and answered WINDOW. A packet without bytes changes nothing (the model's
choice, assumption 16). -/
def Obligations.FabricInbound : Prop :=
  ∀ (src : Identity) (tag : Nat) (a : BitVec 64) (s : State), s.fabAccepts = true →
    let off := a.toNat % 2 ^ 40
    (∀ n w x, 1 ≤ n → fabAdmit s src a n .rd none = .ok w → (s.window w).target? off = .mem x →
      ∃ s' new, exec (.fabRdReq src tag a n) s = .next s' ∧ s'.reqs = s.reqs ++ new ∧
        new.map (fun q => (q.addr, q.len)) = lineChunks x n ∧
        (∀ q ∈ new, q.job = s.nextId ∧ q.unit = .inbound ∧ q.entry = none ∧ q.wr = none) ∧
        (∃ j, s'.jobs.getLast? = some j ∧ j.id = s.nextId ∧ j.kind = .inRead .fab src tag x n w) ∧
        s' = { s with reqs := s'.reqs, jobs := s'.jobs, nextId := s'.nextId }) ∧
    (∀ w k, fabAdmit s src a 8 .rd none = .ok w → (s.window w).target? off = .obj k → a.toNat % 8 = 0 →
      ∃ img, exec (.fabRdReq src tag a 8) s = .next { s with
          freeIx := s.freeIx + 120, fab := { s.fab with remote := s.fab.remote ++ [⟨tag, img, 0⟩] } } ∧
        img.length = 128 ∧
        ∀ i < 8, img[a.toNat % 128 + i]? = some ((BitVec.ofNat 64 (syncGet s k).toNat).extractLsb' (8 * i) 8)) ∧
    (∀ bs adv w x, 1 ≤ bs.length → (∀ v, adv = some v → v.packets = true → s.fabFeature 18 = true) →
      fabAdmit s src a bs.length .wr adv = .ok w → (s.window w).target? off = .mem x →
      ∃ s' new, exec (.fabWr src tag a bs adv) s = .next s' ∧ s'.reqs = s.reqs ++ new ∧
        (new.flatMap fun q => q.wr.getD []) = cellsAt x bs ∧
        (∀ q ∈ new, q.job = s.nextId ∧ q.unit = .inbound ∧ q.entry = none ∧ q.wr.isSome = true) ∧
        s' = { s with
          reqs := s'.reqs, jobs := s'.jobs, nextId := s'.nextId, energy := s'.energy,
          fab := { s.fab with received := s.fab.received + BitVec.ofNat 32 (lineChunks a.toNat bs.length).length } }) ∧
    (∀ op b c home w x, (home = true ∨ s.fabFeature 17 = true) → fabAdmit s src a 8 .atom none = .ok w →
      (s.window w).target? off = .mem x → op ≠ .qput → x % 8 = 0 →
      ∃ s' new, exec (.fabAtomReq src tag a ⟨op, home⟩ b c) s = .next s' ∧ s'.reqs = s.reqs ++ new ∧
        new.map (fun q => (q.addr, q.len)) = lineChunks x 8 ∧
        (∃ j, s'.jobs.getLast? = some j ∧ j.id = s.nextId ∧ j.kind = .inAtom src tag ⟨0, 0, a, op, b, c, .fb, home⟩ w) ∧
        s' = { s with reqs := s'.reqs, jobs := s'.jobs, nextId := s'.nextId }) ∧
    (∀ b c w k, s.fabFeature 17 = true → fabAdmit s src a 8 .atom none = .ok w → (s.window w).target? off = .obj k →
      let old := syncBase s k
      let v := old + BitVec.ofNat 32 b.toNat + syncAdded s k
      (k ∉ s.sync.taken → exec (.fabAtomReq src tag a ⟨.add, false⟩ b c) s = .next { s with
        sync := { s.sync with counts := s.sync.counts.set k v, taken := k :: s.sync.taken },
        ush := { s.ush with threads := s.ush.threads.map (Thread.noteSync s.now k v) },
        fab := { s.fab with tx := s.fab.tx ++ [.atomRsp tag (BitVec.ofNat 64 old.toNat)] } }) ∧
      (k ∈ s.sync.taken → ∃ s', exec (.fabAtomReq src tag a ⟨.add, false⟩ b c) s = .next s' ∧
        (∃ j, s'.jobs.getLast? = some j ∧ j.kind = .syncOp k (.inAtom src tag .add b c w) ∧ j.due = s.now + 1) ∧
        s' = { s with jobs := s'.jobs, nextId := s.nextId + 1 })) ∧
    (∀ n r, 1 ≤ n → fabAdmit s src a n .rd none = .error r →
      ∃ s', exec (.fabRdReq src tag a n) s = .next s' ∧ s'.fab = { s.fab with tx := s.fab.tx ++ [.errRsp tag .window] } ∧
        s'.win.refused = s.win.refused + 1 ∧ s'.mem = s.mem ∧ s'.reqs = s.reqs ∧ s'.jobs = s.jobs) ∧
    exec (.fabRdReq src tag a 0) s = .next s ∧ (∀ adv, exec (.fabWr src tag a [] adv) s = .next s)

/-- A wheel slot sends the oldest transfer of its class: a read's request under the lowest free tag, the last line of a
write with its bytes; a remote slot sends the next line of the oldest response. A returned credit counts. -/
def Obligations.FabricSlots : Prop :=
  ∀ (s : State),
    let f := s.fab
    (s.clocked = true → f.link = .up → f.slotUsed = false →
      (∀ i x dst, s.wheelClass = 1 → s.wheelPick true = some (i, x) → x.kind = .read dst → x.sent = 0 → x.tag = none →
        x.done = false →
        ∃ s', exec .fabTransferIssue s = .next s' ∧
          s'.fab.tx = f.tx ++ [.rdReq s.freeTag.val x.addr x.len] ∧ s'.fab.slotUsed = true ∧
          s'.fab.xfers = (f.xfers.modify i fun y => { y with tag := some s.freeTag }).modify i (fun y => { y with sent := y.sent + 1 }) ∧
          s'.fab.credits = f.credits.set 0 (f.credits[0] - 1) ∧ s'.mem = s.mem ∧ s'.jobs = s.jobs) ∧
      (∀ i x m n k id src adv, s.wheelClass = 2 → f.rate = 0 → s.wheelPick false = some (i, x) → x.kind = .write src adv →
        x.holder = .strm n k id → x.tag = some m → x.done = false → s.fabLacks x = false → x.sent + 1 = x.slots →
        (∀ j, s.job? id = some j → exec .fabTransferIssue s = .next { s with
          energy := (s.spend .fabLine j.thread 1).energy, fab := { f with
            slotUsed := true, sent := f.sent + 1,
            xfers := f.xfers.modify i fun y => { y with sent := y.sent + 1 },
            tx := f.tx ++ [.wr m.val x.addr (bufBytes j.buf x.addr.toNat x.len) adv] } })) ∧
      (∀ r rest, s.wheelClass = 3 → f.remote = r :: rest → 0 < f.credits[2] → r.sent = 0 →
        exec .fabTransferIssue s = .next { s with energy := (s.spend .fabLine none 1).energy, fab := { f with
          slotUsed := true, sent := f.sent + 1, credits := f.credits.set 2 (f.credits[2] - 1),
          remote := if r.data.length ≤ 128 then rest else { r with sent := 1 } :: rest,
          tx := f.tx ++ [.rdRsp r.tag 0 (r.data.take 128)] } })) ∧
    exec (.fabCreditReturn .request) s = .next { s with fab := { f with credits := f.credits.set 0 (f.credits[0] + 1) } } ∧
    exec (.fabCreditReturn .write) s = .next { s with fab := { f with credits := f.credits.set 1 (f.credits[1] + 1) } } ∧
    exec (.fabCreditReturn .response) s = .next { s with fab := { f with credits := f.credits.set 2 (f.credits[2] + 1) } }

/-- Responses go to who sent the request: read data to its tile's destination, an acknowledgement counts a tile's bytes,
the old value of an atomic to its register; an error response counts, and raises FAB_ERR's precise fault at an atomic that
waits. A lost link is DOWN, job-fatal, and leaves no transfer outstanding. -/
def Obligations.FabricResponses : Prop :=
  (∀ s : State, s.fab.link = .up → s.alive = true → ∃ s', exec .fabLinkLoss s = .next s' ∧ s'.fab.link = .down ∧ s'.evt.valid = true ∧
    (s'.hdrOf .fab).evt.toNat % 2 = 1 ∧ s'.mem = s.mem ∧ ∀ y ∈ s'.fab.xfers, y.tag = none) ∧
  ∀ (tag : Fin 512) (s : State) (x : Xfer), s.xferOf tag = some x → s.alive = true →
    let fewer := s.fab.xfers.filter fun y => y.tag != some tag
    (∀ data dst n c id j d a, x.kind = .read dst → x.holder = .strm n c id → s.job? id = some j → j.kind = .tile n c d a →
      dDstKind d = 0 →
      ∃ t new, exec (.fabRdRsp tag data) s = .next (settleTile id t) ∧ t.reqs = s.reqs ++ new ∧
        (new.flatMap fun q => q.wr.getD []) =
          ((lineBytes x.addr.toNat x.len x.got data).flatMap fun b => cellsAt (dst + b.1) b.2) ∧
        (∀ q ∈ new, q.job = id ∧ q.wr.isSome = true) ∧
        (linesOf x.addr.toNat x.len ≤ x.got + data.length → x.slots ≤ x.sent → t.fab.xfers = fewer) ∧
        t = { s with reqs := t.reqs, jobs := t.jobs, nextId := t.nextId, energy := t.energy, fab := { s.fab with
          xfers := t.fab.xfers, received := s.fab.received + BitVec.ofNat 32 data.length } }) ∧
    (∀ n c id src adv, x.holder = .strm n c id → x.kind = .write src adv →
      exec (.fabWrAck tag) s = .next (settleTile id { s with
        fab := { s.fab with xfers := fewer },
        strm := s.strm.set n { s.strm[n] with moved := s.strm[n].moved + BitVec.ofNat 48 x.len } })) ∧
    (∀ t id rd p a v, x.holder = .usher t id rd p → x.kind = .atom a → (s.thread t).st = .waitData (.atom id) →
      ∃ s', exec (.fabAtomRsp tag v) s = .next s' ∧
        (∀ r, (s'.thread t).reg r = if r = 0 then 0 else if r = rd then v else (s.thread t).reg r) ∧
        s' = { s with
          fab := { s.fab with xfers := fewer },
          ush := { s.ush with threads := s.ush.threads.set t { (s.thread t).resume with
            regs := (s'.thread t).regs, pc := (s.thread t).pc + 4, notBefore := s.now } } }) ∧
    (∀ code t id rd, x.holder = .usher t id rd false → (s.thread t).st = .waitData (.atom id) →
      ∃ s', exec (.fabErrRsp tag code) s = .next s' ∧ Claims.Faults s s' t 0x0A ∧
        s'.fab.err[errIx code] = satInc s.fab.err[errIx code])

/-! ## Galleries and links -/

/-- Gallery `x` after the flit that was to arrive next has arrived whole. -/
def Claims.took (x : Gal) : Gal := { x with received := x.received + 1, failRun := 0, rxSeq := x.rxSeq + 1 }

/-- Gallery `x` owes the neighbour one credit more of virtual channel `vc`. -/
def Claims.owes (vc : Fin 3) (x : Gal) : Gal := { x with owed := x.owed.set vc (x.owed[vc] + 1) }

/-- The tiles of a Gallery once flit `f` of the tile with job `id` has been written. -/
def Claims.noted (ts : List GalTile) (id : Nat) (f : WriteFlit) : List GalTile :=
  ts.map fun y => if y.job = id then { y with bytes := y.bytes + flitSize f, seq := f.hdr.seq, lastSeen := f.last } else y

/-- Write flits: one of an open tile that is not relayed is written where the tile's window maps it, inside the tile's slot; a
first flit that a window admits takes its slot; one that fails its CRC asks for a replay, and one out of its turn is
dropped. -/
def Claims.WriteFlits : Prop :=
  ∀ (g : Fin 4) (s : State) (f : WriteFlit), s.gal[g].link = .up → s.alive = true → s.gal[g].rx.length < 16 →
    let x := s.gal[g]
    (∀ t a, f.hdr.seq = x.rxSeq → f.hdr.crcOk = true → x.rx = [] → x.refusing = false → x.openTile? = some t →
      t.relay = none → (f.first = true → t.bytes = 0) → flitFits s t f = .at_ a →
      ∃ s' new, exec (.galWriteFlit g f) s = .next s' ∧ s'.reqs = s.reqs ++ new ∧
        (new.flatMap fun q => q.wr.getD []) = cellsAt a ((leBytes f.data.toNat 256).take (flitSize f)) ∧
        (∀ q ∈ new, q.job = t.job ∧ q.tag = f.hdr.seq ∧ q.unit = .gallery ∧ q.entry = some t.entry ∧ q.wr.isSome = true) ∧
        s'.gal = s.gal.set g (Claims.owes 0 { Claims.took x with tiles := Claims.noted x.tiles t.job f }) ∧
        s' = { s with reqs := s'.reqs, jobs := s'.jobs, nextId := s'.nextId, gal := s'.gal, energy := s'.energy }) ∧
    (∀ w a l k, f.hdr.seq = x.rxSeq → f.hdr.crcOk = true → x.rx = [] → x.openTile? = none → f.first = true →
      (∀ y ∈ x.tiles, y.job < s.nextId) → s.flitLacks g f = false → galAdmit s g f.addr.toNat (flitSize f) f.dcnt = .ok (w, a) →
      flitSlot s a (flitSize f) = some (l, k) → tagPermits s l k true = true → s.rangeFull = false →
      ∃ s' y, exec (.galWriteFlit g f) s = .next s' ∧ s'.gal[g].tiles = x.tiles ++ [y] ∧ y.ring = l ∧ y.slot = k ∧
        y.relay = s.relayOf g l ∧ y.win = s.window w ∧ y.dcnt = f.dcnt ∧ y.entry = s.nextId ∧
        s'.range = s.range ++ [⟨s.nextId, (s.ring l).slotAddr k, (s.ring l).slotAddr k + (s.ring l).slotBytes - 1, true, .gallery,
          some (l, k), true⟩] ∧ s'.mem = s.mem) ∧
    (f.hdr.seq = x.rxSeq → f.hdr.crcOk = false → x.failRun < 7 →
      exec (.galWriteFlit g f) s = .next { s with
        gal := s.gal.set g { x with failRun := x.failRun + 1, first := .replayReq x.rxSeq :: x.first } }) ∧
    (f.hdr.seq ≠ x.rxSeq → exec (.galWriteFlit g f) s = .next s)

/-- A relay flit goes out on every OUT Gallery of its entry in the same cycle, its address moved by DELTA, and is written
locally. -/
def Claims.RelayFlits : Prop :=
  ∀ (g : Fin 4) (s : State) (t : GalTile) (e : Fin 16) (f : WriteFlit) (a : Nat), s.clocked = true →
    s.relayHead g = some (t, e, f, a) →
    let x := s.gal[g]
    (∀ o ∈ relayOuts x.relay[e], o ≠ g ∧ s.galFeature o 16 = true ∧ s.relayTakes o = true ∧ s.gal[o].hasTokens = true) →
    ∃ s' new, exec (.relayForward g) s = .next s' ∧ s'.reqs = s.reqs ++ new ∧
      (new.flatMap fun q => q.wr.getD []) = cellsAt a ((leBytes f.data.toNat 256).take (flitSize f)) ∧
      s'.gal[g].tiles = Claims.noted x.tiles t.job f ∧ s'.gal[g].rx = x.rx.drop 1 ∧
      (∀ o ∈ relayOuts x.relay[e],
        s'.gal[o].pins = [.write { f with
          hdr := { f.hdr with seq := s.gal[o].txSeq }, addr := f.addr + BitVec.ofNat 32 x.delta[e].toNat, dcnt := none }] ∧
        s'.gal[o].credits = s.gal[o].credits.set 0 (s.gal[o].credits[0] - 1) ∧ s'.gal[o].sent = s.gal[o].sent + 1 ∧
        s'.gal[o].txSeq = s.gal[o].txSeq + 1 ∧
        s'.gal[o].relayAcks = s.gal[o].relayAcks ++ [⟨s.gal[o].txSeq, g, f.hdr.seq, t.job, some (t.ring, t.slot)⟩]) ∧
      (∀ o, o ≠ g → o ∉ relayOuts x.relay[e] → s'.gal[o] = s.gal[o])

/-- A read request of Hall that a window admits is served, one that none admits is refused and answered WINDOW; the lines of a
response go to its tile's destination. A request of no byte and a response of no line change nothing (the model's choice,
assumption 16). -/
def Claims.GalleryReads : Prop :=
  ∀ (g : Fin 4) (s : State) (h : FlitHdr), s.gal[g].link = .up → s.alive = true → h.seq = s.gal[g].rxSeq → h.crcOk = true →
    let x := s.gal[g]
    (∀ a n w y, 1 ≤ n → s.galReads g < 16 → admission s (.gal g) (peerOf x) a.toNat n .rd none = .ok w →
      (s.window w).target? a.toNat = .mem y → inHall y n = true →
      ∃ s' new, exec (.galReadRequest g h.crcOk h.seq a n) s = .next s' ∧ s'.reqs = s.reqs ++ new ∧
        new.map (fun q => (q.addr, q.len)) = lineChunks y n ∧
        (∃ j, s'.jobs.getLast? = some j ∧ j.kind = .inRead (.gal g) (peerOf x) h.seq y n w) ∧
        s' = { s with
          reqs := s'.reqs, jobs := s'.jobs, nextId := s'.nextId, energy := s'.energy, gal := s.gal.set g (Claims.took x) }) ∧
    (∀ a n r, 1 ≤ n → s.galReads g < 16 → admission s (.gal g) (peerOf x) a.toNat n .rd none = .error r →
      ∃ s', exec (.galReadRequest g h.crcOk h.seq a n) s = .next s' ∧ s'.win.refused = s.win.refused + 1 ∧
        s'.gal = s.gal.set g (Claims.owes 1 { Claims.took x with vc2 := x.vc2 ++ [.err 0 h.seq .window] }) ∧
        s'.reqs = s.reqs ∧ s'.mem = s.mem) ∧
    (∀ a, exec (.galReadRequest g h.crcOk h.seq a 0) s = .next s) ∧ (∀ q, exec (.galReadResponse g h q []) s = .next s) ∧
    (∀ q data (r : GalRead) j n c d k, x.reads.find? (fun r => r.seq == q) = some r → s.job? r.job = some j →
      j.kind = .tile n c d k → dDstKind d = 0 → 1 ≤ data.length → data.length ≤ 2 →
      let y := Claims.owes 2 (Claims.took x)
      ∃ t new, exec (.galReadResponse g h q data) s = .next (settleTile r.job t) ∧ t.reqs = s.reqs ++ new ∧
        (new.flatMap fun q => q.wr.getD []) =
          ((lineBytes r.src r.len r.got data).flatMap fun b => cellsAt (r.dst + b.1) b.2) ∧
        t = { s with
          reqs := t.reqs, jobs := t.jobs, nextId := t.nextId, energy := t.energy,
          gal := s.gal.set g { y with
            reads := if linesOf r.src r.len ≤ r.got + data.length then x.reads.filter (fun z => z.seq != q)
              else x.reads.map fun z => if z.seq = q then { z with got := z.got + data.length } else z } })

/-- What arrives on a Gallery, and what a relay entry sends on. -/
def Obligations.GalleryArrivals : Prop := Claims.WriteFlits ∧ Claims.RelayFlits ∧ Claims.GalleryReads

/-- An acknowledged flit counts its bytes for its tile; an error ends the tile's transfer, or goes upstream for a relay
flit, job-fatal, and ends the relay's tile. A credit counts; a replay puts the flits from the number asked for on first. A
pass-through sends a flit on unchanged on the opposite Gallery, and counts itself in a capability word. -/
def Obligations.GalleryAnswers : Prop :=
  ∀ (g : Fin 4) (s : State),
    let x := s.gal[g]
    (∀ (h : FlitHdr) q, x.link = .up → s.alive = true → h.seq = x.rxSeq → h.crcOk = true →
      let y := Claims.owes 2 (Claims.took x)
      (∀ (a : SentFlit) j n c d k, x.acks.find? (fun a => a.seq == q) = some a → s.job? a.job = some j → j.kind = .tile n c d k →
        let u := { s with
          energy := (s.spend .flit j.thread 1).energy,
          gal := s.gal.set g { y with acks := x.acks.filter fun a => a.seq != q } }
        exec (.galAck g ⟨h, q⟩) s = .next (settleTile a.job { u with
          strm := s.strm.set n { s.strm[n] with moved := s.strm[n].moved + BitVec.ofNat 48 a.bytes } }) ∧
        ∀ code, exec (.galErrorResponse g ⟨h, q⟩ code) s = .next (tileXferError 4 a.job a.addr u)) ∧
      (∀ (r : RelayAck) code, x.acks.find? (fun a => a.seq == q) = none → x.relayAcks.find? (fun r => r.seq == q) = some r →
        (∃ t ∈ s.gal[r.arr].tiles, t.job = r.job) →
        ∃ s', exec (.galErrorResponse g ⟨h, q⟩ code) s = .next s' ∧ s'.evt.valid = true ∧ .err 0 r.of_ code ∈ s'.gal[r.arr].vc2 ∧
          (∀ t ∈ s'.gal[r.arr].tiles, t.job ≠ r.job) ∧ (s'.hdrOf (Page.gal g)).evt.toNat / 4 % 2 = 1 ∧ s'.mem = s.mem)) ∧
    (∀ vc : Fin 3, exec (.galCreditReturn g vc) s = .next { s with
      gal := s.gal.set g { x with credits := x.credits.set vc (x.credits[vc] + 1) } }) ∧
    (∀ q, x.link = .up → s.alive = true →
      exec (.galReplayRequest g ⟨true, q⟩) s = .next { s with gal := s.gal.set g { x with
        retries := x.retries + 1,
        first := (x.first.filter fun f => !f.counted) ++ (x.replay.filter fun r => decide (q ≤ r.1)).map (·.2) } } ∧
      exec (.galReplayRequest g ⟨false, q⟩) s = .next { s with gal := s.gal.set g { x with
        first := .replayReq x.rxSeq :: x.first } }) ∧
    (s.clu.phase = .pass →
      let h : Fin 4 := g + 2
      let y := s.gal[h]
      let goes (p : PassItem) : Host.Outcome State Fault Refusal := .next (if y.busy
        then { s with gal := s.gal.set h { y with first := y.first ++ [.pass p] } }
        else { s with
          energy := (s.spend .flit none 1).energy,
          gal := s.gal.set h { y with busy := true, periodUsed := true, pins := [.pass p] } })
      (∀ f, exec (.passThroughForward g (.flit f)) s = goes (.flit f)) ∧
      ∀ w, ∃ v, exec (.passThroughForward g (.capWord w)) s = goes (.capWord v) ∧
        v.toNat / 2 ^ 20 % 16 = (w.toNat / 2 ^ 20 + 1) % 16 ∧ v.toNat % 2 ^ 20 = w.toNat % 2 ^ 20 ∧
        v.toNat / 2 ^ 24 = w.toNat / 2 ^ 24)

/-- RETRAIN under its EXPECT starts training while no task runs; the capability word gives the version both ends can run, or
the link fails; a link in training comes up with four modules, is absent, or fails. A recalibration takes one module out of
service and returns it in a second switch; one that fails is retired, a second failure takes the Gallery down. -/
def Obligations.LinkStates : Prop :=
  ∀ (g : Fin 4) (s : State),
    let x := s.gal[g]
    (∀ o v, Claims.writes o (Page.gal g) 0x40 s → v.toNat / 2 ^ 16 % 8 = x.link.code → s.ush.task ≠ .running →
      ∃ s', exec (.galRetrain o g v) s = .next s' ∧ s'.gal[g].link = .training ∧ s'.gal[g].version = 0 ∧
        s'.gal[g].recalEn = decide (v.toNat / 2 % 2 = 1) ∧ s'.gal[g].first = [.cap (capLocal s (.gal g))] ∧
        ∀ k, k ≠ g → s'.gal[k] = s.gal[k]) ∧
    (∀ o v, Claims.writes o .fab 0x70 s → v.toNat / 2 ^ 16 % 8 = s.fab.link.code → s.ush.task ≠ .running →
      exec (.fabRetrain o v) s = .next (Claims.answered o .fab { s with fab := { s.fab with
        link := .training, version := 0, capPeer := 0, tx := s.fab.tx ++ [.cap (capLocal s .fab)] } })) ∧
    (∀ w, x.link = .training → s.alive = true →
      let n := min 3 (w.toNat % 256)
      (3 ≤ n → w.toNat / 256 % 256 ≤ n → exec (.galCapWord (.gal g) w) s = .next { s with
        gal := s.gal.set g { x with capPeer := w, version := BitVec.ofNat 8 n, passed := BitVec.ofNat 4 (w.toNat / 2 ^ 20) } }) ∧
      (n < 3 → ∃ s', exec (.galCapWord (.gal g) w) s = .next s' ∧ s'.gal[g].link = .failed)) ∧
    (∀ rep, x.link = .training → s.alive = true → x.version ≠ 0 → s.build.crossDie[g] = true →
      exec (.linkTrained (.gal g) (.up 4 rep)) s = .next { s with gal := s.gal.set g { x with
        link := .up, owed := Vector.replicate 3 16, modulesLive := 4, repaired := rep, recals := x.recals + 4, recalAt := max 1 x.recalPeriod.toNat * 65536 } }) ∧
    (x.link = .training → s.alive = true → exec (.linkTrained (.gal g) .absent) s = .next { s with gal := s.gal.set g { x with link := .absent } }) ∧
    (s.fab.link = .training → s.alive = true → s.fab.version ≠ 0 →
      ∀ m rep, exec (.linkTrained .fab (.up m rep)) s = .next { s with fab := { s.fab with link := .up } }) ∧
    (s.alive = true → x.recalEn = true → x.link = .up → x.modulesLive = 4 → x.recalMod = 0 → x.recalAt = 0 →
      exec (.galRecalPeriod g) s = .next { s with gal := s.gal.set g { x with
        recalMod := BitVec.ofNat 3 (x.nextModule.val + 1), modulesLive := 3, switches := x.switches + 1,
        recalAt := max 1 x.recalPeriod.toNat * 65536 } }) ∧
    (∀ rep, s.alive = true → x.recalMod ≠ 0 →
      (∃ s', exec (.moduleRecalDone g true rep) s = .next s' ∧ s'.gal[g].recalMod = 0 ∧ s'.gal[g].modulesLive = 4 ∧
        s'.gal[g].switches = x.switches + 1 ∧ s'.gal[g].recals = x.recals + 1 ∧ s'.gal[g].link = x.link) ∧
      ∃ s', exec (.moduleRecalDone g false rep) s = .next s' ∧ s'.gal[g].modulesLive = 3 ∧ s'.gal[g].recalMod = 0 ∧
        s'.gal[g].retired = x.retired ||| BitVec.ofNat 4 (2 ^ ((x.recalMod.toNat - 1) % 4))) ∧
    (∀ k : Fin 4, s.alive = true → x.link = .up → s.build.crossDie[g] = true → bitAt x.retired k.val = false →
      (x.retired = 0 → x.recalMod = 0 → ∃ s', exec (.ucieModuleFailure g k) s = .next s' ∧ s'.gal[g].link = .up ∧
        s'.gal[g].modulesLive = 3 ∧ s'.gal[g].retired = BitVec.ofNat 4 (2 ^ k.val)) ∧
      (x.retired ≠ 0 → ∃ s', exec (.ucieModuleFailure g k) s = .next s' ∧ s'.gal[g].link = .down ∧ s'.evt.valid = true)) ∧
    (x.link = .up → s.alive = true → ∃ s', exec (.galPeerLost g) s = .next s' ∧ s'.gal[g].link = .down ∧ s'.gal[g].rx = [] ∧
      s'.gal[g].tiles = [] ∧ s'.evt.valid = true ∧ (s'.hdrOf (Page.gal g)).evt.toNat % 2 = 1 ∧ s'.mem = s.mem)

/-! ## Windows and the registers of the links -/

/-- A window's fields change only while it is disabled, by the management port; a write of WIN_CTL takes effect under its
EXPECT, one that enables a window is checked, and one that disables it leaves it in force to the end of the cycle. FAB_ID changes while no link is up, the wheel while no task runs; a relay
entry is enabled by a checked write and disabled while no tile follows it. -/
def Obligations.LinkRegisters : Prop :=
  ∀ (o : Originator) (s : State) (v : BitVec 64),
    (∀ (w : Fin 64), Claims.writes o .win (0x100 + 32 * w.val) s →
      let x := s.win.windows[w]
      let y : Window := { x with
        en := v.toNat % 2 = 1, sync := v.toNat / 2 % 2 = 1, rd := v.toNat / 4 % 2 = 1, wr := v.toNat / 8 % 2 = 1,
        atom := v.toNat / 16 % 2 = 1, cntEn := v.toNat / 32 % 2 = 1, ports := BitVec.ofNat 5 (v.toNat / 2 ^ 8) }
      (decide (v.toNat / 2 ^ 16 % 2 = 1) = x.en → (y.en = true → winBad s w y = false) →
        exec (.winCtlWrite o w v) s = .next (Claims.answered o .win { s with win := { s.win with
          windows := s.win.windows.set w y,
          closing := s.win.closing ++ (if x.en = true ∧ y.en = false then [(w, x)] else []) } })) ∧
      (decide (v.toNat / 2 ^ 16 % 2 = 1) ≠ x.en →
        exec (.winCtlWrite o w v) s = .next (Claims.answered o .win (countEvt .win 2 s)))) ∧
    (∀ (w : Fin 64), Claims.writes o .win (0x108 + 32 * w.val) s → s.win.windows[w].en = false →
      exec (.winFieldWrite o w 0 v) s = .next (Claims.answered o .win { s with win := { s.win with
        windows := s.win.windows.set w { s.win.windows[w] with
          base := BitVec.ofNat 28 (v.toNat / 2 ^ 12), sizeLog2 := BitVec.ofNat 6 (v.toNat / 2 ^ 40) } } })) ∧
    (∀ (w : Fin 64) (f : Fin 3), Claims.writes o .win (0x108 + 32 * w.val + 8 * f.val) s → s.win.windows[w].en = true →
      exec (.winFieldWrite o w f v) s = .next (Claims.answered o .win s)) ∧
    (Claims.writes o .fab 0x50 s → s.anyLinkUp = false → exec (.fabIdWrite o v) s = .next (Claims.answered o .fab { s with
      fab := { s.fab with
        node := BitVec.ofNat 16 v.toNat, die := BitVec.ofNat 3 (v.toNat / 2 ^ 16), cluster := BitVec.ofNat 4 (v.toNat / 2 ^ 19) } })) ∧
    (Claims.writes o .fab 0x40 s → s.ush.task ≠ .running → exec (.fabWheelWrite o v) s = .next (Claims.answered o .fab { s with
      fab := { s.fab with wheel := BitVec.ofNat 32 v.toNat } })) ∧
    (∀ (g : Fin 4) (e : Fin 16), Claims.writes o (Page.gal g) (0x100 + 16 * e.val) s →
      let x := s.gal[g]
      let y := v &&& 0x00001FFF001F3F01
      (x.relay[e].toNat % 2 = 0 → (v.toNat % 2 = 1 → relayBad s g e y = false) →
        exec (.galRelayWrite o g e false v) s = .next (Claims.answered o (Page.gal g) { s with
          gal := s.gal.set g { x with relay := x.relay.set e y } })) ∧
      (x.relay[e].toNat % 2 = 1 → v.toNat % 2 = 0 → s.relayBusy g e = false →
        exec (.galRelayWrite o g e false v) s = .next (Claims.answered o (Page.gal g) { s with
          gal := s.gal.set g { x with relay := x.relay.set e (x.relay[e] &&& ~~~1) } })))

/-! ## Hall, Lower Hall and Landings -/

/-- `s` after bank `b` used its cycle and turned away `lost` requests. -/
def Claims.bankUsed (b lost : Nat) (s : State) : State :=
  let up (h : Hall) : Hall := { h with lost := h.lost + BitVec.ofNat 32 lost }
  if b < 96 then { s with granted := b :: s.granted, hall := up s.hall }
  else { s with granted := b :: s.granted, lhall := up s.lhall }

/-- Of the requests that ask for a bank, one of the highest rank is granted, and the others count as lost. Its access ends
HALL.LTU, or the LHALL.LTU of the build, later; a read carries the bytes of the grant, and a write of a clean line stores its
bytes and no others. One or two flagged words hold back the store until the write-back; three end the access; a write of its
whole line reads none. A request waits while its group wakes. -/
def Obligations.LineGrants : Prop :=
  ∀ (b : LineBank) (inner : Nat) (flagged : BitVec 10) (s : State),
    (∀ r, s.winner (LineBank.idx b) = some r → r ∈ s.asked (LineBank.idx b) ∧ (∀ x ∈ s.asked (LineBank.idx b), s.reqRank r ≤ s.reqRank x) ∧
      ∀ u, s.powerAt r.addr ≠ .waking u) ∧
    (∀ r, s.clocked = true → (LineBank.idx b) ∉ s.granted → s.repairAsks (LineBank.idx b) = false → s.winner (LineBank.idx b) = some r →
      s.powerAt r.addr = .on → (s.job? r.job).bind Job.atom? = none → Memory.wf s.mem →
      let cs := r.wr.getD []
      let words : BitVec 10 := if r.wr.isSome ∧ cs.length = 128 then 0 else flagged
      let n := ((List.range 10).filter fun i => words.toNat / 2 ^ i % 2 = 1).length
      ∃ s' x, exec (.hallAccessGrant b inner flagged) s = .next s' ∧
        s'.reqs = s.reqs.filter (fun y => y.id != r.id) ∧ s'.granted = (LineBank.idx b) :: s.granted ∧
        (s'.tier (tierOfBank (LineBank.idx b))).lost =
          (s.tier (tierOfBank (LineBank.idx b))).lost + BitVec.ofNat 32 (s.askers (LineBank.idx b) - 1) ∧
        s'.access = s.access ++ [x] ∧ x.req = r ∧ x.words = words ∧
        x.due = s.now + (if r.addr < 0x1800000 then 7 else if s.build.tiers2 then 18 else 16) ∧
        x.data = (if r.wr.isSome then [] else (List.range r.len).map fun i => (r.addr + i, memByte s (r.addr + i))) ∧
        x.ecc = (if n = 0 then .clean else if n ≤ 2 then .flagged else .uncorrectable n) ∧
        s'.mem = (if n = 0 then memStore cs s.mem else s.mem) ∧
        (∀ k, (∀ c ∈ cs, c.1 ≠ k) → memByte s' k = memByte s k) ∧
        s'.ush = s.ush ∧ s'.vec.v = s.vec.v ∧ s'.vec.k = s.vec.k ∧ s'.opa = s.opa ∧ s'.sync = s.sync ∧ s'.range = s.range) ∧
    (s.winner (LineBank.idx b) = none → s.hall.scrubBusy = false → s.lhall.scrubBusy = false →
      exec (.hallAccessGrant b inner flagged) s = .next s)

/-- The access numbered `id` is `x`, due, of the job `j` that waits for it alone. -/
def Claims.lastAccess (s : State) (id : Nat) (x : Access) (j : Job) : Prop :=
  s.access.find? (fun a => a.req.id == id) = some x ∧ s.clocked = true ∧ x.due ≤ s.now ∧ x.ecc = .clean ∧
    s.job? x.req.job = some j ∧ j.voided = false ∧ j.left = 1

/-- A codeword of the outer code: 8 data bytes and 2 check bytes with the value zero at both roots. Whatever two of its bytes
are lost, the others restore them. -/
def Claims.OuterCode : Prop :=
  ∀ (d : List (BitVec 8)), d.length = 8 →
    let c := rsEncode d
    c.length = 10 ∧ c.take 8 = d ∧ rsValue 0 c = 0 ∧ rsValue 1 c = 0 ∧
    ∀ (i j : Nat) (e : List (BitVec 8)), i < j → j < 10 → e.length = 10 → (∀ k, k ≠ i → k ≠ j → e.getD k 0 = c.getD k 0) →
      rsCorrect i j e = c

/-- A load's last data gives rd the little-endian value of its bytes, extended as the load says, and ends its wait; a
store's last write ends its job. Both release their entries. A line with flagged words is read again; HALL.REPLAY later the
outer code has corrected one or two of them, and the line is written back with what the access stores into it; three end the
access. The outer code restores any two erased words of a codeword. -/
def Obligations.AccessesEnd : Prop :=
  Claims.OuterCode ∧
  ∀ (id : Nat) (s : State) (x : Access),
    (∀ j t rd a n sg pc, Claims.lastAccess s id x j → x.req.wr = none → j.kind = .load t rd a n sg pc →
      (j.id, rd) ∈ (s.thread t).pend →
      let v := leNat (bufBytes (j.buf ++ x.data) a n)
      ∃ s', exec (.hallReadDataUsable id) s = .next s' ∧
        (∀ q, (s'.thread t).reg q = if q = 0 then 0 else if q = rd then
            (if sg then BitVec.ofInt 64 (BitVec.ofNat (8 * n) v).toInt else BitVec.ofNat 64 v)
          else (s.thread t).reg q) ∧
        (s'.thread t).pend = (s.thread t).pend.filter (fun p => p.1 != j.id) ∧
        (s'.thread t).st = (if (s.thread t).st = .waitData (.reg rd) then .ready else (s.thread t).st) ∧
        (∀ u, u ≠ t → s'.thread u = s.thread u) ∧
        s' = { dropJob j.id (releaseAll j.entries true { s with access := s.access.filter fun y => y.req.id != x.req.id })
          with ush := { s.ush with threads := s'.ush.threads } }) ∧
    (∀ j t pc, Claims.lastAccess s id x j → x.req.wr.isSome = true → j.kind = .store t pc →
      exec (.hallWriteComplete id) s = .next (dropJob j.id (releaseAll j.entries true
        { s with access := s.access.filter fun y => y.req.id != x.req.id }))) ∧
    (∀ flagged : BitVec 10, s.access.find? (fun a => a.req.id == id) = some x → s.clocked = true → x.due ≤ s.now →
      x.req.unit ≠ .scrub → bankIdx x.req.addr ∉ s.granted →
      (s.repairs (bankIdx x.req.addr)).find? (fun a => a.req.unit != .scrub) = some x →
      let b := bankIdx x.req.addr
      let words := x.words ||| flagged
      let n := ((List.range 10).filter fun i => words.toNat / 2 ^ i % 2 = 1).length
      let used := Claims.bankUsed b (s.askers b - 1) (spendGrant x.req s)
      (x.ecc = .flagged → exec (.outerCodeReread id flagged) s = .next { used with
        access := s.access.map fun y => if y.req.id = id then { y with
          words := words, ecc := (if 3 ≤ n then .uncorrectable n else .reread), due := (if 3 ≤ n then s.now else s.now + 12),
          data := (if x.req.wr.isSome then []
            else (List.range x.req.len).map fun i => (x.req.addr + i, memByte s (x.req.addr + i))) } else y }) ∧
      (x.ecc = .reread → ∃ s', exec (.outerCodeWriteback id) s = .next s' ∧
        s'.access = s.access.map (fun y => if y.req.id = id then { y with ecc := .clean } else y) ∧
        s'.granted = b :: s.granted ∧ s'.mem = memStore (storedBytes s x.req) s.mem ∧ s'.reqs = s.reqs ∧
        (s'.tier (tierOf x.req.addr)).outer = (s.tier (tierOf x.req.addr)).outer + 1 ∧
        (s'.hdrOf (if x.req.addr < 0x1800000 then .hall else .lhall)).evt.toNat / 8 % 2 = 1))

/-- A scrub pass starts where none runs, reads its next line in each bank that no request wants, and ends once it has read
every row. A power target waits for the next mark, or
takes effect at once with ENABLE 0 and no range entry in use: groups go OFF and lose their contents, RETAIN, or wake in
256 cycles from RETAIN, 2,048 or 4,096 from OFF; code 3 is refused. A waking group is ON after its time. -/
def Obligations.HallMaintenance : Prop :=
  ∀ (o : Originator) (t : Tier) (s : State) (v : BitVec 64),
    let x := s.tier t
    let n := match t with | .hall => 12 | .lower => if s.build.tiers2 then 32 else 16
    let code (g : Nat) : Nat := v.toNat / 4 ^ g % 4
    (Claims.writes o (Page.tier t) 0x60 s → x.scrubBusy = false → exec (.hallScrubStart o t v) s =
      .next (Claims.answered o (Page.tier t) (modTier t (fun h => { h with
        scrubBusy := true, scrubPtr := Vector.replicate 96 0 }) s))) ∧
    (∀ (b : LineBank) p inner, s.clocked = true → tierOfBank (LineBank.idx b) = t → LineBank.idx b ∉ s.granted →
      s.repairAsks (LineBank.idx b) = false → s.winner (LineBank.idx b) = none → s.scrubNext (LineBank.idx b) = some p →
      s.powerAt (scrubAddr (LineBank.idx b) p) = .on →
      ∃ s' y, exec (.hallAccessGrant b inner 0) s = .next s' ∧ s'.access = s.access ++ [y] ∧ y.req.unit = .scrub ∧
        y.req.addr = scrubAddr (LineBank.idx b) p ∧ y.req.len = 128 ∧ y.ecc = .clean ∧ s'.mem = s.mem ∧
        (s'.tier t).scrubPtr[LineBank.idx b - bankBase t]? = some (p + 1)) ∧
    (s.clocked = true → x.scrubBusy = true →
      (∀ k < (match t with | .hall => 96 | .lower => 16), s.scrubNext (bankBase t + k) = none) →
      (∀ a ∈ s.access, a.req.unit ≠ .scrub) →
      exec (.scrubPassDone t) s =
        .next (modTier t (fun h => { h with scrubBusy := false, scrubPasses := h.scrubPasses + 1 }) s)) ∧
    (Claims.writes o (Page.tier t) 0x40 s →
      ((∃ g < n, code g = 3) → exec (.hallPwrWrite o t v) s = .next (Claims.answered o (Page.tier t) (countEvt (Page.tier t) 2 s))) ∧
      ((∀ g < n, code g ≠ 3) → s.step.enable = true → ∃ w, exec (.hallPwrWrite o t v) s =
          .next (Claims.answered o (Page.tier t) (modTier t (fun h => { h with tgtPend := some (s.now, w) }) s)) ∧
        ∀ g < n, w.toNat / 4 ^ g % 4 = code g) ∧
      ((∀ g < n, code g ≠ 3) → s.step.enable = false → s.range = [] → s.hall.tgtPend = none → s.lhall.tgtPend = none →
        Memory.wf s.mem →
        ∃ s', exec (.hallPwrWrite o t v) s = .next s' ∧ Memory.wf s'.mem ∧ (s'.tier t).tgtPend = none ∧
          (∀ a g, g < n → inGroup t g a = true → code g = 2 → memByte s' a = 0) ∧
          (∀ a, (∀ g < n, inGroup t g a = true → code g ≠ 2) → memByte s' a = memByte s a) ∧
          (∀ g : Fin 32, g.val < n → (code g = 2 → (s'.tier t).live[g] = .off) ∧
            (code g = 1 → (s'.tier t).live[g] = if x.live[g] = .off then .off else .retain) ∧
            (code g = 0 → (x.live[g] = .on → (s'.tier t).live[g] = .on) ∧
              (x.live[g] = .retain → (s'.tier t).live[g] = .waking (s.now + 256)) ∧
              (x.live[g] = .off → (s'.tier t).live[g] =
                .waking (s.now + match t with | .hall => 2048 | .lower => 4096)))))) ∧
    (∀ (g : Fin 32) k, s.clocked = true → x.live[g] = .waking k → k ≤ s.now → exec (.powerWakeDone t g) s =
      .next (modTier t (fun h => { h with live := h.live.set g .on }) s))

/-- LAND_CFG enables a legal ring with every slot EMPTY, changes a disabled one, and disables one that nothing uses; LAND_OVF
changes a disabled ring only; LAND_TAGSET sets a tag under its EXPECT. A refused write counts and changes nothing else. -/
def Obligations.LandingRegisters : Prop :=
  ∀ (o : Originator) (l : Fin 64) (s : State) (v : BitVec 64),
    let r := s.ring l
    let n := v.toNat
    let x : Ring := { r with
      en := n % 2 = 1, kind := n / 2 % 2 = 1, nslotM1 := BitVec.ofNat 8 (n / 2 ^ 8), reads := BitVec.ofNat 3 (n / 2 ^ 16),
      slotLog2 := BitVec.ofNat 5 (n / 2 ^ 20), ahead := BitVec.ofNat 3 (n / 2 ^ 28), base := BitVec.ofNat 32 (n / 2 ^ 32) }
    let ring (r : Ring) : State := Claims.answered o .land { s with land := { s.land with rings := s.land.rings.set l r } }
    let no (bit : Nat) : State := Claims.answered o .land (countEvt .land bit s)
    (Claims.writes o .land (0x100 + 32 * l.val) s →
      (r.en = false → n % 2 = 1 → ringBad s l x = false → exec (.landCfgWrite o l v) s = .next (ring { x with
        wseq := 0, rseq := 0, slots := List.replicate (n / 2 ^ 8 % 256 + 1) ⟨.empty, 0, 0, 0, false⟩, region := [],
        xfer := none, due := [] })) ∧
      (r.en = false → n % 2 = 1 → ringBad s l x = true → exec (.landCfgWrite o l v) s = .next (no 1)) ∧
      (r.en = false → n % 2 = 0 → exec (.landCfgWrite o l v) s = .next (ring x)) ∧
      (r.en = true → n % 2 = 0 → exec (.landCfgWrite o l v) s =
        .next (if ringBusy s l then no 1 else ring { r with en := false })) ∧
      (r.en = true → n % 2 = 1 → x ≠ r → exec (.landCfgWrite o l v) s = .next (no 1))) ∧
    (Claims.writes o .land (0x108 + 32 * l.val) s → exec (.landOvfWrite o l v) s = .next (if r.en then no 1 else ring { r with
      ovfEn := n % 2 = 1, ovfLog2 := BitVec.ofNat 5 (n / 2 ^ 4), ovfBase := BitVec.ofNat 52 (n / 2 ^ 12) })) ∧
    (Claims.writes o .land 0x48 s → n % 64 = l.val →
      let k := n / 2 ^ 8 % 256
      let new := n / 2 ^ 20 % 8
      ∀ y, r.en = true → r.slots[k]? = some y → k < r.nslot → (r.kind = false ∨ s.clu.live = true) →
        (new = 0 ∨ new = 2) →
        exec (.landTagset o v) s = .next (if n / 2 ^ 16 % 8 ≠ y.tag.code ∨ slotHeld s l k = true then no 2
          else ring { r with slots := r.slots.modify k fun y => { y with
            tag := if new = 0 then .empty else .full, taken := 0, done := 0, refilled := false } }))

/-- A spill makes its slot SPILLING and requests its bytes and their transfers to the overflow region; its last read leaves
the slot EMPTY and the entry in the region, to be refilled once its write is acknowledged. A refill makes an EMPTY slot
REFILLING and requests the transfers; its last write leaves the slot FULL, and the entry leaves the region. -/
def Obligations.LandingMoves : Prop :=
  ∀ (l : Fin 64) (s : State),
    let r := s.ring l
    let slot (s' : State) (k : Nat) : Option Slot := (s'.ring l).slots[k]?
    (∀ k x, s.nextMove l = some (.spill k) → r.slots[k]? = some x →
      ∃ s' id, exec (.landingSpillStart l) s = .next s' ∧
        slot s' k = some { x with tag := .spilling } ∧ (∀ i, i ≠ k → slot s' i = slot s i) ∧
        (s'.ring l).xfer = some ⟨true, x.entry, k, id, false⟩ ∧ s'.mem = s.mem ∧
        (∃ new, s'.reqs = s.reqs ++ new ∧ new.map (fun q => (q.addr, q.len)) = lineChunks (r.slotAddr k) r.slotBytes ∧
          ∀ q ∈ new, q.job = id ∧ q.unit = .landing ∧ q.wr = none ∧ q.entry = some s.nextId) ∧
        s'.range = s.range ++ [⟨s.nextId, r.slotAddr k, r.slotAddr k + r.slotBytes - 1, false, .landing, none, true⟩] ∧
        ∃ new, s'.fab = { s.fab with xfers := s.fab.xfers ++ new } ∧
          new.map (fun y => (y.addr, y.len)) = (pieces s.xferBlock (r.entryAddr x.entry) r.slotBytes).map (fun p =>
            (BitVec.ofNat 64 p.1, p.2)) ∧
          ∀ y ∈ new, y.holder = .landing l id ∧ y.kind = .write 0 none) ∧
    (∀ x j, r.xfer = some x → s.job? x.job = some j → x.spill = true → x.hallDone = false → j.left = 0 →
      j.voided = false → x.slot < r.slots.length → (∀ e ∈ s.range, e.id ∈ j.entries → e.slot = none) →
      ∃ s', exec (.landingSpillReadDone l) s = .next s' ∧
        slot s' x.slot = some ⟨.empty, 0, 0, 0, false⟩ ∧ (∀ i, i ≠ x.slot → slot s' i = slot s i) ∧
        (s'.ring l).region = r.region ++ [(x.entry, false)] ∧ s'.land.spills = s.land.spills + 1 ∧ s'.mem = s.mem) ∧
    (∀ j, s.jobs = [j] → j.kind = .spill l → j.voided = false → j.left = 0 → s.outOf j.id = 0 →
      (∃ e, (e, false) ∈ r.region ∧ e.toNat = j.top) →
      ∃ s', exec (.landingSpillAck l) s = .next s' ∧ s'.jobs = [] ∧
        (s'.ring l).region = r.region.map (fun p => if p.1.toNat = j.top then (p.1, true) else p) ∧
        (s'.ring l).slots = r.slots ∧ s'.mem = s.mem) ∧
    (∀ e x, s.nextMove l = some (.refill e) → r.slots[r.slotFor e]? = some x →
      ∃ s' id, exec (.landingRefillStart l) s = .next s' ∧
        slot s' (r.slotFor e) = some { x with tag := .refilling, entry := e } ∧
        (∀ i, i ≠ r.slotFor e → slot s' i = slot s i) ∧
        (s'.ring l).xfer = some ⟨false, e, r.slotFor e, id, false⟩ ∧ s'.mem = s.mem ∧ s'.reqs = s.reqs ∧
        s'.range = s.range ++ [⟨s.nextId, r.slotAddr (r.slotFor e), r.slotAddr (r.slotFor e) + r.slotBytes - 1, true, .landing,
          none, true⟩] ∧
        ∃ new, s'.fab = { s.fab with xfers := s.fab.xfers ++ new } ∧
          new.map (fun y => (y.addr, y.len)) = (pieces s.xferBlock (r.entryAddr e) r.slotBytes).map (fun p =>
            (BitVec.ofNat 64 p.1, p.2)) ∧
          ∀ y ∈ new, y.holder = .landing l id) ∧
    (∀ x j, r.xfer = some x → s.job? x.job = some j → x.spill = false → j.left = 0 → j.voided = false →
      s.outOf j.id = 0 → x.slot < r.slots.length → (∀ e ∈ s.range, e.id ∈ j.entries → e.slot = none) →
      ∃ s', exec (.landingRefillDone l) s = .next s' ∧
        slot s' x.slot = some ⟨.full, x.entry, 0, 0, true⟩ ∧ (∀ i, i ≠ x.slot → slot s' i = slot s i) ∧
        (s'.ring l).xfer = none ∧ (s'.ring l).region = r.region.filter (fun p => p.1 != x.entry) ∧
        s'.land.refills = s.land.refills + 1 ∧ s'.mem = s.mem)

/-! ## The step unit -/

/-- The point that mode `dyn` puts in force under the recorded input (R313). -/
def Claims.pointOf (s : State) (dyn : Bool) : BitVec 3 :=
  if dyn = false then 2 else if s.pwr.opIn.toNat ≤ s.fuse.fmaxOp.toNat then s.pwr.opIn else s.fuse.fmaxOp

/-- Step-ready rises where the thread mask has ended, every engine is idle, no range entry is in use and no Landing moves,
and never in c0; the overrun comes at L + G − A + 1 without it and not before, once, job-fatal. The clock restarts at the point in force. -/
def Obligations.StepProgress : Prop :=
  ∀ s : State,
    let st := s.step
    (s.clocked = true → st.enable = true → st.rdy = false → s.evt.valid = false → st.phase = .run → st.cycle ≠ 0 →
      s.stepDone = true → exec .stepReadyRise s =
        .next { s with step := { st with rdy := true, rdyAt := some st.mtime.toNat, phase := .ready } }) ∧
    (s.stepDone = false ∨ st.cycle = 0 ∧ s.stepOpen = true ∨ s.evt.valid = true → exec .stepReadyRise s = .next s) ∧
    (s.stepDone = true → (∀ t, st.mask.toNat / 2 ^ t.val % 2 = 1 → st.ended.toNat / 2 ^ t.val % 2 = 1 ∨
      (s.thread t).st = .halted ∨ (s.thread t).st = .free) ∧ s.queuesEmpty = true ∧ s.range = [] ∧
      ∀ l, (s.ring l).xfer = none) ∧
    (st.phase = .run → s.pwr.coolStopped = false → st.rdy = false → st.len.toNat < st.mtime.toNat + st.lead.toNat →
      exec .stepLateLimit s = .next { s with step := { st with phase := .late } }) ∧
    (s.stepOpen = true → s.pwr.coolStopped = false → st.rdy = false → st.overrun = false →
      st.len.toNat + st.guard.toNat + 1 ≤ st.mtime.toNat + st.lead.toNat → s.tagWaits = [] →
      ∃ s', exec .stepOverrun s = .next s' ∧ s'.step.overrun = true ∧ (s'.hdrOf .step).evt.toNat % 2 = 1 ∧
        (s.evt.valid = false → s'.evt.valid = true ∧ s'.evt.code = 0x20 ∧ s'.evt.page = 2 ∧
          s'.evt.tIndex = st.index ∧ s'.evt.tMtime = st.mtime) ∧
        s'.mem = s.mem ∧ s'.ush = s.ush ∧ s'.vec = s.vec) ∧
    (s.stepOpen = true → s.pwr.coolStopped = false → st.rdy = false → st.overrun = false →
      st.len.toNat + st.guard.toNat + 1 ≤ st.mtime.toNat + st.lead.toNat →
      ∃ s', exec .stepOverrun s = .next s' ∧ s'.step.overrun = true ∧ s'.evt.valid = true) ∧
    (st.rdy = true ∨ st.mtime.toNat + st.lead.toNat ≤ st.len.toNat + st.guard.toNat ∨ s.pwr.coolStopped = true →
      exec .stepOverrun s = .next s) ∧
    (s.pwr.switching = true → s.pwr.switchLeft = 0 → s.pwr.coolStopped = false → exec .opChangeClockRestart s =
      .next (relevel { s with
        pwr := { s.pwr with switching := false, op := Claims.pointOf s st.mode }, step := { st with rdy := false } }))

/-- `s` before the next mark: the clocks run, marks act, no shadowed write and no power target waits. -/
def Claims.markable (s : State) : Prop :=
  s.step.enable = true ∧ s.clocked = true ∧ s.step.shadow = [] ∧ s.hall.tgtPend = none ∧ s.lhall.tgtPend = none

/-- A normal mark that finds step-ready high opens the next step: the step closes with its slack and LATE, the counts
restart, threads that ended the step run again two cycles later, and the inputs are sampled. With the task ENDED it goes to
IDLE instead and ENABLE clears. An early mark is job-fatal and acts as a stop mark; a stop mark closes the step, stops what
the engines hold and leaves the phase STOPPED. Both keep all memory. Marks find no effect without ENABLE. -/
def Obligations.StepMarks : Prop :=
  ∀ (s : State) (cap : BitVec 10) (op : BitVec 3),
    let st := s.step
    let used := (if st.rdy then st.rdyAt.getD st.mtime.toNat else st.mtime.toNat) + st.slack.toNat - st.len.toNat
    let closed (s' : State) : Prop := s'.step.lastUsed = BitVec.ofNat 22 used ∧
      s'.step.lastStretched = decide (st.len.toNat < st.mtime.toNat) ∧ s'.mem = s.mem ∧ s'.evt.sIndex = st.index ∧
      s'.evt.sCycle = st.cycle ∧ s'.evt.sMtime = st.mtime
    (st.enable = false → exec (.stepMarkNormal cap op) s = .next s ∧ exec .stepMarkStop s = .next s) ∧
    (Claims.markable s → st.phase = .ready → st.rdy = true → s.evt.valid = false →
      ∃ s', exec (.stepMarkNormal cap op) s = .next s' ∧ closed s' ∧ s'.evt.sStop = false ∧
        s'.pwr.capIn = cap ∧ s'.pwr.opIn = op ∧
        (s.ush.task = .ended → s'.step.phase = .idle ∧ s'.step.enable = false ∧ s'.step.rdy = false ∧
          s'.ush = s.ush) ∧
        (s.ush.task ≠ .ended → s'.step.phase = .run ∧ s'.step.index = st.index + 1 ∧ s'.step.cycle = 0 ∧
          s'.step.mtime = 0 ∧ s'.step.rdy = decide (Claims.pointOf s' st.mode ≠ s.pwr.op) ∧
          s'.pwr.switching = (s.pwr.switching || s'.step.rdy) ∧ s'.step.ended = 0 ∧ s'.step.modeLive = st.mode ∧
          (∀ t, s'.thread t = if (s.thread t).st = .waitMark
            then { (s.thread t).resume with notBefore := s.now + 2 } else s.thread t) ∧
          s'.ush = { s.ush with threads := s'.ush.threads })) ∧
    (Claims.markable s → (st.phase = .run ∨ st.phase = .late) → st.rdy = false → s.evt.valid = false →
      ∃ s', exec (.stepMarkNormal cap op) s = .next s' ∧ s'.step.phase = .stopped ∧ s'.evt.valid = true ∧
        s'.evt.code = 0x21 ∧ s'.evt.page = 2 ∧ s'.mem = s.mem ∧ s'.queuesEmpty = true) ∧
    (Claims.markable s → s.stepOpen = true →
      ∃ s', exec .stepMarkStop s = .next s' ∧ closed s' ∧ s'.evt.sStop = true ∧ s'.step.phase = .stopped ∧
        s'.step.rdy = false ∧ s'.queuesEmpty = true ∧ s'.ush.threads = s.ush.threads ∧ s'.ush.task = s.ush.task ∧
        s'.vec.v = s.vec.v ∧ s'.vec.k = s.vec.k ∧ (∀ a b : Fin 2, s'.opa[a].banks[b] = s.opa[a].banks[b]) ∧
        s'.step.index = st.index)

/-- Writes of the step unit's and the power registers: a legal value of a shadowed register waits for its mark, one outside
its range is refused and counts, and nothing else changes. ENABLE changes only while no step is open. LAT_SEL takes a
version that the part honours while nothing is in flight. -/
def Obligations.StepPowerRegisters : Prop :=
  ∀ (o : Originator) (s : State) (v : BitVec 64),
    let n := v.toNat % 2 ^ 21
    let with_ (p : Page) (xs : List Shadow) (f : Step → Step) : State :=
      Claims.answered o p { s with step := f { s.step with shadow := s.step.shadow ++ xs.map fun x => (s.now, x) } }
    let no (p : Page) (bit : Nat) : State := Claims.answered o p (countEvt p bit s)
    (Claims.writes o .step 0x40 s →
      let en := decide (v.toNat / 2 % 2 = 1)
      let xs : List Shadow := [.mode (v.toNat % 2 = 1), .mask (BitVec.ofNat 16 (v.toNat / 2 ^ 16)),
        .lead (BitVec.ofNat 16 (v.toNat / 2 ^ 32))]
      (en = s.step.enable → exec (.stepCfgWrite o v) s = .next (with_ .step xs id)) ∧
      (s.stepOpen = true → en ≠ s.step.enable → exec (.stepCfgWrite o v) s = .next (no .step 2)) ∧
      (s.stepOpen = false → s.step.enable = false → en = true → exec (.stepCfgWrite o v) s =
        .next (with_ .step xs fun x => { x with enable := true, index := 0, phase := .idle, ended := 0 })) ∧
      (s.stepOpen = false → s.step.enable = true → en = false → exec (.stepCfgWrite o v) s =
        .next (with_ .step xs fun x => { x with enable := false, rdy := false, freeMt := 0, phase := .idle }))) ∧
    (Claims.writes o .step 0x48 s → exec (.stepLenWrite o v) s =
      .next (if 1024 ≤ n ∧ n ≤ 1048576 then with_ .step [.len (BitVec.ofNat 21 n)] id else no .step 2)) ∧
    (Claims.writes o .step 0x50 s → exec (.stepSlackWrite o v) s =
      .next (if s.wLead.toNat ≤ n ∧ n < s.wLen.toNat then with_ .step [.slack (BitVec.ofNat 21 n)] id else no .step 2)) ∧
    (Claims.writes o .step 0x58 s → exec (.stepGuardWrite o v) s =
      .next (if n ≤ 1048576 then with_ .step [.guard (BitVec.ofNat 21 n)] id else no .step 2)) ∧
    (Claims.writes o .lat 0x40 s →
      let k := v.toNat % 256
      exec (.latSelWrite o v) s = .next (if 1 ≤ k ∧ k ≤ 64 ∧ s.lat.honour.toNat / 2 ^ (k - 1) % 2 = 1 ∧ s.stepOpen = false ∧
          s.queuesEmpty = true ∧ s.range = [] then
        Claims.answered o .lat { s with lat := { s.lat with version := BitVec.ofNat 8 k } } else no .lat 0)) ∧
    (Claims.writes o .pwr 0x40 s →
      let c := v.toNat % 1024
      ((c < 64 ∨ 336 < c) → exec (.pwrCapWrite o v) s = .next (no .pwr 0)) ∧
      (64 ≤ c → c ≤ 336 → s.step.enable = true → exec (.pwrCapWrite o v) s = .next (with_ .pwr [.cap (BitVec.ofNat 10 c)] id)) ∧
      (64 ≤ c → c ≤ 336 → s.step.enable = false → (∀ e ∈ s.step.shadow, e.2.isCap = false) → exec (.pwrCapWrite o v) s =
        .next (Claims.answered o .pwr { s with pwr := { s.pwr with cap := BitVec.ofNat 10 c } }))) ∧
    (Claims.writes o .pwr 0x48 s → exec (.pwrWinWrite o v) s = .next (if v.toNat % 8 < 5 then
      Claims.answered o .pwr { s with pwr := { s.pwr with pWin := some (BitVec.ofNat 3 v.toNat) } } else no .pwr 0)) ∧
    (Claims.writes o .pwr 0x70 s →
      let t (k : Nat) : BitVec 8 := BitVec.ofNat 8 (v.toNat / 2 ^ (8 * k))
      exec (.pwrDroopWrite o v) s = .next (if 0 ≤ (t 0).toInt ∧ (t 0).toInt ≤ 40 ∧ -40 ≤ (t 1).toInt ∧
          (t 1).toInt ≤ (t 0).toInt - 5 ∧ -75 ≤ (t 2).toInt ∧ (t 2).toInt ≤ (t 1).toInt - 5 then
        Claims.answered o .pwr (relevel { s with pwr := { s.pwr with
          th1 := t 0, th2 := t 1, th3 := t 2, hold := BitVec.ofNat 16 (v.toNat / 2 ^ 32) } }) else no .pwr 0))

/-! ## Usher control -/

/-- Usher as its reset leaves it: every thread FREE with zero registers, every queue empty. -/
def Claims.usherFree (s : State) : Prop :=
  (∀ t, (s.thread t).st = .free ∧ ∀ r, (s.thread t).reg r = 0) ∧ s.queuesEmpty = true ∧ s.clu.fwidValid = false

/-- Thread `t` started at `pc`: its instruction can issue from the next cycle on (R67). -/
def Claims.begun (s : State) (t : Fin 16) (pc : BitVec 18) : Thread :=
  { s.thread t with pc := pc, st := .ready, fault := 0, notBefore := s.now + 1, stop := false }

/-- RUN starts thread 15 at 0 once the firmware part is measured and locked, and is refused before; clearing it resets
Usher and aborts a running task. The split changes while Usher is held and not locked; USH_TASK takes an identifier and a
state, LOADED over a job-fatal record excepted. A thread starts at an aligned pc from FREE, HALTED or FAULTED, and is
halted, after its instruction in progress, under its EXPECT. -/
def Claims.UsherControl : Prop :=
  ∀ (o : Originator) (t : Fin 16) (s : State) (v : BitVec 64),
    let n := v.toNat
    let th := s.thread t
    let no (p : Page) (bit : Nat) : State := Claims.answered o .ush (countEvt p bit s)
    let ready := s.clu.phase = .ready ∧ s.clu.hashDone = true ∧ s.clu.hashLocked = true
    (Claims.writes o .ush 0x40 s →
      (ready → s.ush.run = false → exec (.ushRunSet o v) s = .next (Claims.answered o .ush { s with ush := { s.ush with
        run := true, inHandler := false, threads := s.ush.threads.set 15 (Claims.begun s 15 0) } })) ∧
      (ready → s.ush.run = true → exec (.ushRunSet o v) s = .next (Claims.answered o .ush s)) ∧
      (¬ ready → exec (.ushRunSet o v) s = .next (no .clu 1)) ∧
      ∃ s', exec (.ushRunClear o v) s = .next s' ∧ s'.ush.run = false ∧ Claims.usherFree s' ∧ s'.mem = s.mem ∧
        s'.vec.v = s.vec.v ∧ (s.ush.task = .running → s'.ush.task = .aborted ∧ s'.evt.valid = true) ∧
        (s.ush.task ≠ .running → s'.ush.task = s.ush.task ∧ s'.evt = s.evt)) ∧
    (Claims.writes o .ush 0x48 s → exec (.ushImemSplitWrite o v) s =
      .next (if s.ush.run ∨ s.clu.hashLocked then no .clu 1
        else Claims.answered o .ush { s with ush := { s.ush with fwTop := BitVec.ofNat 6 (n / 2 ^ 12) } })) ∧
    (Claims.writes o .ush 0x50 s →
      ((n / 2 ^ 32 % 8 ≠ 1 ∨ s.evt.valid = false) → ∀ st, taskStateOf (n / 2 ^ 32 % 8) = some st →
        exec (.ushTaskWrite o v) s =
          .next (Claims.answered o .ush { s with ush := { s.ush with taskId := BitVec.ofNat 32 n, task := st } })) ∧
      (o = .mgmt → n / 2 ^ 32 % 8 = 1 → s.evt.valid = true → exec (.ushTaskWrite o v) s = .next (no .evt 0))) ∧
    (Claims.writes o .ush (0x180 + 8 * t.val) s →
      let same := n / 2 ^ 20 % 16 = th.st.code
      let free := th.st = .free ∨ th.st = .halted ∨ th.st = .faulted
      (same → free → n % 4 = 0 → s.ush.run = true → t ≠ 15 → exec (.threadStart o t v) s =
        .next (Claims.answered o .ush { s with ush := { s.ush with
          threads := s.ush.threads.set t (Claims.begun s t (BitVec.ofNat 18 n)),
          task := if s.ush.task = .loaded then .running else s.ush.task } })) ∧
      ((¬ same ∨ ¬ free) → exec (.threadStart o t v) s = .next (no .ush 0)) ∧
      (same → free → n % 4 ≠ 0 → exec (.threadStart o t v) s = .next (no .ush 4)) ∧
      let halt : Thread := if th.st.inProgress then { th with stop := true } else { th with st := .halted, stop := false }
      exec (.threadStop o t v) s = .next (if same then
        Claims.answered o .ush { s with ush := { s.ush with threads := s.ush.threads.set t halt } } else no .ush 0))

/-- The watchdog: setting ENABLE and a kick load PERIOD × 1,024; at zero Usher is reset, a task that ran is aborted and the
occurrence is job-fatal; thread 15 starts at 0 once the range table is empty. -/
def Claims.Watchdog : Prop :=
  ∀ (o : Originator) (s : State) (v : BitVec 64),
    let load (p : BitVec 16) : Nat := (if p = 0 then 1 else p.toNat) * 1024
    (Claims.writes o .clu 0x48 s → exec (.wdogKick o v) s =
      .next (Claims.answered o .clu { s with clu := { s.clu with wdogLeft := load s.clu.wdogPeriod } })) ∧
    (Claims.writes o .clu 0x40 s →
      let p := BitVec.ofNat 16 (v.toNat / 2 ^ 16)
      exec (.wdogCtlWrite o v) s = .next (Claims.answered o .clu { s with clu := { s.clu with
        wdogEn := v.toNat % 2 = 1, wdogPeriod := p,
        wdogLeft := if v.toNat % 2 = 1 ∧ s.clu.wdogEn = false then load p else s.clu.wdogLeft } })) ∧
    (s.clu.wdogEn = true → s.clu.wdogLeft = 0 → s.pwr.coolStopped = false →
      ∃ s', exec .wdogExpired s = .next s' ∧ Claims.usherFree s' ∧ s'.ush.restartPending = s.ush.run ∧
        s'.clu.wdogExpired = satInc s.clu.wdogExpired ∧ s'.clu.wdogLeft = load s.clu.wdogPeriod ∧ s'.mem = s.mem ∧
        (s'.hdrOf .clu).evt.toNat % 2 = 1 ∧
        s'.ush.task = (if s.ush.task = .running then .aborted else s.ush.task) ∧
        (s.ush.task = .running → s.evt.valid = false → s'.evt.valid = true ∧ s'.evt.code = 0x22 ∧ s'.evt.page = 0)) ∧
    ((s.clu.wdogEn = false ∨ s.clu.wdogLeft ≠ 0) → exec .wdogExpired s = .next s) ∧
    (s.ush.restartPending = true → s.ush.run = true → s.range = [] → s.clocked = true → exec .usherRestart s =
      .next { s with ush := { s.ush with
        restartPending := false, inHandler := false, threads := s.ush.threads.set 15 (Claims.begun s 15 0) } })

/-- Who runs on Usher: release and stop, tasks and threads, the watchdog and its restart. -/
def Obligations.UsherRuns : Prop := Claims.UsherControl ∧ Claims.Watchdog

/-! ## Power -/

/-- A coolant-loss stop stops the clocks and lowers step-ready, once. The required Banister level follows the lowest
voltage against V_min and the thresholds and lifts the held level with it, which drops by one each time HOLD cycles have
passed. With ENABLE 0 the inputs are sampled every 1,024 mark-time cycles.
A boundary restarts the interval's counts and changes no other state of the cluster. A conversion gives its sensor a reading
inside −40 to 150 degrees, flagged hot at its limit, and takes its VALID otherwise. -/
def Obligations.PowerEvents : Prop :=
  ∀ (s : State),
    let p := s.pwr
    let hold := if p.hold = 0 then 1 else p.hold.toNat
    (p.coolStopped = false → ∃ s', exec .coolStop s = .next s' ∧ s'.pwr.coolStopped = true ∧ s'.clocked = false ∧
      s'.step = { s.step with rdy := false } ∧ (s'.hdrOf .pwr).evt.toNat / 2 % 2 = 1 ∧ s'.mem = s.mem ∧ s'.ush = s.ush) ∧
    (p.coolStopped = true → exec .coolStop s = .next s) ∧
    (∀ v : Nat, p.coolStopped = false →
      let floor (th : BitVec 8) : Int := 1000 * (vMin p.op + th.toInt)
      let l : Fin 4 := if (v : Int) < floor p.th3 then 3 else if (v : Int) < floor p.th2 then 2
        else if (v : Int) < floor p.th1 then 1 else 0
      (p.heldLevel ≤ l → exec (.droopCrossing v) s =
        .next { s with pwr := { p with volt := v, reqLevel := l, heldLevel := l, holdLeft := hold } }) ∧
      (l < p.heldLevel → l < p.reqLevel → exec (.droopCrossing v) s =
        .next { s with pwr := { p with volt := v, reqLevel := l, holdLeft := hold } }) ∧
      (l < p.heldLevel → p.reqLevel ≤ l →
        exec (.droopCrossing v) s = .next { s with pwr := { p with volt := v, reqLevel := l } })) ∧
    (p.coolStopped = false → p.reqLevel < p.heldLevel → p.holdLeft = 0 →
      ∃ l : Fin 4, l.val + 1 = p.heldLevel.val ∧
        exec .banisterHoldExpire s = .next { s with pwr := { p with heldLevel := l, holdLeft := hold } }) ∧
    (∀ cap op, s.started = true → s.step.enable = false → s.clocked = true → 1024 ≤ s.step.freeMt →
      ∃ s', exec (.powerInputSample cap op) s = .next s' ∧ s'.pwr.capIn = cap ∧ s'.pwr.opIn = op ∧
        s'.step = { s.step with freeMt := s.step.freeMt - 1024 } ∧ s' = { s with pwr := s'.pwr, step := s'.step } ∧
        (s.step.mode = false → p.op = 2 → s'.pwr = { p with capIn := cap, opIn := op }) ∧
        (s.step.mode = false → p.op ≠ 2 → s'.pwr = { p with
          capIn := cap, opIn := op, switching := true, switchLeft := 32, opChg := p.opChg + 1 })) ∧
    (s.started = true → p.coolStopped = false → 1024 ≤ p.iMt →
      ∃ s', exec .balustradeInterval s = .next s' ∧ s'.pwr.iMt = p.iMt - 1024 ∧ s'.pwr.iCyc = 0 ∧ s'.pwr.iNonBubble = 0 ∧
        s'.pwr.win = p.pWin.getD p.win ∧ s'.pwr.pWin = none ∧ s'.energy = Vector.replicate 85 0 ∧
        s' = { s with energy := s'.energy, pwr := s'.pwr } ∧
        (∀ t : Fin 16, s'.pwr.eThr[t] = s.pwr.eThr[t] + BitVec.ofNat 64 (natSum 5 fun k => s.energyNj k t)) ∧
        (s.pwr.iNonBubble = 0 → s'.pwr.dem = s.pwr.dem) ∧
        (s'.pwr.dem + s'.pwr.leak ≤ (s.capForce : Rat) / 8 → s'.pwr.dens = 0)) ∧
    (∀ (k : Fin 16) (r : Int), (k.val < 12 ∨ s.build.tiers2 = true) → s.clu.phase ≠ .reset →
      let valid (s' : State) : Bool := s'.therm.valid.toNat / 2 ^ k.val % 2 = 1
      let hot (s' : State) : Bool := s'.therm.hot.toNat / 2 ^ k.val % 2 = 1
      ((r < -160 ∨ 600 < r) → ∃ s', exec (.thermConversion k r) s = .next s' ∧ valid s' = false ∧ hot s' = false ∧
        s'.therm.temp = s.therm.temp ∧ (s'.hdrOf .therm).evt.toNat / 4 % 2 = 1) ∧
      (-160 ≤ r → r ≤ 600 → ∃ s', exec (.thermConversion k r) s = .next s' ∧ valid s' = true ∧
        s'.therm.temp = s.therm.temp.set k (BitVec.ofInt 12 r) ∧
        hot s' = decide ((if k.val < 8 then (s.therm.oldLim.getD (s.therm.logicLim, s.therm.tierLim)).1
          else (s.therm.oldLim.getD (s.therm.logicLim, s.therm.tierLim)).2).toInt ≤ r) ∧
        s'.mem = s.mem ∧ s'.pwr = s.pwr))

/-! ## Events, the management port and the mailbox -/

/-- EVT_CTL clears the job-fatal record under its EXPECT while no step is open, and a management write cannot set LOADED over
one; writing a page's CLEAR clears the flags that this cycle did not set; a register write reaches the register at its
address, and a read answers what it reads; an address outside the pages is UNREACHABLE, or raises its store's fault, as does a
thread's address that is no multiple of 8. -/
def Obligations.EventsAndRegisters : Prop :=
  ∀ (o : Originator) (s : State) (v : BitVec 64),
    (Claims.writes o .evt 0x40 s →
      (v.toNat / 2 ^ 16 % 256 = s.evt.count.toNat → s.stepOpen = false →
        exec (.evtClear o v) s = .next (Claims.answered o .evt { s with evt := { s.evt with
          attnEn := v.toNat / 2 % 2 = 1, valid := false, code := 0, page := 0, srcSeq := 0, count := 0, tIndex := 0,
          tMtime := 0 } })) ∧
      ((v.toNat / 2 ^ 16 % 256 ≠ s.evt.count.toNat ∨ s.stepOpen = true) →
        exec (.evtClear o v) s = .next (Claims.answered o .evt (countEvt .evt 0 s)))) ∧
    (Claims.writes .mgmt .ush 0x50 s → v.toNat / 2 ^ 32 % 8 = 1 → s.evt.valid = true →
      exec (.ushTaskWrite .mgmt v) s = .next (Claims.answered .mgmt .ush (countEvt .evt 0 s))) ∧
    (∀ p : Page, Claims.writes o p 0x10 s → s.setNow = [] →
      exec (.pageEvtClear o (Fin.ofNat 64 p.slot.val) v) s = .next (Claims.answered o p
        (s.setHdr p { s.hdrOf p with tag := BitVec.ofNat 16 (v.toNat / 2 ^ 48), evt := 0 }))) ∧
    (∀ (p : Page) (off : Nat) (a : BitVec 32), a.toNat = 0x30000000 + 4096 * p.slot.val + off → off < 4096 → off % 8 = 0 →
      exec (.registerWrite o a v) s = .next (regStore o p off v s) ∧
      (s.reaches p off = true → ∀ d : BitVec 29, d.toNat * 8 = a.toNat →
        exec (.mgmtRegisterRead d) s = .next { (regRead p off s).2 with
          paged := p :: (regRead p off s).2.paged,
          mgmt := { (regRead p off s).2.mgmt with rstat := .ok, rdata := (regRead p off s).1 } })) ∧
    (∀ (t : Fin 16) (a : BitVec 32), 0x30000000 ≤ a.toNat → a.toNat < 0x30040000 → a.toNat % 8 ≠ 0 →
      s.usherActs = true → ∃ s', exec (.registerWrite (.thread t) a v) s = .next s' ∧ Claims.Faults s s' t 0x05) ∧
    (∀ a : BitVec 32, (a.toNat < 0x30000000 ∨ 0x30040000 ≤ a.toNat) →
      exec (.registerWrite .mgmt a v) s = .next { s with mgmt := { s.mgmt with
        rstat := .unreachable, cntErr := s.mgmt.cntErr + 1 } } ∧
      ∀ t, s.clocked = true → s.clu.phase = .ready → s.ush.run = true →
        ∃ s', exec (.registerWrite (.thread t) a v) s = .next s' ∧ Claims.Faults s s' t 0x01)

/-- The word at `a` can be accessed through the port now: it lies in Hall or Lower Hall, its bank has a free cycle, and its
group is ON. -/
def Claims.portWord (s : State) (a : Nat) : Prop :=
  s.clu.phase = .ready ∧ s.clocked = true ∧ s.mgmtBusy = false ∧ inSram s.build a 8 = true ∧ bankIdx a ∉ s.granted ∧
    s.repairAsks (bankIdx a) = false ∧ s.powerAt a = .on

/-- The port reads and writes aligned doublewords of Hall and Lower Hall, and of instruction memory, where a locked part
keeps its bytes; a line with one or two flagged words is answered after its replay, with every later request
waiting behind it; one with three answers UNCORR and keeps its bytes. A request waits for the firmware, which
takes one at a time and answers it under its sequence number; PING answers the firmware's identity, TASK_START starts the
task, EVT_SWEEP stores a record of each pending page, THREAD_RESTART starts a thread in inspection mode; each under its
EXPECT. -/
def Obligations.Management : Prop :=
  (∀ (d : BitVec 29) (v : BitVec 64) (flagged : BitVec 10) (s : State),
    let a := d.toNat * 8
    let n := ((List.range 10).filter fun i => flagged.toNat / 2 ^ i % 2 = 1).length
    (Claims.portWord s a → n = 0 → Memory.wf s.mem →
      (∃ s', exec (.mgmtMemRead d flagged) s = .next s' ∧ s'.mem = s.mem ∧ s'.mgmt.rstat = .ok ∧
        (∀ i < 8, (s'.mgmt.rdata).extractLsb' (8 * i) 8 = memByte s (a + i)) ∧ s'.granted = bankIdx a :: s.granted ∧
        s'.ush = s.ush ∧ s'.vec = s.vec) ∧
      ∃ s', exec (.mgmtMemWrite d v flagged) s = .next s' ∧ s'.mgmt.rstat = .ok ∧
        (∀ i < 8, memByte s' (a + i) = v.extractLsb' (8 * i) 8) ∧
        (∀ k, (k < a ∨ a + 8 ≤ k) → memByte s' k = memByte s k) ∧ s'.ush = s.ush ∧ s'.vec = s.vec) ∧
    (Claims.portWord s a → 1 ≤ n → n ≤ 2 →
      let replays (wr : Option (BitVec 64)) (s' : State) : Prop :=
        s'.mem = s.mem ∧ s'.mgmt.rstat = s.mgmt.rstat ∧ s'.mgmtBusy = true ∧
        s'.jobs.map (·.kind) = s.jobs.map (·.kind) ++ [.mgmt a wr] ∧
        ∃ x, s'.access = s.access ++ [x] ∧ x.ecc = .flagged ∧ x.words = flagged ∧ x.req.addr = a ∧ x.req.unit = .mgmt
      (∃ s', exec (.mgmtMemRead d flagged) s = .next s' ∧ replays none s') ∧
      ∃ s', exec (.mgmtMemWrite d v flagged) s = .next s' ∧ replays (some v) s') ∧
    (s.mgmtBusy = true → inPages a 8 = false → s.clu.phase = .ready → s.pwr.coolStopped = false →
      exec (.mgmtMemRead d flagged) s = .next s ∧ exec (.mgmtMemWrite d v flagged) s = .next s) ∧
    (Claims.portWord s a → 3 ≤ n → ∃ s', exec (.mgmtMemWrite d v flagged) s = .next s' ∧ s'.mem = s.mem ∧
      s'.mgmt.rstat = .uncorr ∧ (s.ush.task = .running → s'.ush.task = .aborted)) ∧
    (0x20000000 ≤ a → a < 0x20040000 → s.clu.phase = .ready → s.pwr.coolStopped = false → s.mgmtBusy = false →
      Memory.wf s.mem →
      ∃ s', exec (.mgmtMemWrite d v flagged) s = .next s' ∧ s'.mgmt.rstat = .ok ∧
        (s.clu.hashLocked = true → a < 0x20000000 + 4096 * s.ush.fwTop.toNat → s'.mem = s.mem) ∧
        ((s.clu.hashLocked = false ∨ 0x20000000 + 4096 * s.ush.fwTop.toNat ≤ a) →
          (∀ i < 8, memByte s' (a + i) = v.extractLsb' (8 * i) 8) ∧
          ∀ k, (k < a ∨ a + 8 ≤ k) → memByte s' k = memByte s k))) ∧
  (∀ (o : Originator) (s : State) (v : BitVec 64),
    (Claims.writes o .mgmt 0x48 s →
      (s.mgmt.pending = true → exec (.mgmtReqHdrWrite o v) s = .next (Claims.answered o .mgmt (countEvt .mgmt 1 s))) ∧
      (s.mgmt.pending = false → s.mgmt.reqSyncEn = false → exec (.mgmtReqHdrWrite o v) s =
        .next (Claims.answered o .mgmt { s with mgmt := { s.mgmt with
          pending := true, reqCmd := BitVec.ofNat 8 v.toNat, reqExpect := BitVec.ofNat 8 (v.toNat / 2 ^ 8),
          reqSeq := BitVec.ofNat 16 (v.toNat / 2 ^ 16) } })) ∧
      (s.mgmt.pending = false → s.mgmt.reqSyncEn = true → exec (.mgmtReqHdrWrite o v) s =
        .next (Claims.answered o .mgmt (signal s.mgmt.reqSync.toNat { s with mgmt := { s.mgmt with
          pending := true, reqCmd := BitVec.ofNat 8 v.toNat, reqExpect := BitVec.ofNat 8 (v.toNat / 2 ^ 8),
          reqSeq := BitVec.ofNat 16 (v.toNat / 2 ^ 16) } })))) ∧
    (Claims.writes o .mgmt 0x70 s →
      (s.mgmt.pending = true → v.toNat / 2 ^ 16 % 65536 = s.mgmt.reqSeq.toNat →
        exec (.mgmtRspHdrWrite o v) s = .next (Claims.answered o .mgmt (countEvt .mgmt 0 { s with mgmt := { s.mgmt with
          pending := false, rspStatus := BitVec.ofNat 8 v.toNat, rspSeq := s.mgmt.reqSeq } }))) ∧
      ((s.mgmt.pending = false ∨ v.toNat / 2 ^ 16 % 65536 ≠ s.mgmt.reqSeq.toNat) →
        exec (.mgmtRspHdrWrite o v) s = .next (Claims.answered o .mgmt (countEvt .mgmt 2 s))))) ∧
  ∀ s : State,
    let done (st : Nat) (s' : State) : Prop :=
      s'.mgmt.pending = false ∧ s'.mgmt.rspStatus.toNat = st ∧ s'.mgmt.rspSeq = s.mgmt.reqSeq
    (s.serves 0x01 = true → ∃ s', exec .mgmtPing s = .next s' ∧ done 0 s' ∧ s'.ush = s.ush ∧ s'.mem = s.mem ∧
      (s'.mgmt.data[0]).toNat = s.clu.fwVersion.toNat + 2 ^ 16 + 2 ^ 63) ∧
    (s.serves 0x02 = true →
      (s.mgmt.reqExpect.toNat ≠ s.ush.task.code → ∃ s', exec .mgmtTaskStart s = .next s' ∧ done 2 s' ∧ s'.ush = s.ush ∧
        s'.step = s.step) ∧
      (s.mgmt.reqExpect.toNat = s.ush.task.code → s.ush.task ≠ .loaded →
        ∃ s', exec .mgmtTaskStart s = .next s' ∧ done 3 s' ∧ s'.ush = s.ush ∧ s'.step = s.step) ∧
      (s.mgmt.reqExpect = 1 → s.ush.task = .loaded → hallBuffer s s.mgmt.args[0].toNat 128 = true →
        s.clearOf s.mgmt.args[0].toNat 128 false = true → s.step.phase = .idle → s.step.enable = false →
        (∀ t, t ≠ 15 → (s.thread t).st = .free ∧ memNat s (s.mgmt.args[0].toNat + 8 * t.val) 8 % 4 = 0) →
        ∃ s', exec .mgmtTaskStart s = .next s' ∧ done 0 s' ∧ s'.step.enable = true ∧ s'.mem = s.mem ∧
          (∀ t, t ≠ 15 → s.mgmt.args[1].toNat / 2 ^ t.val % 2 = 1 → (s'.thread t).st = .ready ∧
            (s'.thread t).pc = BitVec.ofNat 18 (memNat s (s.mgmt.args[0].toNat + 8 * t.val) 8)) ∧
          (∀ t, (t = 15 ∨ s.mgmt.args[1].toNat / 2 ^ t.val % 2 = 0) → s'.thread t = s.thread t) ∧
          (s.mgmt.args[1].toNat % 2 ^ 15 ≠ 0 → s'.ush.task = .running))) ∧
    (s.serves 0x03 = true → Memory.wf s.mem →
      let a := s.mgmt.args[0].toNat
      let pages := (Page.all.filter s.pendBit).take (s.mgmt.args[1].toNat / 24)
      hallBuffer s a (24 * pages.length) = true → s.clearOf a (24 * pages.length) true = true →
      ∃ s', exec .mgmtEvtSweep s = .next s' ∧ done 0 s' ∧ s'.mgmt.data[0] = s.evtPend ∧
        (s'.mgmt.data[1]).toNat = pages.length ∧ s'.ush = s.ush ∧
        (∀ i p, pages[i]? = some p → memNat s' (a + 24 * i) 8 = p.slot.val ∧
          memNat s' (a + 24 * i + 8) 8 = (s.hdrOf p).seq.toNat + 2 ^ 32 * (s.hdrOf p).logSeq.toNat ∧
          memNat s' (a + 24 * i + 16) 8 = (s.hdrOf p).log.toNat) ∧
        ∀ k, (k < a ∨ a + 24 * pages.length ≤ k) → memByte s' k = memByte s k) ∧
    (s.serves 0x04 = true → ∀ t : Fin 16, t ≠ 15 → s.mgmt.args[0].toNat = t.val →
      (s.mgmt.reqExpect.toNat ≠ (s.thread t).st.code → ∃ s', exec .mgmtThreadRestart s = .next s' ∧ done 2 s' ∧
        s'.ush = s.ush) ∧
      (s.mgmt.reqExpect.toNat = (s.thread t).st.code → s.clu.live = true → (s.thread t).st = .halted →
        s.mgmt.args[1].toNat % 4 = 0 → ∃ s', exec .mgmtThreadRestart s = .next s' ∧ done 0 s' ∧
          s'.thread t = { s.thread t with
            pc := BitVec.ofNat 18 s.mgmt.args[1].toNat, st := .ready, fault := 0, notBefore := s.now + 1, stop := false } ∧
          (∀ u, u ≠ t → s'.thread u = s.thread u) ∧ s'.mem = s.mem))

/-! ## Inspection and test ports -/

/-- The TEST registers after an inspection access. -/
def Claims.accessed (kind : Nat) (wr : Bool) (unit : BitVec 8) (index : BitVec 32) (err : Nat) (x : Test) : Test :=
  { x with iKind := BitVec.ofNat 3 kind, iOp := wr, iErr := BitVec.ofNat 3 err, iUnit := unit, iIndex := index }

/-- Bank byte of the 8-byte word `w` of tile register `t` (R386). -/
def Claims.tileWord (t w : Nat) : Nat := (w / 8 % 64 * 256 + 16 * t + w / 512) * 64 + 8 * (w % 8)

/-- An inspection access of an idle unit reads, or in inspection mode writes, a thread's register or pc, a lane, 64 mask
bits, eight tile bytes or a cell, and nothing else. A write outside inspection mode gives ERR 3, a unit or index that does
not exist ERR 1. -/
def Obligations.InspectionAccess : Prop :=
  ∀ (o : Originator) (u : BitVec 8) (i : BitVec 32) (s : State), Claims.writes o .test 0x100 s →
    let n := u.toNat
    let k := i.toNat
    let d := s.test.idata
    let got (kind : Nat) (v : BitVec 64) : State :=
      Claims.answered o .test { s with test := { Claims.accessed kind false u i 0 s.test with idata := v } }
    let set (kind : Nat) (s' : State) : State := Claims.answered o .test { s' with test := Claims.accessed kind true u i 0 s.test }
    let err (kind : Nat) (wr : Bool) (e : Nat) : State :=
      Claims.answered o .test { s with test := Claims.accessed kind wr u i e s.test }
    (∀ t : Fin 16, n = t.val → k < 32 → ((s.thread t).st = .free ∨ (s.thread t).st = .halted ∨ (s.thread t).st = .faulted) →
      exec (.testReadThreadReg o u i) s = .next (got 0 (if k = 0 then BitVec.ofNat 64 (s.thread t).pc.toNat
        else (s.thread t).reg (Fin.ofNat 32 k))) ∧
      (s.clu.live = true → k ≠ 0 → exec (.testWriteThreadReg o u i) s = .next (set 0 { s with ush := { s.ush with
        threads := s.ush.threads.set t { s.thread t with regs := (s.thread t).regs.set (Fin.ofNat 32 k) d } } })) ∧
      (s.clu.live = true → k = 0 → d.toNat % 4 = 0 → exec (.testWriteThreadReg o u i) s =
        .next (set 0 { s with ush := { s.ush with
          threads := s.ush.threads.set t { s.thread t with pc := BitVec.ofNat 18 d.toNat } } }))) ∧
    (n < 32 → k < 32 * s.build.vlen → (s.vecState = 0 ∨ s.vecState = 5) →
      exec (.testReadVreg o u i) s = .next (got 1 (BitVec.ofNat 64 (s.lane n k).toNat)) ∧
      (s.clu.live = true → exec (.testWriteVreg o u i) s =
        .next (set 1 { s with vec := { s.vec with v := s.vec.v.set (65536 * n + k) (BitVec.ofNat 32 d.toNat) } }))) ∧
    (n < 8 → k < s.build.vlen / 2 → (s.vecState = 0 ∨ s.vecState = 5) →
      (∃ v, exec (.testReadMask o u i) s = .next (got 2 v) ∧ ∀ j < 64, v.getLsbD j = s.mask n (64 * k + j)) ∧
      (s.clu.live = true → exec (.testWriteMask o u i) s = .next (set 2 (if n = 0 then s else { s with vec := { s.vec with
        k := s.vec.k.fill (65536 * n + 64 * k) 64 fun j => BitVec.ofBool (d.getLsbD j) } })))) ∧
    (∀ t : Fin 16, n = t.val → k < 8192 → (s.tileState = 0 ∨ s.tileState = 4) → s.tileInUse t = false →
      (∃ v, exec (.testReadTile o u i) s = .next (got 3 v) ∧
        ∀ j < 8, v.extractLsb' (8 * j) 8 = s.tile.words.get (Claims.tileWord n k + j)) ∧
      (s.clu.live = true → exec (.testWriteTile o u i) s = .next (set 3 { s with tile := { s.tile with
        words := s.tile.words.fill (Claims.tileWord n k) 8 fun j => d.extractLsb' (8 * j) 8 } }))) ∧
    (∀ a b : Fin 2, n = 2 * a.val + b.val → k < 16384 → (s.opaState a = 0 ∨ s.opaState a = 5) →
      exec (.testReadAcc o u i) s = .next (got 4 (BitVec.ofNat 64 ((s.opa[a].banks[b]).cells.get k).toNat)) ∧
      (s.clu.live = true → exec (.testWriteAcc o u i) s = .next (set 4 { s with opa := s.opa.set a { s.opa[a] with
        banks := s.opa[a].banks.set b { s.opa[a].banks[b] with
          cells := (s.opa[a].banks[b]).cells.set k (BitVec.ofNat 32 d.toNat) } } }))) ∧
    (s.clu.live = false → exec (.testWriteThreadReg o u i) s = .next (err 0 true 3) ∧
      exec (.testWriteVreg o u i) s = .next (err 1 true 3) ∧ exec (.testWriteMask o u i) s = .next (err 2 true 3) ∧
      exec (.testWriteTile o u i) s = .next (err 3 true 3) ∧ exec (.testWriteAcc o u i) s = .next (err 4 true 3)) ∧
    ((16 ≤ n ∨ 32 ≤ k) → exec (.testReadThreadReg o u i) s = .next (err 0 false 1)) ∧
    ((32 ≤ n ∨ 32 * s.build.vlen ≤ k) → exec (.testReadVreg o u i) s = .next (err 1 false 1)) ∧
    ((4 ≤ n ∨ 16384 ≤ k) → exec (.testReadAcc o u i) s = .next (err 4 false 1))

/-- The TAP instructions and the wrapper's: IDCODE shifts out 0x04A0476B, FUSEREAD the fuses, MBIST_RESULT the last march's
result; MBIST_RUN and the wrapper's instructions act in RESET and FAILED only. A march that ends leaves its classes, its spares, which
count as soft repairs, and a result. A test reset changes the test ports alone. -/
def Obligations.TestPorts : Prop :=
  ∀ s : State,
    let x := s.test
    let test (y : Test) : State := { s with test := y }
    let ok := s.clu.phase = .reset ∨ s.clu.phase = .failed
    let tap (ir : Nat) (dr : BitVec 4096) : State := test { x with tapIr := BitVec.ofNat 5 ir, tapDr := dr, irOk := true }
    let wir (k : Nat) : State := test { x with wrapper := BitVec.ofNat 3 k, wrActive := decide ok, wirOk := decide ok }
    exec .tapIdcode s = .next (tap 0x01 0x04A0476B) ∧
    exec .tapFuseread s = .next (tap 0x04 s.fuse.raw) ∧
    exec .tapMbistRun s = .next (test { x with
      tapIr := 0x08, tapDr := 0, irOk := decide ok, mbistBusy := x.mbistBusy || decide ok }) ∧
    exec .tapMbistResult s = .next (tap 0x09 (BitVec.ofNat 4096 x.mbistResult.toNat)) ∧
    exec .tapBypass s = .next (tap 0x1F 0) ∧
    exec .wsBypass s = .next (test { x with wrapper := 0, wrActive := false, wirOk := true }) ∧
    exec .wsExtest s = .next (wir 1) ∧
    exec .wsIntest s = .next (wir 2) ∧
    exec .wsBondtest s = .next (wir 3) ∧
    exec .wsUcieloop s = .next (wir 4) ∧
    exec .testReset s = .next (test { x with
      tapIr := 1, tapDr := 0, irOk := true, wirOk := true, wrapper := 0, wrActive := false, mbistBusy := false }) ∧
    ∀ r, x.mbistBusy = true → ∃ w, exec (.mbistMarchDone r) s = .next { s with
      freeIx := s.freeIx + 8,
      fuse := { s.fuse with soft := s.fuse.soft + r.spares.truncate 16 },
      test := { x with mbistBusy := false, mbistFail := r.fail, mbistSpares := r.spares, mbistResult := w } }

/-! ## Reset and start-up -/

/-- The start-up: RESET to FUSE, or to CLOCK with a loaded shadow; a sound fuse image to CLOCK, a bad one to FAILED; a locked
clock to SELFTEST, or to PASS on a fused-off cluster; a passed self-test to READY with its arrays zero, an array class
without a spare to FAILED with its cause. A power-on reset clears all; a cluster reset keeps the fuse shadow and the soft
repairs, counts, and starts from CLOCK. -/
def Obligations.StartUp : Prop :=
  ∀ s : State,
    let clu (c : Clu) : State := { s with clu := c }
    let failed (cause : Nat) (s' : State) : Prop := s'.clu.phase = .failed ∧ s'.clu.cause.toNat = cause ∧
      (s'.hdrOf .clu).evt.toNat / 4 % 2 = 1 ∧ s'.mem = s.mem
    (s.clu.phase = .reset → exec .resetRelease s =
      .next (clu { s.clu with phase := if s.fuse.loaded then .clock else .fuse })) ∧
    (∀ img : FuseImage, s.clu.phase = .fuse → s.pwr.coolStopped = false →
      ∃ s', exec (.fuseLoadDone img) s = .next s' ∧ s'.fuse.loaded = true ∧ s'.fuse.raw = img.raw ∧
        s'.fuse.fmaxOp = img.fmaxOp ∧ s'.fuse.pcapMax = img.pcapMax ∧ s'.fuse.passThru = img.passThru ∧
        s'.lat.honour = img.honour ∧ s'.lat.stepping = img.stepping ∧
        (img.bad = false → s'.clu = { s.clu with phase := .clock } ∧ s'.evt = s.evt ∧ s'.mem = s.mem) ∧
        (img.bad = true → failed 1 s')) ∧
    (s.clu.phase = .clock → s.pwr.coolStopped = false →
      (∃ s', exec .clockLocked s = .next s' ∧
        s'.clu = { s.clu with phase := if s.fuse.passThru then .pass else .selftest } ∧ s'.step.freeCycles = 0 ∧
        s'.mem = s.mem ∧ s'.ush = s.ush) ∧
      ∃ s', exec .clockLockFail s = .next s' ∧ failed 7 s') ∧
    (∀ spares, s.clu.phase = .selftest → s.pwr.coolStopped = false →
      (∃ s', exec (.selftestDone none spares) s = .next s' ∧ s'.clu = { s.clu with phase := .ready } ∧
        (∀ a, memByte s' a = 0) ∧ (∀ r n, s'.lane r n = 0) ∧ (∀ n, syncGet s' n = 0) ∧
        (∀ t : Fin 16, (s'.tile.regs[t]).shape = none) ∧ s'.vec.vl = 32 * s.build.vlen) ∧
      ∀ k : Fin 5, ∃ s', exec (.selftestDone (some k) spares) s = .next s' ∧ failed (k.val + 2) s') ∧
    (∃ s', exec .powerOnReset s = .next s' ∧ s' = { State.resetOf s.build with
      pending := s.pending, now := s.now, nextId := s.nextId, freeIx := s.freeIx }) ∧
    (∀ v, Claims.writes .mgmt .clu 0x58 s → ∃ s', exec (.clusterReset .mgmt v) s = .next s' ∧
      s'.fuse = s.fuse ∧ s'.lat.honour = s.lat.honour ∧ s'.clu.resets = satInc s.clu.resets ∧ s'.mem = [] ∧
      s'.ush.task = .none ∧ (∀ t, (s'.thread t).st = .free) ∧ s'.queuesEmpty = true ∧
      s'.clu.phase = if s.pwr.coolStopped ∨ s.fuse.loaded = false then .reset else .clock)

/-- CLU_HASH_CTL starts the digest of the firmware part and locks it; 80 cycles for each 128-byte block and the padding
block later CLU_HASH holds its SHA-384. CLU_MODE changes the inspection mode while no task runs, no step is open, no command
waits and no unit is held. CLU_FWID is written once. -/
def Obligations.FirmwareMeasure : Prop :=
  ∀ (o : Originator) (s : State) (v : BitVec 64),
    let no : State := Claims.answered o .clu (countEvt .clu 1 s)
    let n := 4096 * s.ush.fwTop.toNat
    (Claims.writes o .clu 0x70 s →
      let bad := s.clu.phase ≠ .ready ∨ s.ush.run = true ∨ s.ush.fwTop = 0 ∨ s.clu.hashBusy = true
      (bad → exec (.hashStart o v) s = .next no) ∧
      (¬ bad → exec (.hashStart o v) s = .next (Claims.answered o .clu { s with clu := { s.clu with
        hashBusy := true, hashDone := false, hashLocked := true, hashAt := s.now } }))) ∧
    (s.clu.hashBusy = true → s.clocked = true → s.clu.hashAt + 80 * (n / 128 + 1) ≤ s.now → exec .hashDone s =
      .next { s with clu := { s.clu with hashBusy := false, hashDone := true, digest := sha384 s n } }) ∧
    (s.clu.hashBusy = true → s.now < s.clu.hashAt + 80 * (n / 128 + 1) → exec .hashDone s = .next s) ∧
    (Claims.writes o .clu 0x60 s →
      let b := decide (v.toNat % 2 = 1)
      let free := s.ush.task ≠ .running ∧ s.stepOpen = false ∧ s.queuesEmpty = true ∧ s.someHeld = false
      (b ≠ s.clu.inspect → free → exec (.cluModeWrite o v) s =
        .next (Claims.answered o .clu { s with clu := { s.clu with inspect := b, live := b } })) ∧
      (b ≠ s.clu.inspect → ¬ free → exec (.cluModeWrite o v) s = .next no) ∧
      (b = s.clu.inspect → exec (.cluModeWrite o v) s = .next (Claims.answered o .clu s))) ∧
    (Claims.writes o .clu 0xB0 s → exec (.cluFwidWrite o v) s = .next (Claims.answered o .clu (if s.clu.fwidValid then s
      else { s with clu := { s.clu with
        fwVersion := BitVec.ofNat 16 v.toNat, ifMajor := BitVec.ofNat 8 (v.toNat / 2 ^ 16), fwidValid := true } })))

/-! ## The whole machine -/

/-- Every step keeps the canonical form of memory: addresses strictly rise, and no listed byte is what an unlisted address
reads as. -/
def Obligations.MemoryCanonical : Prop :=
  ∀ s s' : State, Memory.wf s.mem → step s = .next s' → Memory.wf s'.mem

/-- The state after reset meets the invariant of memory, and holds the values that the spec gives: phase RESET, no thread, no
command, no entry, STEP and PWR parameters, no latency version, no event. -/
def Obligations.ResetValues : Prop :=
  let s := State.reset
  Memory.wf s.mem ∧ s.pending = [] ∧ s.clu.phase = .reset ∧ s.range = [] ∧ s.queuesEmpty = true ∧
  (∀ t, (s.thread t).st = .free) ∧ s.ush.task = .none ∧ s.ush.run = false ∧
  s.step.phase = .idle ∧ s.step.enable = false ∧ s.step.len = 0x10000 ∧ s.step.slack = 0x7AE ∧ s.step.guard = 0x2000 ∧
  s.lat.version = 0 ∧ s.evt.valid = false ∧ s.evt.count = 0 ∧ (∀ p : Page, (s.hdrOf p).evt = 0)
end

