-- ==== Sys2Proof/Laws/Memory.lean ====
section
/-! SUPPORT. The canonical form of sparse stores and of memory: what reading after writing gives, that every operation keeps
the form, and that stores which read alike are equal. -/

namespace Sys2Proof.Machine

variable {β : Type} [DecidableEq β]

/-! ## The canonical form -/

theorem cellsWfFrom_iff (d : β) (b : Option Nat) (l : List (Nat × β)) :
    cellsWfFrom d b l = true ↔
      l.Pairwise (fun x y => x.1 < y.1) ∧ (∀ c ∈ l, c.2 ≠ d) ∧ ∀ m, b = some m → ∀ c ∈ l, m < c.1 := by
  induction l generalizing b with
  | nil => simp [cellsWfFrom]
  | cons c r ih =>
    obtain ⟨k, v⟩ := c
    simp only [cellsWfFrom, Bool.and_eq_true, ih, bne_iff_ne, List.pairwise_cons, List.mem_cons, forall_eq_or_imp,
      Option.some.injEq]
    constructor
    · rintro ⟨⟨hb, hv⟩, hp, hd, hk⟩
      refine ⟨⟨fun c hc => hk k rfl c hc, hp⟩, ⟨hv, hd⟩, fun m hm => ?_⟩
      subst hm
      have hb : m < k := by simpa using hb
      exact ⟨hb, fun c hc => Nat.lt_trans hb (hk k rfl c hc)⟩
    · rintro ⟨⟨hk, hp⟩, ⟨hv, hd⟩, hb⟩
      refine ⟨⟨?_, hv⟩, hp, hd, fun m hm c hc => hm ▸ hk c hc⟩
      cases b with
      | none => rfl
      | some m => simpa using (hb m rfl).1

theorem cellsWf_iff (d : β) (l : List (Nat × β)) :
    cellsWf d l = true ↔ l.Pairwise (fun x y => x.1 < y.1) ∧ ∀ c ∈ l, c.2 ≠ d := by
  simp [cellsWf, cellsWfFrom_iff]

theorem cellsWf_tail {d : β} {c : Nat × β} {l : List (Nat × β)} (h : cellsWf d (c :: l) = true) : cellsWf d l = true := by
  rw [cellsWf_iff] at h ⊢
  exact ⟨(List.pairwise_cons.mp h.1).2, fun x hx => h.2 x (List.mem_cons_of_mem _ hx)⟩

/-! ## Reading -/

omit [DecidableEq β] in
/-- A key below every key of the list reads as the default. -/
theorem cellsGet_below (d : β) (l : List (Nat × β)) (a : Nat) (h : ∀ c ∈ l, a < c.1) : cellsGet d l a = d := by
  cases l with
  | nil => rfl
  | cons c r =>
    have := h c (by simp)
    simp [cellsGet, Nat.ne_of_gt this, this]

/-- A canonical list reads as the pair it holds for a key. -/
theorem cellsGet_mem {d : β} {l : List (Nat × β)} (h : cellsWf d l = true) {a : Nat} {v : β} (m : (a, v) ∈ l) :
    cellsGet d l a = v := by
  induction l with
  | nil => simp at m
  | cons c r ih =>
    obtain ⟨k, w⟩ := c
    have hp := (List.pairwise_cons.mp ((cellsWf_iff d _).mp h).1).1
    rcases List.mem_cons.mp m with e | e
    · cases e; simp [cellsGet]
    · have := hp _ e
      simp only at this
      simp [cellsGet, Nat.ne_of_lt this, Nat.not_lt_of_lt this, ih (cellsWf_tail h) e]

/-- A key that a canonical list does not hold reads as the default. -/
theorem cellsGet_not_mem {d : β} {l : List (Nat × β)} (h : cellsWf d l = true) {a : Nat} (m : ∀ v, (a, v) ∉ l) :
    cellsGet d l a = d := by
  induction l with
  | nil => rfl
  | cons c r ih =>
    obtain ⟨k, w⟩ := c
    have hk : k ≠ a := fun e => m w (e ▸ List.mem_cons_self ..)
    simp only [cellsGet, hk, if_false]
    split
    · rfl
    · exact ih (cellsWf_tail h) fun v hv => m v (List.mem_cons_of_mem _ hv)

/-- A pair is in a canonical list exactly where the list reads so, and not as the default. -/
theorem mem_iff_cellsGet {d : β} {l : List (Nat × β)} (h : cellsWf d l = true) (a : Nat) (v : β) :
    (a, v) ∈ l ↔ cellsGet d l a = v ∧ v ≠ d := by
  constructor
  · exact fun m => ⟨cellsGet_mem h m, ((cellsWf_iff d l).mp h).2 _ m⟩
  · rintro ⟨hg, hv⟩
    by_contra hm
    by_cases hex : ∃ w, (a, w) ∈ l
    · obtain ⟨w, hw⟩ := hex
      exact hm ((cellsGet_mem h hw ▸ hg) ▸ hw)
    · exact hv (hg ▸ cellsGet_not_mem h fun w hw => hex ⟨w, hw⟩)

/-- Equal stores are equal data. -/
theorem cells_ext {d : β} {l m : List (Nat × β)} (hl : cellsWf d l = true) (hm : cellsWf d m = true)
    (h : ∀ a, cellsGet d l a = cellsGet d m a) : l = m := by
  have sorted (x : List (Nat × β)) (hx : cellsWf d x = true) : x.Pairwise (fun x y => x.1 < y.1) := ((cellsWf_iff d x).mp hx).1
  have nd (x : List (Nat × β)) (hx : cellsWf d x = true) : x.Nodup :=
    (sorted x hx).imp fun {a b} hab e => by subst e; exact Nat.lt_irrefl _ hab
  refine List.Perm.eq_of_pairwise (fun a b _ _ hab hba => absurd hba (Nat.not_lt_of_lt hab)) (sorted l hl) (sorted m hm) ?_
  refine (List.perm_ext_iff_of_nodup (nd l hl) (nd m hm)).mpr fun c => ?_
  obtain ⟨a, v⟩ := c
  rw [mem_iff_cellsGet hl, mem_iff_cellsGet hm, h]

/-! ## Writing -/

/-- The keys of a list after a write: those of the list, and the one written. -/
theorem cellsSet_keys {d : β} {a : Nat} {x : β} {l : List (Nat × β)} {c : Nat × β} (h : c ∈ cellsSet d a x l) :
    c ∈ l ∨ c = (a, x) ∧ x ≠ d := by
  induction l with
  | nil =>
    simp only [cellsSet] at h
    split at h <;> simp_all
  | cons e r ih =>
    obtain ⟨k, v⟩ := e
    simp only [cellsSet] at h
    split at h
    · rcases List.mem_cons.mp h with e | e
      · simp [e]
      · rcases ih e with i | i <;> simp [i]
    · split at h
      · split at h
        · simp [h]
        · rcases List.mem_cons.mp h with e | e <;> simp_all
      · split at h
        · simp_all
        · rcases List.mem_cons.mp h with e | e <;> simp_all

/-- A write keeps the canonical form. -/
theorem cellsSet_wf {d : β} {l : List (Nat × β)} (a : Nat) (x : β) (h : cellsWf d l = true) :
    cellsWf d (cellsSet d a x l) = true := by
  induction l with
  | nil =>
    simp only [cellsSet]
    split <;> simp_all [cellsWf, cellsWfFrom]
  | cons e r ih =>
    obtain ⟨k, v⟩ := e
    have hr := ih (cellsWf_tail h)
    rw [cellsWf_iff] at h hr ⊢
    obtain ⟨hp, hd⟩ := h
    rw [List.pairwise_cons] at hp
    simp only [cellsSet]
    split
    · rename_i hk
      refine ⟨List.pairwise_cons.mpr ⟨fun c hc => ?_, hr.1⟩, fun c hc => ?_⟩
      · rcases cellsSet_keys hc with i | i
        · exact hp.1 c i
        · rw [i.1]; exact hk
      · rcases List.mem_cons.mp hc with i | i
        · exact hd c (i ▸ List.mem_cons_self ..)
        · exact hr.2 c i
    · rename_i hk
      split
      · rename_i he
        have tail : ∀ c ∈ r, c.2 ≠ d := fun c hc => hd c (List.mem_cons_of_mem _ hc)
        split
        · exact ⟨hp.2, tail⟩
        · rename_i hx
          refine ⟨List.pairwise_cons.mpr ⟨fun c hc => he ▸ hp.1 c hc, hp.2⟩, fun c hc => ?_⟩
          rcases List.mem_cons.mp hc with i | i
          · rw [i]; exact hx
          · exact tail c i
      · rename_i he
        have lt : a < k := by omega
        split
        · exact ⟨List.pairwise_cons.mpr hp, hd⟩
        · rename_i hx
          refine ⟨List.pairwise_cons.mpr ⟨fun c hc => ?_, List.pairwise_cons.mpr hp⟩, fun c hc => ?_⟩
          · rcases List.mem_cons.mp hc with i | i
            · rw [i]; exact lt
            · exact Nat.lt_trans lt (hp.1 c i)
          · rcases List.mem_cons.mp hc with i | i
            · rw [i]; exact hx
            · exact hd c i

/-- Reading after a write of a canonical list. -/
theorem cellsGet_set {d : β} {l : List (Nat × β)} (h : cellsWf d l = true) (a b : Nat) (x : β) :
    cellsGet d (cellsSet d a x l) b = if b = a then x else cellsGet d l b := by
  induction l with
  | nil =>
    simp only [cellsSet, cellsGet]
    split
    · simp_all [cellsGet]
    · by_cases e : b = a
      · simp [cellsGet, e]
      · simp [cellsGet, e, Ne.symm e]
  | cons e r ih =>
    obtain ⟨k, v⟩ := e
    have ih := ih (cellsWf_tail h)
    have hp := (List.pairwise_cons.mp ((cellsWf_iff d _).mp h).1).1
    simp only [cellsSet]
    split
    · rename_i hk
      simp only [cellsGet, ih]
      by_cases e : k = b
      · subst e; simp [Nat.ne_of_lt hk]
      · by_cases e' : b = a
        · subst e'; simp [e, Nat.not_lt_of_lt hk]
        · simp [e']
    · split
      · rename_i he
        subst he
        split
        · rename_i hx
          subst hx
          by_cases e : b = k
          · subst e
            simp [cellsGet_below x r b fun c hc => hp c hc]
          · simp only [if_neg e, cellsGet, if_neg (Ne.symm e)]
            split
            · exact cellsGet_below x r b fun c hc => Nat.lt_trans ‹b < k› (hp c hc)
            · rfl
        · simp only [cellsGet]
          by_cases e : b = k
          · simp [e]
          · simp [e, Ne.symm e]
      · rename_i hk he
        have lt : a < k := by omega
        split
        · rename_i hx
          subst hx
          by_cases e : b = a
          · subst e
            simp [cellsGet, Nat.ne_of_gt lt, lt]
          · simp [e]
        · by_cases e : b = a
          · simp [cellsGet, e]
          · simp only [cellsGet, if_neg e, if_neg (Ne.symm e)]
            by_cases hb : b < a
            · simp [hb, Nat.lt_trans hb lt, Nat.ne_of_gt (Nat.lt_trans hb lt)]
            · simp [hb]

/-- Dropping cells keeps the canonical form. -/
theorem cells_filter_wf {d : β} {l : List (Nat × β)} (p : Nat × β → Bool) (h : cellsWf d l = true) :
    cellsWf d (l.filter p) = true := by
  rw [cellsWf_iff] at h ⊢
  exact ⟨h.1.sublist List.filter_sublist, fun c hc => h.2 c (List.mem_of_mem_filter hc)⟩

/-- Reading after the cells of some keys were dropped. -/
theorem cellsGet_filter {d : β} {l : List (Nat × β)} (p : Nat → Bool) (h : cellsWf d l = true) (a : Nat) :
    cellsGet d (l.filter fun c => p c.1) a = if p a then cellsGet d l a else d := by
  have hf := cells_filter_wf (fun c => p c.1) h
  by_cases hp : p a
  · simp only [hp, if_true]
    by_cases hex : ∃ v, (a, v) ∈ l
    · obtain ⟨v, hv⟩ := hex
      rw [cellsGet_mem h hv, cellsGet_mem hf (List.mem_filter.mpr ⟨hv, hp⟩)]
    · have no : ∀ v, (a, v) ∉ l := fun v hv => hex ⟨v, hv⟩
      rw [cellsGet_not_mem h no, cellsGet_not_mem hf fun v hv => no v (List.mem_of_mem_filter hv)]
  · rw [cellsGet_not_mem hf fun v hv => hp (List.mem_filter.mp hv).2]
    simp [hp]

/-- Filling a range keeps the canonical form. -/
theorem cellsFill_wf {d : β} {l : List (Nat × β)} (lo n : Nat) (f : Nat → β) (h : cellsWf d l = true) :
    cellsWf d (cellsFill d lo n f l) = true := by
  rw [cellsWf_iff] at h ⊢
  have mid (c : Nat × β) (hc : c ∈ (List.range n).filterMap fun i => if f i = d then none else some (lo + i, f i)) :
      lo ≤ c.1 ∧ c.1 < lo + n ∧ c.2 ≠ d := by
    obtain ⟨i, hi, e⟩ := List.mem_filterMap.mp hc
    split at e
    · simp at e
    · cases e
      exact ⟨Nat.le_add_right .., Nat.add_lt_add_left (List.mem_range.mp hi) _, ‹_›⟩
  have low (c : Nat × β) (hc : c ∈ l.filter fun c => c.1 < lo) : c.1 < lo := by
    simpa using (List.mem_filter.mp hc).2
  have high (c : Nat × β) (hc : c ∈ l.filter fun c => lo + n ≤ c.1) : lo + n ≤ c.1 := by
    simpa using (List.mem_filter.mp hc).2
  refine ⟨?_, fun c hc => ?_⟩
  · unfold cellsFill
    refine List.pairwise_append.mpr ⟨List.pairwise_append.mpr ⟨h.1.sublist List.filter_sublist, ?_, fun a ha b hb => ?_⟩,
      h.1.sublist List.filter_sublist, fun a ha b hb => ?_⟩
    · refine List.Pairwise.filterMap _ (R := (· < ·)) (fun i j hij a ha b hb => ?_) List.pairwise_lt_range
      split at ha <;> split at hb <;> simp_all
      subst ha; subst hb; exact Nat.add_lt_add_left hij lo
    · exact Nat.lt_of_lt_of_le (low a ha) (mid b hb).1
    · rcases List.mem_append.mp ha with i | i
      · have := low a i; have := high b hb; omega
      · have := (mid a i).2.1; have := high b hb; omega
  · unfold cellsFill at hc
    rcases List.mem_append.mp hc with i | i
    · rcases List.mem_append.mp i with i | i
      · exact h.2 c (List.mem_of_mem_filter i)
      · exact (mid c i).2.2
    · exact h.2 c (List.mem_of_mem_filter i)

/-- Reading after a fill. -/
theorem cellsGet_fill {d : β} {l : List (Nat × β)} (lo n : Nat) (f : Nat → β) (h : cellsWf d l = true) (a : Nat) :
    cellsGet d (cellsFill d lo n f l) a = if lo ≤ a ∧ a < lo + n then f (a - lo) else cellsGet d l a := by
  have hf := cellsFill_wf lo n f h
  have mem (v : β) : (a, v) ∈ cellsFill d lo n f l ↔
      (a, v) ∈ l ∧ ¬ (lo ≤ a ∧ a < lo + n) ∨ (lo ≤ a ∧ a < lo + n) ∧ f (a - lo) = v ∧ v ≠ d := by
    simp only [cellsFill, List.mem_append, List.mem_filter, List.mem_filterMap, List.mem_range, decide_eq_true_eq]
    constructor
    · rintro ((⟨hm, hl⟩ | ⟨i, hi, e⟩) | ⟨hm, hl⟩)
      · exact .inl ⟨hm, by omega⟩
      · split at e
        · simp at e
        · simp only [Option.some.injEq, Prod.mk.injEq] at e
          obtain ⟨rfl, rfl⟩ := e
          exact .inr ⟨⟨Nat.le_add_right .., Nat.add_lt_add_left hi _⟩, by simp, ‹_›⟩
      · exact .inl ⟨hm, by omega⟩
    · rintro (⟨hm, hl⟩ | ⟨hl, e, hv⟩)
      · by_cases lt : a < lo
        · exact .inl (.inl ⟨hm, lt⟩)
        · exact .inr ⟨hm, by omega⟩
      · exact .inl (.inr ⟨a - lo, by omega, by
          rw [e, if_neg hv, Nat.add_sub_cancel' hl.1]⟩)
  split
  · rename_i hin
    by_cases hd : f (a - lo) = d
    · rw [cellsGet_not_mem hf fun v hv => ?_, hd]
      rcases (mem v).mp hv with i | i
      · exact i.2 hin
      · exact i.2.2 (i.2.1 ▸ hd)
    · exact cellsGet_mem hf ((mem _).mpr (.inr ⟨hin, rfl, hd⟩))
  · rename_i hin
    by_cases hex : ∃ v, (a, v) ∈ l
    · obtain ⟨v, hv⟩ := hex
      rw [cellsGet_mem h hv, cellsGet_mem hf ((mem v).mpr (.inl ⟨hv, hin⟩))]
    · have no : ∀ v, (a, v) ∉ l := fun v hv => hex ⟨v, hv⟩
      rw [cellsGet_not_mem h no, cellsGet_not_mem hf fun v hv => ?_]
      rcases (mem v).mp hv with i | i
      · exact no v i.1
      · exact hin i.1

/-! ## Maps of words -/

@[simp] theorem SMap.set_dflt {w : Nat} (m : SMap w) (a : Nat) (x : BitVec w) : (m.set a x).dflt = m.dflt := rfl
@[simp] theorem SMap.fill_dflt {w : Nat} (m : SMap w) (lo n : Nat) (f : Nat → BitVec w) : (m.fill lo n f).dflt = m.dflt := rfl

theorem SMap.set_wf {w : Nat} {m : SMap w} (h : m.wf = true) (a : Nat) (x : BitVec w) : (m.set a x).wf = true :=
  cellsSet_wf a x h
theorem SMap.fill_wf {w : Nat} {m : SMap w} (h : m.wf = true) (lo n : Nat) (f : Nat → BitVec w) : (m.fill lo n f).wf = true :=
  cellsFill_wf lo n f h
theorem SMap.get_set {w : Nat} {m : SMap w} (h : m.wf = true) (a b : Nat) (x : BitVec w) :
    (m.set a x).get b = if b = a then x else m.get b := cellsGet_set h a b x
theorem SMap.get_fill {w : Nat} {m : SMap w} (h : m.wf = true) (lo n : Nat) (f : Nat → BitVec w) (a : Nat) :
    (m.fill lo n f).get a = if lo ≤ a ∧ a < lo + n then f (a - lo) else m.get a := cellsGet_fill lo n f h a

/-! ## Memory -/

theorem memStore_wf (cs m : List Host.Cell) (h : Memory.wf m) : Memory.wf (memStore cs m) := by
  induction cs generalizing m with
  | nil => exact h
  | cons c r ih => exact ih _ (cellsSet_wf c.1 c.2 h)

theorem memWrite_wf (a : Nat) (bytes : List (BitVec 8)) (s : State) (h : Memory.wf s.mem) :
    Memory.wf (memWrite a bytes s).mem := memStore_wf _ _ h

/-- A store leaves every byte it does not name. -/
theorem memStore_frame (cs m : List Host.Cell) (h : Memory.wf m) (a : Nat) (ha : ∀ c ∈ cs, c.1 ≠ a) :
    cellsGet 0 (memStore cs m) a = cellsGet 0 m a := by
  induction cs generalizing m with
  | nil => rfl
  | cons c r ih =>
    have hc : c.1 ≠ a := ha c (by simp)
    have step := ih (cellsSet 0 c.1 c.2 m) (cellsSet_wf c.1 c.2 h) fun x hx => ha x (List.mem_cons_of_mem _ hx)
    rw [cellsGet_set h, if_neg (Ne.symm hc)] at step
    exact step

/-- A store of cells with different addresses leaves each byte as its cell says. -/
theorem memStore_get (cs m : List Host.Cell) (h : Memory.wf m) (hd : cs.Pairwise fun x y => x.1 ≠ y.1) {a : Nat} {b : BitVec 8}
    (hb : (a, b) ∈ cs) : cellsGet 0 (memStore cs m) a = b := by
  induction cs generalizing m with
  | nil => simp at hb
  | cons c r ih =>
    rw [List.pairwise_cons] at hd
    rcases List.mem_cons.mp hb with e | e
    · subst e
      have := memStore_frame r (cellsSet 0 a b m) (cellsSet_wf a b h) a fun x hx => Ne.symm (hd.1 x hx)
      rw [cellsGet_set h, if_pos rfl] at this
      exact this
    · exact ih _ (cellsSet_wf c.1 c.2 h) hd.2 e

end Sys2Proof.Machine
end

