-- ==== Sys2Proof/Laws/State.lean ====
section
/-! SUPPORT. The named updates, field by field: what each leaves alone, true by unfolding, for `simp`. -/

namespace Sys2Proof.Machine

/-! ### State.setHdr -/

@[simp] theorem State.setHdr_pending (s : State) (p : Page) (h : PageHdr) :
    (s.setHdr p h).pending = s.pending := rfl
@[simp] theorem State.setHdr_build (s : State) (p : Page) (h : PageHdr) :
    (s.setHdr p h).build = s.build := rfl
@[simp] theorem State.setHdr_now (s : State) (p : Page) (h : PageHdr) :
    (s.setHdr p h).now = s.now := rfl
@[simp] theorem State.setHdr_nextId (s : State) (p : Page) (h : PageHdr) :
    (s.setHdr p h).nextId = s.nextId := rfl
@[simp] theorem State.setHdr_freeIx (s : State) (p : Page) (h : PageHdr) :
    (s.setHdr p h).freeIx = s.freeIx := rfl
@[simp] theorem State.setHdr_mem (s : State) (p : Page) (h : PageHdr) :
    (s.setHdr p h).mem = s.mem := rfl
@[simp] theorem State.setHdr_range (s : State) (p : Page) (h : PageHdr) :
    (s.setHdr p h).range = s.range := rfl
@[simp] theorem State.setHdr_reqs (s : State) (p : Page) (h : PageHdr) :
    (s.setHdr p h).reqs = s.reqs := rfl
@[simp] theorem State.setHdr_access (s : State) (p : Page) (h : PageHdr) :
    (s.setHdr p h).access = s.access := rfl
@[simp] theorem State.setHdr_jobs (s : State) (p : Page) (h : PageHdr) :
    (s.setHdr p h).jobs = s.jobs := rfl
@[simp] theorem State.setHdr_granted (s : State) (p : Page) (h : PageHdr) :
    (s.setHdr p h).granted = s.granted := rfl
@[simp] theorem State.setHdr_setNow (s : State) (p : Page) (h : PageHdr) :
    (s.setHdr p h).setNow = s.setNow := rfl
@[simp] theorem State.setHdr_paged (s : State) (p : Page) (h : PageHdr) :
    (s.setHdr p h).paged = s.paged := rfl
@[simp] theorem State.setHdr_rcOld (s : State) (p : Page) (h : PageHdr) :
    (s.setHdr p h).rcOld = s.rcOld := rfl
@[simp] theorem State.setHdr_clu (s : State) (p : Page) (h : PageHdr) :
    (s.setHdr p h).clu = s.clu := rfl
@[simp] theorem State.setHdr_ush (s : State) (p : Page) (h : PageHdr) :
    (s.setHdr p h).ush = s.ush := rfl
@[simp] theorem State.setHdr_step (s : State) (p : Page) (h : PageHdr) :
    (s.setHdr p h).step = s.step := rfl
@[simp] theorem State.setHdr_lat (s : State) (p : Page) (h : PageHdr) :
    (s.setHdr p h).lat = s.lat := rfl
@[simp] theorem State.setHdr_opa (s : State) (p : Page) (h : PageHdr) :
    (s.setHdr p h).opa = s.opa := rfl
@[simp] theorem State.setHdr_tile (s : State) (p : Page) (h : PageHdr) :
    (s.setHdr p h).tile = s.tile := rfl
@[simp] theorem State.setHdr_vec (s : State) (p : Page) (h : PageHdr) :
    (s.setHdr p h).vec = s.vec := rfl
@[simp] theorem State.setHdr_flt (s : State) (p : Page) (h : PageHdr) :
    (s.setHdr p h).flt = s.flt := rfl
@[simp] theorem State.setHdr_hall (s : State) (p : Page) (h : PageHdr) :
    (s.setHdr p h).hall = s.hall := rfl
@[simp] theorem State.setHdr_lhall (s : State) (p : Page) (h : PageHdr) :
    (s.setHdr p h).lhall = s.lhall := rfl
@[simp] theorem State.setHdr_land (s : State) (p : Page) (h : PageHdr) :
    (s.setHdr p h).land = s.land := rfl
@[simp] theorem State.setHdr_strm (s : State) (p : Page) (h : PageHdr) :
    (s.setHdr p h).strm = s.strm := rfl
@[simp] theorem State.setHdr_gal (s : State) (p : Page) (h : PageHdr) :
    (s.setHdr p h).gal = s.gal := rfl
@[simp] theorem State.setHdr_fab (s : State) (p : Page) (h : PageHdr) :
    (s.setHdr p h).fab = s.fab := rfl
@[simp] theorem State.setHdr_win (s : State) (p : Page) (h : PageHdr) :
    (s.setHdr p h).win = s.win := rfl
@[simp] theorem State.setHdr_sync (s : State) (p : Page) (h : PageHdr) :
    (s.setHdr p h).sync = s.sync := rfl
@[simp] theorem State.setHdr_pwr (s : State) (p : Page) (h : PageHdr) :
    (s.setHdr p h).pwr = s.pwr := rfl
@[simp] theorem State.setHdr_energy (s : State) (p : Page) (h : PageHdr) :
    (s.setHdr p h).energy = s.energy := rfl
@[simp] theorem State.setHdr_therm (s : State) (p : Page) (h : PageHdr) :
    (s.setHdr p h).therm = s.therm := rfl
@[simp] theorem State.setHdr_evt (s : State) (p : Page) (h : PageHdr) :
    (s.setHdr p h).evt = s.evt := rfl
@[simp] theorem State.setHdr_mgmt (s : State) (p : Page) (h : PageHdr) :
    (s.setHdr p h).mgmt = s.mgmt := rfl
@[simp] theorem State.setHdr_test (s : State) (p : Page) (h : PageHdr) :
    (s.setHdr p h).test = s.test := rfl
@[simp] theorem State.setHdr_fuse (s : State) (p : Page) (h : PageHdr) :
    (s.setHdr p h).fuse = s.fuse := rfl

/-! ### State.noteSet -/

@[simp] theorem State.noteSet_pending (s : State) (p : Page) (b : Nat) :
    (s.noteSet p b).pending = s.pending := rfl
@[simp] theorem State.noteSet_build (s : State) (p : Page) (b : Nat) :
    (s.noteSet p b).build = s.build := rfl
@[simp] theorem State.noteSet_now (s : State) (p : Page) (b : Nat) :
    (s.noteSet p b).now = s.now := rfl
@[simp] theorem State.noteSet_nextId (s : State) (p : Page) (b : Nat) :
    (s.noteSet p b).nextId = s.nextId := rfl
@[simp] theorem State.noteSet_freeIx (s : State) (p : Page) (b : Nat) :
    (s.noteSet p b).freeIx = s.freeIx := rfl
@[simp] theorem State.noteSet_hdr (s : State) (p : Page) (b : Nat) :
    (s.noteSet p b).hdr = s.hdr := rfl
@[simp] theorem State.noteSet_mem (s : State) (p : Page) (b : Nat) :
    (s.noteSet p b).mem = s.mem := rfl
@[simp] theorem State.noteSet_range (s : State) (p : Page) (b : Nat) :
    (s.noteSet p b).range = s.range := rfl
@[simp] theorem State.noteSet_reqs (s : State) (p : Page) (b : Nat) :
    (s.noteSet p b).reqs = s.reqs := rfl
@[simp] theorem State.noteSet_access (s : State) (p : Page) (b : Nat) :
    (s.noteSet p b).access = s.access := rfl
@[simp] theorem State.noteSet_jobs (s : State) (p : Page) (b : Nat) :
    (s.noteSet p b).jobs = s.jobs := rfl
@[simp] theorem State.noteSet_granted (s : State) (p : Page) (b : Nat) :
    (s.noteSet p b).granted = s.granted := rfl
@[simp] theorem State.noteSet_paged (s : State) (p : Page) (b : Nat) :
    (s.noteSet p b).paged = s.paged := rfl
@[simp] theorem State.noteSet_rcOld (s : State) (p : Page) (b : Nat) :
    (s.noteSet p b).rcOld = s.rcOld := rfl
@[simp] theorem State.noteSet_clu (s : State) (p : Page) (b : Nat) :
    (s.noteSet p b).clu = s.clu := rfl
@[simp] theorem State.noteSet_ush (s : State) (p : Page) (b : Nat) :
    (s.noteSet p b).ush = s.ush := rfl
@[simp] theorem State.noteSet_step (s : State) (p : Page) (b : Nat) :
    (s.noteSet p b).step = s.step := rfl
@[simp] theorem State.noteSet_lat (s : State) (p : Page) (b : Nat) :
    (s.noteSet p b).lat = s.lat := rfl
@[simp] theorem State.noteSet_opa (s : State) (p : Page) (b : Nat) :
    (s.noteSet p b).opa = s.opa := rfl
@[simp] theorem State.noteSet_tile (s : State) (p : Page) (b : Nat) :
    (s.noteSet p b).tile = s.tile := rfl
@[simp] theorem State.noteSet_vec (s : State) (p : Page) (b : Nat) :
    (s.noteSet p b).vec = s.vec := rfl
@[simp] theorem State.noteSet_flt (s : State) (p : Page) (b : Nat) :
    (s.noteSet p b).flt = s.flt := rfl
@[simp] theorem State.noteSet_hall (s : State) (p : Page) (b : Nat) :
    (s.noteSet p b).hall = s.hall := rfl
@[simp] theorem State.noteSet_lhall (s : State) (p : Page) (b : Nat) :
    (s.noteSet p b).lhall = s.lhall := rfl
@[simp] theorem State.noteSet_land (s : State) (p : Page) (b : Nat) :
    (s.noteSet p b).land = s.land := rfl
@[simp] theorem State.noteSet_strm (s : State) (p : Page) (b : Nat) :
    (s.noteSet p b).strm = s.strm := rfl
@[simp] theorem State.noteSet_gal (s : State) (p : Page) (b : Nat) :
    (s.noteSet p b).gal = s.gal := rfl
@[simp] theorem State.noteSet_fab (s : State) (p : Page) (b : Nat) :
    (s.noteSet p b).fab = s.fab := rfl
@[simp] theorem State.noteSet_win (s : State) (p : Page) (b : Nat) :
    (s.noteSet p b).win = s.win := rfl
@[simp] theorem State.noteSet_sync (s : State) (p : Page) (b : Nat) :
    (s.noteSet p b).sync = s.sync := rfl
@[simp] theorem State.noteSet_pwr (s : State) (p : Page) (b : Nat) :
    (s.noteSet p b).pwr = s.pwr := rfl
@[simp] theorem State.noteSet_energy (s : State) (p : Page) (b : Nat) :
    (s.noteSet p b).energy = s.energy := rfl
@[simp] theorem State.noteSet_therm (s : State) (p : Page) (b : Nat) :
    (s.noteSet p b).therm = s.therm := rfl
@[simp] theorem State.noteSet_evt (s : State) (p : Page) (b : Nat) :
    (s.noteSet p b).evt = s.evt := rfl
@[simp] theorem State.noteSet_mgmt (s : State) (p : Page) (b : Nat) :
    (s.noteSet p b).mgmt = s.mgmt := rfl
@[simp] theorem State.noteSet_test (s : State) (p : Page) (b : Nat) :
    (s.noteSet p b).test = s.test := rfl
@[simp] theorem State.noteSet_fuse (s : State) (p : Page) (b : Nat) :
    (s.noteSet p b).fuse = s.fuse := rfl

/-! ### State.shiftSrc -/

@[simp] theorem State.shiftSrc_pending (s : State) (p : Page) (k : Nat) :
    (s.shiftSrc p k).pending = s.pending := by unfold State.shiftSrc; split <;> rfl
@[simp] theorem State.shiftSrc_build (s : State) (p : Page) (k : Nat) :
    (s.shiftSrc p k).build = s.build := by unfold State.shiftSrc; split <;> rfl
@[simp] theorem State.shiftSrc_now (s : State) (p : Page) (k : Nat) :
    (s.shiftSrc p k).now = s.now := by unfold State.shiftSrc; split <;> rfl
@[simp] theorem State.shiftSrc_nextId (s : State) (p : Page) (k : Nat) :
    (s.shiftSrc p k).nextId = s.nextId := by unfold State.shiftSrc; split <;> rfl
@[simp] theorem State.shiftSrc_freeIx (s : State) (p : Page) (k : Nat) :
    (s.shiftSrc p k).freeIx = s.freeIx := by unfold State.shiftSrc; split <;> rfl
@[simp] theorem State.shiftSrc_hdr (s : State) (p : Page) (k : Nat) :
    (s.shiftSrc p k).hdr = s.hdr := by unfold State.shiftSrc; split <;> rfl
@[simp] theorem State.shiftSrc_mem (s : State) (p : Page) (k : Nat) :
    (s.shiftSrc p k).mem = s.mem := by unfold State.shiftSrc; split <;> rfl
@[simp] theorem State.shiftSrc_range (s : State) (p : Page) (k : Nat) :
    (s.shiftSrc p k).range = s.range := by unfold State.shiftSrc; split <;> rfl
@[simp] theorem State.shiftSrc_reqs (s : State) (p : Page) (k : Nat) :
    (s.shiftSrc p k).reqs = s.reqs := by unfold State.shiftSrc; split <;> rfl
@[simp] theorem State.shiftSrc_access (s : State) (p : Page) (k : Nat) :
    (s.shiftSrc p k).access = s.access := by unfold State.shiftSrc; split <;> rfl
@[simp] theorem State.shiftSrc_jobs (s : State) (p : Page) (k : Nat) :
    (s.shiftSrc p k).jobs = s.jobs := by unfold State.shiftSrc; split <;> rfl
@[simp] theorem State.shiftSrc_granted (s : State) (p : Page) (k : Nat) :
    (s.shiftSrc p k).granted = s.granted := by unfold State.shiftSrc; split <;> rfl
@[simp] theorem State.shiftSrc_setNow (s : State) (p : Page) (k : Nat) :
    (s.shiftSrc p k).setNow = s.setNow := by unfold State.shiftSrc; split <;> rfl
@[simp] theorem State.shiftSrc_paged (s : State) (p : Page) (k : Nat) :
    (s.shiftSrc p k).paged = s.paged := by unfold State.shiftSrc; split <;> rfl
@[simp] theorem State.shiftSrc_rcOld (s : State) (p : Page) (k : Nat) :
    (s.shiftSrc p k).rcOld = s.rcOld := by unfold State.shiftSrc; split <;> rfl
@[simp] theorem State.shiftSrc_clu (s : State) (p : Page) (k : Nat) :
    (s.shiftSrc p k).clu = s.clu := by unfold State.shiftSrc; split <;> rfl
@[simp] theorem State.shiftSrc_ush (s : State) (p : Page) (k : Nat) :
    (s.shiftSrc p k).ush = s.ush := by unfold State.shiftSrc; split <;> rfl
@[simp] theorem State.shiftSrc_step (s : State) (p : Page) (k : Nat) :
    (s.shiftSrc p k).step = s.step := by unfold State.shiftSrc; split <;> rfl
@[simp] theorem State.shiftSrc_lat (s : State) (p : Page) (k : Nat) :
    (s.shiftSrc p k).lat = s.lat := by unfold State.shiftSrc; split <;> rfl
@[simp] theorem State.shiftSrc_opa (s : State) (p : Page) (k : Nat) :
    (s.shiftSrc p k).opa = s.opa := by unfold State.shiftSrc; split <;> rfl
@[simp] theorem State.shiftSrc_tile (s : State) (p : Page) (k : Nat) :
    (s.shiftSrc p k).tile = s.tile := by unfold State.shiftSrc; split <;> rfl
@[simp] theorem State.shiftSrc_vec (s : State) (p : Page) (k : Nat) :
    (s.shiftSrc p k).vec = s.vec := by unfold State.shiftSrc; split <;> rfl
@[simp] theorem State.shiftSrc_flt (s : State) (p : Page) (k : Nat) :
    (s.shiftSrc p k).flt = s.flt := by unfold State.shiftSrc; split <;> rfl
@[simp] theorem State.shiftSrc_hall (s : State) (p : Page) (k : Nat) :
    (s.shiftSrc p k).hall = s.hall := by unfold State.shiftSrc; split <;> rfl
@[simp] theorem State.shiftSrc_lhall (s : State) (p : Page) (k : Nat) :
    (s.shiftSrc p k).lhall = s.lhall := by unfold State.shiftSrc; split <;> rfl
@[simp] theorem State.shiftSrc_land (s : State) (p : Page) (k : Nat) :
    (s.shiftSrc p k).land = s.land := by unfold State.shiftSrc; split <;> rfl
@[simp] theorem State.shiftSrc_strm (s : State) (p : Page) (k : Nat) :
    (s.shiftSrc p k).strm = s.strm := by unfold State.shiftSrc; split <;> rfl
@[simp] theorem State.shiftSrc_gal (s : State) (p : Page) (k : Nat) :
    (s.shiftSrc p k).gal = s.gal := by unfold State.shiftSrc; split <;> rfl
@[simp] theorem State.shiftSrc_fab (s : State) (p : Page) (k : Nat) :
    (s.shiftSrc p k).fab = s.fab := by unfold State.shiftSrc; split <;> rfl
@[simp] theorem State.shiftSrc_win (s : State) (p : Page) (k : Nat) :
    (s.shiftSrc p k).win = s.win := by unfold State.shiftSrc; split <;> rfl
@[simp] theorem State.shiftSrc_sync (s : State) (p : Page) (k : Nat) :
    (s.shiftSrc p k).sync = s.sync := by unfold State.shiftSrc; split <;> rfl
@[simp] theorem State.shiftSrc_pwr (s : State) (p : Page) (k : Nat) :
    (s.shiftSrc p k).pwr = s.pwr := by unfold State.shiftSrc; split <;> rfl
@[simp] theorem State.shiftSrc_energy (s : State) (p : Page) (k : Nat) :
    (s.shiftSrc p k).energy = s.energy := by unfold State.shiftSrc; split <;> rfl
@[simp] theorem State.shiftSrc_therm (s : State) (p : Page) (k : Nat) :
    (s.shiftSrc p k).therm = s.therm := by unfold State.shiftSrc; split <;> rfl
@[simp] theorem State.shiftSrc_mgmt (s : State) (p : Page) (k : Nat) :
    (s.shiftSrc p k).mgmt = s.mgmt := by unfold State.shiftSrc; split <;> rfl
@[simp] theorem State.shiftSrc_test (s : State) (p : Page) (k : Nat) :
    (s.shiftSrc p k).test = s.test := by unfold State.shiftSrc; split <;> rfl
@[simp] theorem State.shiftSrc_fuse (s : State) (p : Page) (k : Nat) :
    (s.shiftSrc p k).fuse = s.fuse := by unfold State.shiftSrc; split <;> rfl

/-! ### countEvt -/

@[simp] theorem countEvt_pending (p : Page) (b : Nat) (s : State) :
    (countEvt p b s).pending = s.pending := by simp [countEvt]
@[simp] theorem countEvt_build (p : Page) (b : Nat) (s : State) :
    (countEvt p b s).build = s.build := by simp [countEvt]
@[simp] theorem countEvt_now (p : Page) (b : Nat) (s : State) :
    (countEvt p b s).now = s.now := by simp [countEvt]
@[simp] theorem countEvt_nextId (p : Page) (b : Nat) (s : State) :
    (countEvt p b s).nextId = s.nextId := by simp [countEvt]
@[simp] theorem countEvt_freeIx (p : Page) (b : Nat) (s : State) :
    (countEvt p b s).freeIx = s.freeIx := by simp [countEvt]
@[simp] theorem countEvt_mem (p : Page) (b : Nat) (s : State) :
    (countEvt p b s).mem = s.mem := by simp [countEvt]
@[simp] theorem countEvt_range (p : Page) (b : Nat) (s : State) :
    (countEvt p b s).range = s.range := by simp [countEvt]
@[simp] theorem countEvt_reqs (p : Page) (b : Nat) (s : State) :
    (countEvt p b s).reqs = s.reqs := by simp [countEvt]
@[simp] theorem countEvt_access (p : Page) (b : Nat) (s : State) :
    (countEvt p b s).access = s.access := by simp [countEvt]
@[simp] theorem countEvt_jobs (p : Page) (b : Nat) (s : State) :
    (countEvt p b s).jobs = s.jobs := by simp [countEvt]
@[simp] theorem countEvt_granted (p : Page) (b : Nat) (s : State) :
    (countEvt p b s).granted = s.granted := by simp [countEvt]
@[simp] theorem countEvt_paged (p : Page) (b : Nat) (s : State) :
    (countEvt p b s).paged = s.paged := by simp [countEvt]
@[simp] theorem countEvt_rcOld (p : Page) (b : Nat) (s : State) :
    (countEvt p b s).rcOld = s.rcOld := by simp [countEvt]
@[simp] theorem countEvt_clu (p : Page) (b : Nat) (s : State) :
    (countEvt p b s).clu = s.clu := by simp [countEvt]
@[simp] theorem countEvt_ush (p : Page) (b : Nat) (s : State) :
    (countEvt p b s).ush = s.ush := by simp [countEvt]
@[simp] theorem countEvt_step (p : Page) (b : Nat) (s : State) :
    (countEvt p b s).step = s.step := by simp [countEvt]
@[simp] theorem countEvt_lat (p : Page) (b : Nat) (s : State) :
    (countEvt p b s).lat = s.lat := by simp [countEvt]
@[simp] theorem countEvt_opa (p : Page) (b : Nat) (s : State) :
    (countEvt p b s).opa = s.opa := by simp [countEvt]
@[simp] theorem countEvt_tile (p : Page) (b : Nat) (s : State) :
    (countEvt p b s).tile = s.tile := by simp [countEvt]
@[simp] theorem countEvt_vec (p : Page) (b : Nat) (s : State) :
    (countEvt p b s).vec = s.vec := by simp [countEvt]
@[simp] theorem countEvt_flt (p : Page) (b : Nat) (s : State) :
    (countEvt p b s).flt = s.flt := by simp [countEvt]
@[simp] theorem countEvt_hall (p : Page) (b : Nat) (s : State) :
    (countEvt p b s).hall = s.hall := by simp [countEvt]
@[simp] theorem countEvt_lhall (p : Page) (b : Nat) (s : State) :
    (countEvt p b s).lhall = s.lhall := by simp [countEvt]
@[simp] theorem countEvt_land (p : Page) (b : Nat) (s : State) :
    (countEvt p b s).land = s.land := by simp [countEvt]
@[simp] theorem countEvt_strm (p : Page) (b : Nat) (s : State) :
    (countEvt p b s).strm = s.strm := by simp [countEvt]
@[simp] theorem countEvt_gal (p : Page) (b : Nat) (s : State) :
    (countEvt p b s).gal = s.gal := by simp [countEvt]
@[simp] theorem countEvt_fab (p : Page) (b : Nat) (s : State) :
    (countEvt p b s).fab = s.fab := by simp [countEvt]
@[simp] theorem countEvt_win (p : Page) (b : Nat) (s : State) :
    (countEvt p b s).win = s.win := by simp [countEvt]
@[simp] theorem countEvt_sync (p : Page) (b : Nat) (s : State) :
    (countEvt p b s).sync = s.sync := by simp [countEvt]
@[simp] theorem countEvt_pwr (p : Page) (b : Nat) (s : State) :
    (countEvt p b s).pwr = s.pwr := by simp [countEvt]
@[simp] theorem countEvt_energy (p : Page) (b : Nat) (s : State) :
    (countEvt p b s).energy = s.energy := by simp [countEvt]
@[simp] theorem countEvt_therm (p : Page) (b : Nat) (s : State) :
    (countEvt p b s).therm = s.therm := by simp [countEvt]
@[simp] theorem countEvt_mgmt (p : Page) (b : Nat) (s : State) :
    (countEvt p b s).mgmt = s.mgmt := by simp [countEvt]
@[simp] theorem countEvt_test (p : Page) (b : Nat) (s : State) :
    (countEvt p b s).test = s.test := by simp [countEvt]
@[simp] theorem countEvt_fuse (p : Page) (b : Nat) (s : State) :
    (countEvt p b s).fuse = s.fuse := by simp [countEvt]

/-! ### logEvt -/

@[simp] theorem logEvt_pending (p : Page) (b : Nat) (l : BitVec 64) (s : State) :
    (logEvt p b l s).pending = s.pending := by simp only [logEvt]; split <;> simp
@[simp] theorem logEvt_build (p : Page) (b : Nat) (l : BitVec 64) (s : State) :
    (logEvt p b l s).build = s.build := by simp only [logEvt]; split <;> simp
@[simp] theorem logEvt_now (p : Page) (b : Nat) (l : BitVec 64) (s : State) :
    (logEvt p b l s).now = s.now := by simp only [logEvt]; split <;> simp
@[simp] theorem logEvt_nextId (p : Page) (b : Nat) (l : BitVec 64) (s : State) :
    (logEvt p b l s).nextId = s.nextId := by simp only [logEvt]; split <;> simp
@[simp] theorem logEvt_freeIx (p : Page) (b : Nat) (l : BitVec 64) (s : State) :
    (logEvt p b l s).freeIx = s.freeIx := by simp only [logEvt]; split <;> simp
@[simp] theorem logEvt_mem (p : Page) (b : Nat) (l : BitVec 64) (s : State) :
    (logEvt p b l s).mem = s.mem := by simp only [logEvt]; split <;> simp
@[simp] theorem logEvt_range (p : Page) (b : Nat) (l : BitVec 64) (s : State) :
    (logEvt p b l s).range = s.range := by simp only [logEvt]; split <;> simp
@[simp] theorem logEvt_reqs (p : Page) (b : Nat) (l : BitVec 64) (s : State) :
    (logEvt p b l s).reqs = s.reqs := by simp only [logEvt]; split <;> simp
@[simp] theorem logEvt_access (p : Page) (b : Nat) (l : BitVec 64) (s : State) :
    (logEvt p b l s).access = s.access := by simp only [logEvt]; split <;> simp
@[simp] theorem logEvt_jobs (p : Page) (b : Nat) (l : BitVec 64) (s : State) :
    (logEvt p b l s).jobs = s.jobs := by simp only [logEvt]; split <;> simp
@[simp] theorem logEvt_granted (p : Page) (b : Nat) (l : BitVec 64) (s : State) :
    (logEvt p b l s).granted = s.granted := by simp only [logEvt]; split <;> simp
@[simp] theorem logEvt_paged (p : Page) (b : Nat) (l : BitVec 64) (s : State) :
    (logEvt p b l s).paged = s.paged := by simp only [logEvt]; split <;> simp
@[simp] theorem logEvt_rcOld (p : Page) (b : Nat) (l : BitVec 64) (s : State) :
    (logEvt p b l s).rcOld = s.rcOld := by simp only [logEvt]; split <;> simp
@[simp] theorem logEvt_clu (p : Page) (b : Nat) (l : BitVec 64) (s : State) :
    (logEvt p b l s).clu = s.clu := by simp only [logEvt]; split <;> simp
@[simp] theorem logEvt_ush (p : Page) (b : Nat) (l : BitVec 64) (s : State) :
    (logEvt p b l s).ush = s.ush := by simp only [logEvt]; split <;> simp
@[simp] theorem logEvt_step (p : Page) (b : Nat) (l : BitVec 64) (s : State) :
    (logEvt p b l s).step = s.step := by simp only [logEvt]; split <;> simp
@[simp] theorem logEvt_lat (p : Page) (b : Nat) (l : BitVec 64) (s : State) :
    (logEvt p b l s).lat = s.lat := by simp only [logEvt]; split <;> simp
@[simp] theorem logEvt_opa (p : Page) (b : Nat) (l : BitVec 64) (s : State) :
    (logEvt p b l s).opa = s.opa := by simp only [logEvt]; split <;> simp
@[simp] theorem logEvt_tile (p : Page) (b : Nat) (l : BitVec 64) (s : State) :
    (logEvt p b l s).tile = s.tile := by simp only [logEvt]; split <;> simp
@[simp] theorem logEvt_vec (p : Page) (b : Nat) (l : BitVec 64) (s : State) :
    (logEvt p b l s).vec = s.vec := by simp only [logEvt]; split <;> simp
@[simp] theorem logEvt_flt (p : Page) (b : Nat) (l : BitVec 64) (s : State) :
    (logEvt p b l s).flt = s.flt := by simp only [logEvt]; split <;> simp
@[simp] theorem logEvt_hall (p : Page) (b : Nat) (l : BitVec 64) (s : State) :
    (logEvt p b l s).hall = s.hall := by simp only [logEvt]; split <;> simp
@[simp] theorem logEvt_lhall (p : Page) (b : Nat) (l : BitVec 64) (s : State) :
    (logEvt p b l s).lhall = s.lhall := by simp only [logEvt]; split <;> simp
@[simp] theorem logEvt_land (p : Page) (b : Nat) (l : BitVec 64) (s : State) :
    (logEvt p b l s).land = s.land := by simp only [logEvt]; split <;> simp
@[simp] theorem logEvt_strm (p : Page) (b : Nat) (l : BitVec 64) (s : State) :
    (logEvt p b l s).strm = s.strm := by simp only [logEvt]; split <;> simp
@[simp] theorem logEvt_gal (p : Page) (b : Nat) (l : BitVec 64) (s : State) :
    (logEvt p b l s).gal = s.gal := by simp only [logEvt]; split <;> simp
@[simp] theorem logEvt_fab (p : Page) (b : Nat) (l : BitVec 64) (s : State) :
    (logEvt p b l s).fab = s.fab := by simp only [logEvt]; split <;> simp
@[simp] theorem logEvt_win (p : Page) (b : Nat) (l : BitVec 64) (s : State) :
    (logEvt p b l s).win = s.win := by simp only [logEvt]; split <;> simp
@[simp] theorem logEvt_sync (p : Page) (b : Nat) (l : BitVec 64) (s : State) :
    (logEvt p b l s).sync = s.sync := by simp only [logEvt]; split <;> simp
@[simp] theorem logEvt_pwr (p : Page) (b : Nat) (l : BitVec 64) (s : State) :
    (logEvt p b l s).pwr = s.pwr := by simp only [logEvt]; split <;> simp
@[simp] theorem logEvt_energy (p : Page) (b : Nat) (l : BitVec 64) (s : State) :
    (logEvt p b l s).energy = s.energy := by simp only [logEvt]; split <;> simp
@[simp] theorem logEvt_therm (p : Page) (b : Nat) (l : BitVec 64) (s : State) :
    (logEvt p b l s).therm = s.therm := by simp only [logEvt]; split <;> simp
@[simp] theorem logEvt_mgmt (p : Page) (b : Nat) (l : BitVec 64) (s : State) :
    (logEvt p b l s).mgmt = s.mgmt := by simp only [logEvt]; split <;> simp
@[simp] theorem logEvt_test (p : Page) (b : Nat) (l : BitVec 64) (s : State) :
    (logEvt p b l s).test = s.test := by simp only [logEvt]; split <;> simp
@[simp] theorem logEvt_fuse (p : Page) (b : Nat) (l : BitVec 64) (s : State) :
    (logEvt p b l s).fuse = s.fuse := by simp only [logEvt]; split <;> simp

/-! ### jobFatal -/

@[simp] theorem jobFatal_pending (p : Page) (c : Nat) (q : BitVec 32) (s : State) :
    (jobFatal p c q s).pending = s.pending := rfl
@[simp] theorem jobFatal_build (p : Page) (c : Nat) (q : BitVec 32) (s : State) :
    (jobFatal p c q s).build = s.build := rfl
@[simp] theorem jobFatal_now (p : Page) (c : Nat) (q : BitVec 32) (s : State) :
    (jobFatal p c q s).now = s.now := rfl
@[simp] theorem jobFatal_nextId (p : Page) (c : Nat) (q : BitVec 32) (s : State) :
    (jobFatal p c q s).nextId = s.nextId := rfl
@[simp] theorem jobFatal_freeIx (p : Page) (c : Nat) (q : BitVec 32) (s : State) :
    (jobFatal p c q s).freeIx = s.freeIx := rfl
@[simp] theorem jobFatal_hdr (p : Page) (c : Nat) (q : BitVec 32) (s : State) :
    (jobFatal p c q s).hdr = s.hdr := rfl
@[simp] theorem jobFatal_mem (p : Page) (c : Nat) (q : BitVec 32) (s : State) :
    (jobFatal p c q s).mem = s.mem := rfl
@[simp] theorem jobFatal_range (p : Page) (c : Nat) (q : BitVec 32) (s : State) :
    (jobFatal p c q s).range = s.range := rfl
@[simp] theorem jobFatal_reqs (p : Page) (c : Nat) (q : BitVec 32) (s : State) :
    (jobFatal p c q s).reqs = s.reqs := rfl
@[simp] theorem jobFatal_access (p : Page) (c : Nat) (q : BitVec 32) (s : State) :
    (jobFatal p c q s).access = s.access := rfl
@[simp] theorem jobFatal_jobs (p : Page) (c : Nat) (q : BitVec 32) (s : State) :
    (jobFatal p c q s).jobs = s.jobs := rfl
@[simp] theorem jobFatal_granted (p : Page) (c : Nat) (q : BitVec 32) (s : State) :
    (jobFatal p c q s).granted = s.granted := rfl
@[simp] theorem jobFatal_setNow (p : Page) (c : Nat) (q : BitVec 32) (s : State) :
    (jobFatal p c q s).setNow = s.setNow := rfl
@[simp] theorem jobFatal_paged (p : Page) (c : Nat) (q : BitVec 32) (s : State) :
    (jobFatal p c q s).paged = s.paged := rfl
@[simp] theorem jobFatal_rcOld (p : Page) (c : Nat) (q : BitVec 32) (s : State) :
    (jobFatal p c q s).rcOld = s.rcOld := rfl
@[simp] theorem jobFatal_clu (p : Page) (c : Nat) (q : BitVec 32) (s : State) :
    (jobFatal p c q s).clu = s.clu := rfl
@[simp] theorem jobFatal_ush (p : Page) (c : Nat) (q : BitVec 32) (s : State) :
    (jobFatal p c q s).ush = s.ush := rfl
@[simp] theorem jobFatal_lat (p : Page) (c : Nat) (q : BitVec 32) (s : State) :
    (jobFatal p c q s).lat = s.lat := rfl
@[simp] theorem jobFatal_opa (p : Page) (c : Nat) (q : BitVec 32) (s : State) :
    (jobFatal p c q s).opa = s.opa := rfl
@[simp] theorem jobFatal_tile (p : Page) (c : Nat) (q : BitVec 32) (s : State) :
    (jobFatal p c q s).tile = s.tile := rfl
@[simp] theorem jobFatal_vec (p : Page) (c : Nat) (q : BitVec 32) (s : State) :
    (jobFatal p c q s).vec = s.vec := rfl
@[simp] theorem jobFatal_flt (p : Page) (c : Nat) (q : BitVec 32) (s : State) :
    (jobFatal p c q s).flt = s.flt := rfl
@[simp] theorem jobFatal_hall (p : Page) (c : Nat) (q : BitVec 32) (s : State) :
    (jobFatal p c q s).hall = s.hall := rfl
@[simp] theorem jobFatal_lhall (p : Page) (c : Nat) (q : BitVec 32) (s : State) :
    (jobFatal p c q s).lhall = s.lhall := rfl
@[simp] theorem jobFatal_land (p : Page) (c : Nat) (q : BitVec 32) (s : State) :
    (jobFatal p c q s).land = s.land := rfl
@[simp] theorem jobFatal_strm (p : Page) (c : Nat) (q : BitVec 32) (s : State) :
    (jobFatal p c q s).strm = s.strm := rfl
@[simp] theorem jobFatal_gal (p : Page) (c : Nat) (q : BitVec 32) (s : State) :
    (jobFatal p c q s).gal = s.gal := rfl
@[simp] theorem jobFatal_fab (p : Page) (c : Nat) (q : BitVec 32) (s : State) :
    (jobFatal p c q s).fab = s.fab := rfl
@[simp] theorem jobFatal_win (p : Page) (c : Nat) (q : BitVec 32) (s : State) :
    (jobFatal p c q s).win = s.win := rfl
@[simp] theorem jobFatal_sync (p : Page) (c : Nat) (q : BitVec 32) (s : State) :
    (jobFatal p c q s).sync = s.sync := rfl
@[simp] theorem jobFatal_pwr (p : Page) (c : Nat) (q : BitVec 32) (s : State) :
    (jobFatal p c q s).pwr = s.pwr := rfl
@[simp] theorem jobFatal_energy (p : Page) (c : Nat) (q : BitVec 32) (s : State) :
    (jobFatal p c q s).energy = s.energy := rfl
@[simp] theorem jobFatal_therm (p : Page) (c : Nat) (q : BitVec 32) (s : State) :
    (jobFatal p c q s).therm = s.therm := rfl
@[simp] theorem jobFatal_mgmt (p : Page) (c : Nat) (q : BitVec 32) (s : State) :
    (jobFatal p c q s).mgmt = s.mgmt := rfl
@[simp] theorem jobFatal_test (p : Page) (c : Nat) (q : BitVec 32) (s : State) :
    (jobFatal p c q s).test = s.test := rfl
@[simp] theorem jobFatal_fuse (p : Page) (c : Nat) (q : BitVec 32) (s : State) :
    (jobFatal p c q s).fuse = s.fuse := rfl

/-! ### memWrite -/

@[simp] theorem memWrite_pending (a : Nat) (bs : List (BitVec 8)) (s : State) :
    (memWrite a bs s).pending = s.pending := rfl
@[simp] theorem memWrite_build (a : Nat) (bs : List (BitVec 8)) (s : State) :
    (memWrite a bs s).build = s.build := rfl
@[simp] theorem memWrite_now (a : Nat) (bs : List (BitVec 8)) (s : State) :
    (memWrite a bs s).now = s.now := rfl
@[simp] theorem memWrite_nextId (a : Nat) (bs : List (BitVec 8)) (s : State) :
    (memWrite a bs s).nextId = s.nextId := rfl
@[simp] theorem memWrite_freeIx (a : Nat) (bs : List (BitVec 8)) (s : State) :
    (memWrite a bs s).freeIx = s.freeIx := rfl
@[simp] theorem memWrite_hdr (a : Nat) (bs : List (BitVec 8)) (s : State) :
    (memWrite a bs s).hdr = s.hdr := rfl
@[simp] theorem memWrite_range (a : Nat) (bs : List (BitVec 8)) (s : State) :
    (memWrite a bs s).range = s.range := rfl
@[simp] theorem memWrite_reqs (a : Nat) (bs : List (BitVec 8)) (s : State) :
    (memWrite a bs s).reqs = s.reqs := rfl
@[simp] theorem memWrite_access (a : Nat) (bs : List (BitVec 8)) (s : State) :
    (memWrite a bs s).access = s.access := rfl
@[simp] theorem memWrite_jobs (a : Nat) (bs : List (BitVec 8)) (s : State) :
    (memWrite a bs s).jobs = s.jobs := rfl
@[simp] theorem memWrite_granted (a : Nat) (bs : List (BitVec 8)) (s : State) :
    (memWrite a bs s).granted = s.granted := rfl
@[simp] theorem memWrite_setNow (a : Nat) (bs : List (BitVec 8)) (s : State) :
    (memWrite a bs s).setNow = s.setNow := rfl
@[simp] theorem memWrite_paged (a : Nat) (bs : List (BitVec 8)) (s : State) :
    (memWrite a bs s).paged = s.paged := rfl
@[simp] theorem memWrite_rcOld (a : Nat) (bs : List (BitVec 8)) (s : State) :
    (memWrite a bs s).rcOld = s.rcOld := rfl
@[simp] theorem memWrite_clu (a : Nat) (bs : List (BitVec 8)) (s : State) :
    (memWrite a bs s).clu = s.clu := rfl
@[simp] theorem memWrite_ush (a : Nat) (bs : List (BitVec 8)) (s : State) :
    (memWrite a bs s).ush = s.ush := rfl
@[simp] theorem memWrite_step (a : Nat) (bs : List (BitVec 8)) (s : State) :
    (memWrite a bs s).step = s.step := rfl
@[simp] theorem memWrite_lat (a : Nat) (bs : List (BitVec 8)) (s : State) :
    (memWrite a bs s).lat = s.lat := rfl
@[simp] theorem memWrite_opa (a : Nat) (bs : List (BitVec 8)) (s : State) :
    (memWrite a bs s).opa = s.opa := rfl
@[simp] theorem memWrite_tile (a : Nat) (bs : List (BitVec 8)) (s : State) :
    (memWrite a bs s).tile = s.tile := rfl
@[simp] theorem memWrite_vec (a : Nat) (bs : List (BitVec 8)) (s : State) :
    (memWrite a bs s).vec = s.vec := rfl
@[simp] theorem memWrite_flt (a : Nat) (bs : List (BitVec 8)) (s : State) :
    (memWrite a bs s).flt = s.flt := rfl
@[simp] theorem memWrite_hall (a : Nat) (bs : List (BitVec 8)) (s : State) :
    (memWrite a bs s).hall = s.hall := rfl
@[simp] theorem memWrite_lhall (a : Nat) (bs : List (BitVec 8)) (s : State) :
    (memWrite a bs s).lhall = s.lhall := rfl
@[simp] theorem memWrite_land (a : Nat) (bs : List (BitVec 8)) (s : State) :
    (memWrite a bs s).land = s.land := rfl
@[simp] theorem memWrite_strm (a : Nat) (bs : List (BitVec 8)) (s : State) :
    (memWrite a bs s).strm = s.strm := rfl
@[simp] theorem memWrite_gal (a : Nat) (bs : List (BitVec 8)) (s : State) :
    (memWrite a bs s).gal = s.gal := rfl
@[simp] theorem memWrite_fab (a : Nat) (bs : List (BitVec 8)) (s : State) :
    (memWrite a bs s).fab = s.fab := rfl
@[simp] theorem memWrite_win (a : Nat) (bs : List (BitVec 8)) (s : State) :
    (memWrite a bs s).win = s.win := rfl
@[simp] theorem memWrite_sync (a : Nat) (bs : List (BitVec 8)) (s : State) :
    (memWrite a bs s).sync = s.sync := rfl
@[simp] theorem memWrite_pwr (a : Nat) (bs : List (BitVec 8)) (s : State) :
    (memWrite a bs s).pwr = s.pwr := rfl
@[simp] theorem memWrite_energy (a : Nat) (bs : List (BitVec 8)) (s : State) :
    (memWrite a bs s).energy = s.energy := rfl
@[simp] theorem memWrite_therm (a : Nat) (bs : List (BitVec 8)) (s : State) :
    (memWrite a bs s).therm = s.therm := rfl
@[simp] theorem memWrite_evt (a : Nat) (bs : List (BitVec 8)) (s : State) :
    (memWrite a bs s).evt = s.evt := rfl
@[simp] theorem memWrite_mgmt (a : Nat) (bs : List (BitVec 8)) (s : State) :
    (memWrite a bs s).mgmt = s.mgmt := rfl
@[simp] theorem memWrite_test (a : Nat) (bs : List (BitVec 8)) (s : State) :
    (memWrite a bs s).test = s.test := rfl
@[simp] theorem memWrite_fuse (a : Nat) (bs : List (BitVec 8)) (s : State) :
    (memWrite a bs s).fuse = s.fuse := rfl

/-! ### setSlot -/

@[simp] theorem setSlot_pending (l : Fin 64) (k : Nat) (f : Slot → Slot) (s : State) :
    (setSlot l k f s).pending = s.pending := rfl
@[simp] theorem setSlot_build (l : Fin 64) (k : Nat) (f : Slot → Slot) (s : State) :
    (setSlot l k f s).build = s.build := rfl
@[simp] theorem setSlot_now (l : Fin 64) (k : Nat) (f : Slot → Slot) (s : State) :
    (setSlot l k f s).now = s.now := rfl
@[simp] theorem setSlot_nextId (l : Fin 64) (k : Nat) (f : Slot → Slot) (s : State) :
    (setSlot l k f s).nextId = s.nextId := rfl
@[simp] theorem setSlot_freeIx (l : Fin 64) (k : Nat) (f : Slot → Slot) (s : State) :
    (setSlot l k f s).freeIx = s.freeIx := rfl
@[simp] theorem setSlot_hdr (l : Fin 64) (k : Nat) (f : Slot → Slot) (s : State) :
    (setSlot l k f s).hdr = s.hdr := rfl
@[simp] theorem setSlot_mem (l : Fin 64) (k : Nat) (f : Slot → Slot) (s : State) :
    (setSlot l k f s).mem = s.mem := rfl
@[simp] theorem setSlot_range (l : Fin 64) (k : Nat) (f : Slot → Slot) (s : State) :
    (setSlot l k f s).range = s.range := rfl
@[simp] theorem setSlot_reqs (l : Fin 64) (k : Nat) (f : Slot → Slot) (s : State) :
    (setSlot l k f s).reqs = s.reqs := rfl
@[simp] theorem setSlot_access (l : Fin 64) (k : Nat) (f : Slot → Slot) (s : State) :
    (setSlot l k f s).access = s.access := rfl
@[simp] theorem setSlot_jobs (l : Fin 64) (k : Nat) (f : Slot → Slot) (s : State) :
    (setSlot l k f s).jobs = s.jobs := rfl
@[simp] theorem setSlot_granted (l : Fin 64) (k : Nat) (f : Slot → Slot) (s : State) :
    (setSlot l k f s).granted = s.granted := rfl
@[simp] theorem setSlot_setNow (l : Fin 64) (k : Nat) (f : Slot → Slot) (s : State) :
    (setSlot l k f s).setNow = s.setNow := rfl
@[simp] theorem setSlot_paged (l : Fin 64) (k : Nat) (f : Slot → Slot) (s : State) :
    (setSlot l k f s).paged = s.paged := rfl
@[simp] theorem setSlot_rcOld (l : Fin 64) (k : Nat) (f : Slot → Slot) (s : State) :
    (setSlot l k f s).rcOld = s.rcOld := rfl
@[simp] theorem setSlot_clu (l : Fin 64) (k : Nat) (f : Slot → Slot) (s : State) :
    (setSlot l k f s).clu = s.clu := rfl
@[simp] theorem setSlot_ush (l : Fin 64) (k : Nat) (f : Slot → Slot) (s : State) :
    (setSlot l k f s).ush = s.ush := rfl
@[simp] theorem setSlot_step (l : Fin 64) (k : Nat) (f : Slot → Slot) (s : State) :
    (setSlot l k f s).step = s.step := rfl
@[simp] theorem setSlot_lat (l : Fin 64) (k : Nat) (f : Slot → Slot) (s : State) :
    (setSlot l k f s).lat = s.lat := rfl
@[simp] theorem setSlot_opa (l : Fin 64) (k : Nat) (f : Slot → Slot) (s : State) :
    (setSlot l k f s).opa = s.opa := rfl
@[simp] theorem setSlot_tile (l : Fin 64) (k : Nat) (f : Slot → Slot) (s : State) :
    (setSlot l k f s).tile = s.tile := rfl
@[simp] theorem setSlot_vec (l : Fin 64) (k : Nat) (f : Slot → Slot) (s : State) :
    (setSlot l k f s).vec = s.vec := rfl
@[simp] theorem setSlot_flt (l : Fin 64) (k : Nat) (f : Slot → Slot) (s : State) :
    (setSlot l k f s).flt = s.flt := rfl
@[simp] theorem setSlot_hall (l : Fin 64) (k : Nat) (f : Slot → Slot) (s : State) :
    (setSlot l k f s).hall = s.hall := rfl
@[simp] theorem setSlot_lhall (l : Fin 64) (k : Nat) (f : Slot → Slot) (s : State) :
    (setSlot l k f s).lhall = s.lhall := rfl
@[simp] theorem setSlot_strm (l : Fin 64) (k : Nat) (f : Slot → Slot) (s : State) :
    (setSlot l k f s).strm = s.strm := rfl
@[simp] theorem setSlot_gal (l : Fin 64) (k : Nat) (f : Slot → Slot) (s : State) :
    (setSlot l k f s).gal = s.gal := rfl
@[simp] theorem setSlot_fab (l : Fin 64) (k : Nat) (f : Slot → Slot) (s : State) :
    (setSlot l k f s).fab = s.fab := rfl
@[simp] theorem setSlot_win (l : Fin 64) (k : Nat) (f : Slot → Slot) (s : State) :
    (setSlot l k f s).win = s.win := rfl
@[simp] theorem setSlot_sync (l : Fin 64) (k : Nat) (f : Slot → Slot) (s : State) :
    (setSlot l k f s).sync = s.sync := rfl
@[simp] theorem setSlot_pwr (l : Fin 64) (k : Nat) (f : Slot → Slot) (s : State) :
    (setSlot l k f s).pwr = s.pwr := rfl
@[simp] theorem setSlot_energy (l : Fin 64) (k : Nat) (f : Slot → Slot) (s : State) :
    (setSlot l k f s).energy = s.energy := rfl
@[simp] theorem setSlot_therm (l : Fin 64) (k : Nat) (f : Slot → Slot) (s : State) :
    (setSlot l k f s).therm = s.therm := rfl
@[simp] theorem setSlot_evt (l : Fin 64) (k : Nat) (f : Slot → Slot) (s : State) :
    (setSlot l k f s).evt = s.evt := rfl
@[simp] theorem setSlot_mgmt (l : Fin 64) (k : Nat) (f : Slot → Slot) (s : State) :
    (setSlot l k f s).mgmt = s.mgmt := rfl
@[simp] theorem setSlot_test (l : Fin 64) (k : Nat) (f : Slot → Slot) (s : State) :
    (setSlot l k f s).test = s.test := rfl
@[simp] theorem setSlot_fuse (l : Fin 64) (k : Nat) (f : Slot → Slot) (s : State) :
    (setSlot l k f s).fuse = s.fuse := rfl

/-! ### modRing -/

@[simp] theorem modRing_pending (l : Fin 64) (f : Ring → Ring) (s : State) :
    (modRing l f s).pending = s.pending := rfl
@[simp] theorem modRing_build (l : Fin 64) (f : Ring → Ring) (s : State) :
    (modRing l f s).build = s.build := rfl
@[simp] theorem modRing_now (l : Fin 64) (f : Ring → Ring) (s : State) :
    (modRing l f s).now = s.now := rfl
@[simp] theorem modRing_nextId (l : Fin 64) (f : Ring → Ring) (s : State) :
    (modRing l f s).nextId = s.nextId := rfl
@[simp] theorem modRing_freeIx (l : Fin 64) (f : Ring → Ring) (s : State) :
    (modRing l f s).freeIx = s.freeIx := rfl
@[simp] theorem modRing_hdr (l : Fin 64) (f : Ring → Ring) (s : State) :
    (modRing l f s).hdr = s.hdr := rfl
@[simp] theorem modRing_mem (l : Fin 64) (f : Ring → Ring) (s : State) :
    (modRing l f s).mem = s.mem := rfl
@[simp] theorem modRing_range (l : Fin 64) (f : Ring → Ring) (s : State) :
    (modRing l f s).range = s.range := rfl
@[simp] theorem modRing_reqs (l : Fin 64) (f : Ring → Ring) (s : State) :
    (modRing l f s).reqs = s.reqs := rfl
@[simp] theorem modRing_access (l : Fin 64) (f : Ring → Ring) (s : State) :
    (modRing l f s).access = s.access := rfl
@[simp] theorem modRing_jobs (l : Fin 64) (f : Ring → Ring) (s : State) :
    (modRing l f s).jobs = s.jobs := rfl
@[simp] theorem modRing_granted (l : Fin 64) (f : Ring → Ring) (s : State) :
    (modRing l f s).granted = s.granted := rfl
@[simp] theorem modRing_setNow (l : Fin 64) (f : Ring → Ring) (s : State) :
    (modRing l f s).setNow = s.setNow := rfl
@[simp] theorem modRing_paged (l : Fin 64) (f : Ring → Ring) (s : State) :
    (modRing l f s).paged = s.paged := rfl
@[simp] theorem modRing_rcOld (l : Fin 64) (f : Ring → Ring) (s : State) :
    (modRing l f s).rcOld = s.rcOld := rfl
@[simp] theorem modRing_clu (l : Fin 64) (f : Ring → Ring) (s : State) :
    (modRing l f s).clu = s.clu := rfl
@[simp] theorem modRing_ush (l : Fin 64) (f : Ring → Ring) (s : State) :
    (modRing l f s).ush = s.ush := rfl
@[simp] theorem modRing_step (l : Fin 64) (f : Ring → Ring) (s : State) :
    (modRing l f s).step = s.step := rfl
@[simp] theorem modRing_lat (l : Fin 64) (f : Ring → Ring) (s : State) :
    (modRing l f s).lat = s.lat := rfl
@[simp] theorem modRing_opa (l : Fin 64) (f : Ring → Ring) (s : State) :
    (modRing l f s).opa = s.opa := rfl
@[simp] theorem modRing_tile (l : Fin 64) (f : Ring → Ring) (s : State) :
    (modRing l f s).tile = s.tile := rfl
@[simp] theorem modRing_vec (l : Fin 64) (f : Ring → Ring) (s : State) :
    (modRing l f s).vec = s.vec := rfl
@[simp] theorem modRing_flt (l : Fin 64) (f : Ring → Ring) (s : State) :
    (modRing l f s).flt = s.flt := rfl
@[simp] theorem modRing_hall (l : Fin 64) (f : Ring → Ring) (s : State) :
    (modRing l f s).hall = s.hall := rfl
@[simp] theorem modRing_lhall (l : Fin 64) (f : Ring → Ring) (s : State) :
    (modRing l f s).lhall = s.lhall := rfl
@[simp] theorem modRing_strm (l : Fin 64) (f : Ring → Ring) (s : State) :
    (modRing l f s).strm = s.strm := rfl
@[simp] theorem modRing_gal (l : Fin 64) (f : Ring → Ring) (s : State) :
    (modRing l f s).gal = s.gal := rfl
@[simp] theorem modRing_fab (l : Fin 64) (f : Ring → Ring) (s : State) :
    (modRing l f s).fab = s.fab := rfl
@[simp] theorem modRing_win (l : Fin 64) (f : Ring → Ring) (s : State) :
    (modRing l f s).win = s.win := rfl
@[simp] theorem modRing_sync (l : Fin 64) (f : Ring → Ring) (s : State) :
    (modRing l f s).sync = s.sync := rfl
@[simp] theorem modRing_pwr (l : Fin 64) (f : Ring → Ring) (s : State) :
    (modRing l f s).pwr = s.pwr := rfl
@[simp] theorem modRing_energy (l : Fin 64) (f : Ring → Ring) (s : State) :
    (modRing l f s).energy = s.energy := rfl
@[simp] theorem modRing_therm (l : Fin 64) (f : Ring → Ring) (s : State) :
    (modRing l f s).therm = s.therm := rfl
@[simp] theorem modRing_evt (l : Fin 64) (f : Ring → Ring) (s : State) :
    (modRing l f s).evt = s.evt := rfl
@[simp] theorem modRing_mgmt (l : Fin 64) (f : Ring → Ring) (s : State) :
    (modRing l f s).mgmt = s.mgmt := rfl
@[simp] theorem modRing_test (l : Fin 64) (f : Ring → Ring) (s : State) :
    (modRing l f s).test = s.test := rfl
@[simp] theorem modRing_fuse (l : Fin 64) (f : Ring → Ring) (s : State) :
    (modRing l f s).fuse = s.fuse := rfl

/-! ### modJob -/

@[simp] theorem modJob_pending (i : Nat) (f : Job → Job) (s : State) :
    (modJob i f s).pending = s.pending := rfl
@[simp] theorem modJob_build (i : Nat) (f : Job → Job) (s : State) :
    (modJob i f s).build = s.build := rfl
@[simp] theorem modJob_now (i : Nat) (f : Job → Job) (s : State) :
    (modJob i f s).now = s.now := rfl
@[simp] theorem modJob_nextId (i : Nat) (f : Job → Job) (s : State) :
    (modJob i f s).nextId = s.nextId := rfl
@[simp] theorem modJob_freeIx (i : Nat) (f : Job → Job) (s : State) :
    (modJob i f s).freeIx = s.freeIx := rfl
@[simp] theorem modJob_hdr (i : Nat) (f : Job → Job) (s : State) :
    (modJob i f s).hdr = s.hdr := rfl
@[simp] theorem modJob_mem (i : Nat) (f : Job → Job) (s : State) :
    (modJob i f s).mem = s.mem := rfl
@[simp] theorem modJob_range (i : Nat) (f : Job → Job) (s : State) :
    (modJob i f s).range = s.range := rfl
@[simp] theorem modJob_reqs (i : Nat) (f : Job → Job) (s : State) :
    (modJob i f s).reqs = s.reqs := rfl
@[simp] theorem modJob_access (i : Nat) (f : Job → Job) (s : State) :
    (modJob i f s).access = s.access := rfl
@[simp] theorem modJob_granted (i : Nat) (f : Job → Job) (s : State) :
    (modJob i f s).granted = s.granted := rfl
@[simp] theorem modJob_setNow (i : Nat) (f : Job → Job) (s : State) :
    (modJob i f s).setNow = s.setNow := rfl
@[simp] theorem modJob_paged (i : Nat) (f : Job → Job) (s : State) :
    (modJob i f s).paged = s.paged := rfl
@[simp] theorem modJob_rcOld (i : Nat) (f : Job → Job) (s : State) :
    (modJob i f s).rcOld = s.rcOld := rfl
@[simp] theorem modJob_clu (i : Nat) (f : Job → Job) (s : State) :
    (modJob i f s).clu = s.clu := rfl
@[simp] theorem modJob_ush (i : Nat) (f : Job → Job) (s : State) :
    (modJob i f s).ush = s.ush := rfl
@[simp] theorem modJob_step (i : Nat) (f : Job → Job) (s : State) :
    (modJob i f s).step = s.step := rfl
@[simp] theorem modJob_lat (i : Nat) (f : Job → Job) (s : State) :
    (modJob i f s).lat = s.lat := rfl
@[simp] theorem modJob_opa (i : Nat) (f : Job → Job) (s : State) :
    (modJob i f s).opa = s.opa := rfl
@[simp] theorem modJob_tile (i : Nat) (f : Job → Job) (s : State) :
    (modJob i f s).tile = s.tile := rfl
@[simp] theorem modJob_vec (i : Nat) (f : Job → Job) (s : State) :
    (modJob i f s).vec = s.vec := rfl
@[simp] theorem modJob_flt (i : Nat) (f : Job → Job) (s : State) :
    (modJob i f s).flt = s.flt := rfl
@[simp] theorem modJob_hall (i : Nat) (f : Job → Job) (s : State) :
    (modJob i f s).hall = s.hall := rfl
@[simp] theorem modJob_lhall (i : Nat) (f : Job → Job) (s : State) :
    (modJob i f s).lhall = s.lhall := rfl
@[simp] theorem modJob_land (i : Nat) (f : Job → Job) (s : State) :
    (modJob i f s).land = s.land := rfl
@[simp] theorem modJob_strm (i : Nat) (f : Job → Job) (s : State) :
    (modJob i f s).strm = s.strm := rfl
@[simp] theorem modJob_gal (i : Nat) (f : Job → Job) (s : State) :
    (modJob i f s).gal = s.gal := rfl
@[simp] theorem modJob_fab (i : Nat) (f : Job → Job) (s : State) :
    (modJob i f s).fab = s.fab := rfl
@[simp] theorem modJob_win (i : Nat) (f : Job → Job) (s : State) :
    (modJob i f s).win = s.win := rfl
@[simp] theorem modJob_sync (i : Nat) (f : Job → Job) (s : State) :
    (modJob i f s).sync = s.sync := rfl
@[simp] theorem modJob_pwr (i : Nat) (f : Job → Job) (s : State) :
    (modJob i f s).pwr = s.pwr := rfl
@[simp] theorem modJob_energy (i : Nat) (f : Job → Job) (s : State) :
    (modJob i f s).energy = s.energy := rfl
@[simp] theorem modJob_therm (i : Nat) (f : Job → Job) (s : State) :
    (modJob i f s).therm = s.therm := rfl
@[simp] theorem modJob_evt (i : Nat) (f : Job → Job) (s : State) :
    (modJob i f s).evt = s.evt := rfl
@[simp] theorem modJob_mgmt (i : Nat) (f : Job → Job) (s : State) :
    (modJob i f s).mgmt = s.mgmt := rfl
@[simp] theorem modJob_test (i : Nat) (f : Job → Job) (s : State) :
    (modJob i f s).test = s.test := rfl
@[simp] theorem modJob_fuse (i : Nat) (f : Job → Job) (s : State) :
    (modJob i f s).fuse = s.fuse := rfl

/-! ### dropJob -/

@[simp] theorem dropJob_pending (i : Nat) (s : State) :
    (dropJob i s).pending = s.pending := rfl
@[simp] theorem dropJob_build (i : Nat) (s : State) :
    (dropJob i s).build = s.build := rfl
@[simp] theorem dropJob_now (i : Nat) (s : State) :
    (dropJob i s).now = s.now := rfl
@[simp] theorem dropJob_nextId (i : Nat) (s : State) :
    (dropJob i s).nextId = s.nextId := rfl
@[simp] theorem dropJob_freeIx (i : Nat) (s : State) :
    (dropJob i s).freeIx = s.freeIx := rfl
@[simp] theorem dropJob_hdr (i : Nat) (s : State) :
    (dropJob i s).hdr = s.hdr := rfl
@[simp] theorem dropJob_mem (i : Nat) (s : State) :
    (dropJob i s).mem = s.mem := rfl
@[simp] theorem dropJob_range (i : Nat) (s : State) :
    (dropJob i s).range = s.range := rfl
@[simp] theorem dropJob_reqs (i : Nat) (s : State) :
    (dropJob i s).reqs = s.reqs := rfl
@[simp] theorem dropJob_access (i : Nat) (s : State) :
    (dropJob i s).access = s.access := rfl
@[simp] theorem dropJob_granted (i : Nat) (s : State) :
    (dropJob i s).granted = s.granted := rfl
@[simp] theorem dropJob_setNow (i : Nat) (s : State) :
    (dropJob i s).setNow = s.setNow := rfl
@[simp] theorem dropJob_paged (i : Nat) (s : State) :
    (dropJob i s).paged = s.paged := rfl
@[simp] theorem dropJob_rcOld (i : Nat) (s : State) :
    (dropJob i s).rcOld = s.rcOld := rfl
@[simp] theorem dropJob_clu (i : Nat) (s : State) :
    (dropJob i s).clu = s.clu := rfl
@[simp] theorem dropJob_ush (i : Nat) (s : State) :
    (dropJob i s).ush = s.ush := rfl
@[simp] theorem dropJob_step (i : Nat) (s : State) :
    (dropJob i s).step = s.step := rfl
@[simp] theorem dropJob_lat (i : Nat) (s : State) :
    (dropJob i s).lat = s.lat := rfl
@[simp] theorem dropJob_opa (i : Nat) (s : State) :
    (dropJob i s).opa = s.opa := rfl
@[simp] theorem dropJob_tile (i : Nat) (s : State) :
    (dropJob i s).tile = s.tile := rfl
@[simp] theorem dropJob_vec (i : Nat) (s : State) :
    (dropJob i s).vec = s.vec := rfl
@[simp] theorem dropJob_flt (i : Nat) (s : State) :
    (dropJob i s).flt = s.flt := rfl
@[simp] theorem dropJob_hall (i : Nat) (s : State) :
    (dropJob i s).hall = s.hall := rfl
@[simp] theorem dropJob_lhall (i : Nat) (s : State) :
    (dropJob i s).lhall = s.lhall := rfl
@[simp] theorem dropJob_land (i : Nat) (s : State) :
    (dropJob i s).land = s.land := rfl
@[simp] theorem dropJob_strm (i : Nat) (s : State) :
    (dropJob i s).strm = s.strm := rfl
@[simp] theorem dropJob_gal (i : Nat) (s : State) :
    (dropJob i s).gal = s.gal := rfl
@[simp] theorem dropJob_fab (i : Nat) (s : State) :
    (dropJob i s).fab = s.fab := rfl
@[simp] theorem dropJob_win (i : Nat) (s : State) :
    (dropJob i s).win = s.win := rfl
@[simp] theorem dropJob_sync (i : Nat) (s : State) :
    (dropJob i s).sync = s.sync := rfl
@[simp] theorem dropJob_pwr (i : Nat) (s : State) :
    (dropJob i s).pwr = s.pwr := rfl
@[simp] theorem dropJob_energy (i : Nat) (s : State) :
    (dropJob i s).energy = s.energy := rfl
@[simp] theorem dropJob_therm (i : Nat) (s : State) :
    (dropJob i s).therm = s.therm := rfl
@[simp] theorem dropJob_evt (i : Nat) (s : State) :
    (dropJob i s).evt = s.evt := rfl
@[simp] theorem dropJob_mgmt (i : Nat) (s : State) :
    (dropJob i s).mgmt = s.mgmt := rfl
@[simp] theorem dropJob_test (i : Nat) (s : State) :
    (dropJob i s).test = s.test := rfl
@[simp] theorem dropJob_fuse (i : Nat) (s : State) :
    (dropJob i s).fuse = s.fuse := rfl

/-! ### addReq -/

@[simp] theorem addReq_pending (j t r : Nat) (u : MemUnit) (e : Option Nat) (a n : Nat) (w : Option (List Host.Cell)) (s : State) :
    (addReq j t r u e a n w s).pending = s.pending := rfl
@[simp] theorem addReq_build (j t r : Nat) (u : MemUnit) (e : Option Nat) (a n : Nat) (w : Option (List Host.Cell)) (s : State) :
    (addReq j t r u e a n w s).build = s.build := rfl
@[simp] theorem addReq_now (j t r : Nat) (u : MemUnit) (e : Option Nat) (a n : Nat) (w : Option (List Host.Cell)) (s : State) :
    (addReq j t r u e a n w s).now = s.now := rfl
@[simp] theorem addReq_freeIx (j t r : Nat) (u : MemUnit) (e : Option Nat) (a n : Nat) (w : Option (List Host.Cell)) (s : State) :
    (addReq j t r u e a n w s).freeIx = s.freeIx := rfl
@[simp] theorem addReq_hdr (j t r : Nat) (u : MemUnit) (e : Option Nat) (a n : Nat) (w : Option (List Host.Cell)) (s : State) :
    (addReq j t r u e a n w s).hdr = s.hdr := rfl
@[simp] theorem addReq_mem (j t r : Nat) (u : MemUnit) (e : Option Nat) (a n : Nat) (w : Option (List Host.Cell)) (s : State) :
    (addReq j t r u e a n w s).mem = s.mem := rfl
@[simp] theorem addReq_range (j t r : Nat) (u : MemUnit) (e : Option Nat) (a n : Nat) (w : Option (List Host.Cell)) (s : State) :
    (addReq j t r u e a n w s).range = s.range := rfl
@[simp] theorem addReq_access (j t r : Nat) (u : MemUnit) (e : Option Nat) (a n : Nat) (w : Option (List Host.Cell)) (s : State) :
    (addReq j t r u e a n w s).access = s.access := rfl
@[simp] theorem addReq_granted (j t r : Nat) (u : MemUnit) (e : Option Nat) (a n : Nat) (w : Option (List Host.Cell)) (s : State) :
    (addReq j t r u e a n w s).granted = s.granted := rfl
@[simp] theorem addReq_setNow (j t r : Nat) (u : MemUnit) (e : Option Nat) (a n : Nat) (w : Option (List Host.Cell)) (s : State) :
    (addReq j t r u e a n w s).setNow = s.setNow := rfl
@[simp] theorem addReq_paged (j t r : Nat) (u : MemUnit) (e : Option Nat) (a n : Nat) (w : Option (List Host.Cell)) (s : State) :
    (addReq j t r u e a n w s).paged = s.paged := rfl
@[simp] theorem addReq_rcOld (j t r : Nat) (u : MemUnit) (e : Option Nat) (a n : Nat) (w : Option (List Host.Cell)) (s : State) :
    (addReq j t r u e a n w s).rcOld = s.rcOld := rfl
@[simp] theorem addReq_clu (j t r : Nat) (u : MemUnit) (e : Option Nat) (a n : Nat) (w : Option (List Host.Cell)) (s : State) :
    (addReq j t r u e a n w s).clu = s.clu := rfl
@[simp] theorem addReq_ush (j t r : Nat) (u : MemUnit) (e : Option Nat) (a n : Nat) (w : Option (List Host.Cell)) (s : State) :
    (addReq j t r u e a n w s).ush = s.ush := rfl
@[simp] theorem addReq_step (j t r : Nat) (u : MemUnit) (e : Option Nat) (a n : Nat) (w : Option (List Host.Cell)) (s : State) :
    (addReq j t r u e a n w s).step = s.step := rfl
@[simp] theorem addReq_lat (j t r : Nat) (u : MemUnit) (e : Option Nat) (a n : Nat) (w : Option (List Host.Cell)) (s : State) :
    (addReq j t r u e a n w s).lat = s.lat := rfl
@[simp] theorem addReq_opa (j t r : Nat) (u : MemUnit) (e : Option Nat) (a n : Nat) (w : Option (List Host.Cell)) (s : State) :
    (addReq j t r u e a n w s).opa = s.opa := rfl
@[simp] theorem addReq_tile (j t r : Nat) (u : MemUnit) (e : Option Nat) (a n : Nat) (w : Option (List Host.Cell)) (s : State) :
    (addReq j t r u e a n w s).tile = s.tile := rfl
@[simp] theorem addReq_vec (j t r : Nat) (u : MemUnit) (e : Option Nat) (a n : Nat) (w : Option (List Host.Cell)) (s : State) :
    (addReq j t r u e a n w s).vec = s.vec := rfl
@[simp] theorem addReq_flt (j t r : Nat) (u : MemUnit) (e : Option Nat) (a n : Nat) (w : Option (List Host.Cell)) (s : State) :
    (addReq j t r u e a n w s).flt = s.flt := rfl
@[simp] theorem addReq_hall (j t r : Nat) (u : MemUnit) (e : Option Nat) (a n : Nat) (w : Option (List Host.Cell)) (s : State) :
    (addReq j t r u e a n w s).hall = s.hall := rfl
@[simp] theorem addReq_lhall (j t r : Nat) (u : MemUnit) (e : Option Nat) (a n : Nat) (w : Option (List Host.Cell)) (s : State) :
    (addReq j t r u e a n w s).lhall = s.lhall := rfl
@[simp] theorem addReq_land (j t r : Nat) (u : MemUnit) (e : Option Nat) (a n : Nat) (w : Option (List Host.Cell)) (s : State) :
    (addReq j t r u e a n w s).land = s.land := rfl
@[simp] theorem addReq_strm (j t r : Nat) (u : MemUnit) (e : Option Nat) (a n : Nat) (w : Option (List Host.Cell)) (s : State) :
    (addReq j t r u e a n w s).strm = s.strm := rfl
@[simp] theorem addReq_gal (j t r : Nat) (u : MemUnit) (e : Option Nat) (a n : Nat) (w : Option (List Host.Cell)) (s : State) :
    (addReq j t r u e a n w s).gal = s.gal := rfl
@[simp] theorem addReq_fab (j t r : Nat) (u : MemUnit) (e : Option Nat) (a n : Nat) (w : Option (List Host.Cell)) (s : State) :
    (addReq j t r u e a n w s).fab = s.fab := rfl
@[simp] theorem addReq_win (j t r : Nat) (u : MemUnit) (e : Option Nat) (a n : Nat) (w : Option (List Host.Cell)) (s : State) :
    (addReq j t r u e a n w s).win = s.win := rfl
@[simp] theorem addReq_sync (j t r : Nat) (u : MemUnit) (e : Option Nat) (a n : Nat) (w : Option (List Host.Cell)) (s : State) :
    (addReq j t r u e a n w s).sync = s.sync := rfl
@[simp] theorem addReq_pwr (j t r : Nat) (u : MemUnit) (e : Option Nat) (a n : Nat) (w : Option (List Host.Cell)) (s : State) :
    (addReq j t r u e a n w s).pwr = s.pwr := rfl
@[simp] theorem addReq_energy (j t r : Nat) (u : MemUnit) (e : Option Nat) (a n : Nat) (w : Option (List Host.Cell)) (s : State) :
    (addReq j t r u e a n w s).energy = s.energy := rfl
@[simp] theorem addReq_therm (j t r : Nat) (u : MemUnit) (e : Option Nat) (a n : Nat) (w : Option (List Host.Cell)) (s : State) :
    (addReq j t r u e a n w s).therm = s.therm := rfl
@[simp] theorem addReq_evt (j t r : Nat) (u : MemUnit) (e : Option Nat) (a n : Nat) (w : Option (List Host.Cell)) (s : State) :
    (addReq j t r u e a n w s).evt = s.evt := rfl
@[simp] theorem addReq_mgmt (j t r : Nat) (u : MemUnit) (e : Option Nat) (a n : Nat) (w : Option (List Host.Cell)) (s : State) :
    (addReq j t r u e a n w s).mgmt = s.mgmt := rfl
@[simp] theorem addReq_test (j t r : Nat) (u : MemUnit) (e : Option Nat) (a n : Nat) (w : Option (List Host.Cell)) (s : State) :
    (addReq j t r u e a n w s).test = s.test := rfl
@[simp] theorem addReq_fuse (j t r : Nat) (u : MemUnit) (e : Option Nat) (a n : Nat) (w : Option (List Host.Cell)) (s : State) :
    (addReq j t r u e a n w s).fuse = s.fuse := rfl

/-! ### dropReqs -/

@[simp] theorem dropReqs_pending (i : Nat) (k : LineReq → Bool) (s : State) :
    (dropReqs i k s).pending = s.pending := rfl
@[simp] theorem dropReqs_build (i : Nat) (k : LineReq → Bool) (s : State) :
    (dropReqs i k s).build = s.build := rfl
@[simp] theorem dropReqs_now (i : Nat) (k : LineReq → Bool) (s : State) :
    (dropReqs i k s).now = s.now := rfl
@[simp] theorem dropReqs_nextId (i : Nat) (k : LineReq → Bool) (s : State) :
    (dropReqs i k s).nextId = s.nextId := rfl
@[simp] theorem dropReqs_freeIx (i : Nat) (k : LineReq → Bool) (s : State) :
    (dropReqs i k s).freeIx = s.freeIx := rfl
@[simp] theorem dropReqs_hdr (i : Nat) (k : LineReq → Bool) (s : State) :
    (dropReqs i k s).hdr = s.hdr := rfl
@[simp] theorem dropReqs_mem (i : Nat) (k : LineReq → Bool) (s : State) :
    (dropReqs i k s).mem = s.mem := rfl
@[simp] theorem dropReqs_range (i : Nat) (k : LineReq → Bool) (s : State) :
    (dropReqs i k s).range = s.range := rfl
@[simp] theorem dropReqs_access (i : Nat) (k : LineReq → Bool) (s : State) :
    (dropReqs i k s).access = s.access := rfl
@[simp] theorem dropReqs_granted (i : Nat) (k : LineReq → Bool) (s : State) :
    (dropReqs i k s).granted = s.granted := rfl
@[simp] theorem dropReqs_setNow (i : Nat) (k : LineReq → Bool) (s : State) :
    (dropReqs i k s).setNow = s.setNow := rfl
@[simp] theorem dropReqs_paged (i : Nat) (k : LineReq → Bool) (s : State) :
    (dropReqs i k s).paged = s.paged := rfl
@[simp] theorem dropReqs_rcOld (i : Nat) (k : LineReq → Bool) (s : State) :
    (dropReqs i k s).rcOld = s.rcOld := rfl
@[simp] theorem dropReqs_clu (i : Nat) (k : LineReq → Bool) (s : State) :
    (dropReqs i k s).clu = s.clu := rfl
@[simp] theorem dropReqs_ush (i : Nat) (k : LineReq → Bool) (s : State) :
    (dropReqs i k s).ush = s.ush := rfl
@[simp] theorem dropReqs_step (i : Nat) (k : LineReq → Bool) (s : State) :
    (dropReqs i k s).step = s.step := rfl
@[simp] theorem dropReqs_lat (i : Nat) (k : LineReq → Bool) (s : State) :
    (dropReqs i k s).lat = s.lat := rfl
@[simp] theorem dropReqs_opa (i : Nat) (k : LineReq → Bool) (s : State) :
    (dropReqs i k s).opa = s.opa := rfl
@[simp] theorem dropReqs_tile (i : Nat) (k : LineReq → Bool) (s : State) :
    (dropReqs i k s).tile = s.tile := rfl
@[simp] theorem dropReqs_vec (i : Nat) (k : LineReq → Bool) (s : State) :
    (dropReqs i k s).vec = s.vec := rfl
@[simp] theorem dropReqs_flt (i : Nat) (k : LineReq → Bool) (s : State) :
    (dropReqs i k s).flt = s.flt := rfl
@[simp] theorem dropReqs_hall (i : Nat) (k : LineReq → Bool) (s : State) :
    (dropReqs i k s).hall = s.hall := rfl
@[simp] theorem dropReqs_lhall (i : Nat) (k : LineReq → Bool) (s : State) :
    (dropReqs i k s).lhall = s.lhall := rfl
@[simp] theorem dropReqs_land (i : Nat) (k : LineReq → Bool) (s : State) :
    (dropReqs i k s).land = s.land := rfl
@[simp] theorem dropReqs_strm (i : Nat) (k : LineReq → Bool) (s : State) :
    (dropReqs i k s).strm = s.strm := rfl
@[simp] theorem dropReqs_gal (i : Nat) (k : LineReq → Bool) (s : State) :
    (dropReqs i k s).gal = s.gal := rfl
@[simp] theorem dropReqs_fab (i : Nat) (k : LineReq → Bool) (s : State) :
    (dropReqs i k s).fab = s.fab := rfl
@[simp] theorem dropReqs_win (i : Nat) (k : LineReq → Bool) (s : State) :
    (dropReqs i k s).win = s.win := rfl
@[simp] theorem dropReqs_sync (i : Nat) (k : LineReq → Bool) (s : State) :
    (dropReqs i k s).sync = s.sync := rfl
@[simp] theorem dropReqs_pwr (i : Nat) (k : LineReq → Bool) (s : State) :
    (dropReqs i k s).pwr = s.pwr := rfl
@[simp] theorem dropReqs_energy (i : Nat) (k : LineReq → Bool) (s : State) :
    (dropReqs i k s).energy = s.energy := rfl
@[simp] theorem dropReqs_therm (i : Nat) (k : LineReq → Bool) (s : State) :
    (dropReqs i k s).therm = s.therm := rfl
@[simp] theorem dropReqs_evt (i : Nat) (k : LineReq → Bool) (s : State) :
    (dropReqs i k s).evt = s.evt := rfl
@[simp] theorem dropReqs_mgmt (i : Nat) (k : LineReq → Bool) (s : State) :
    (dropReqs i k s).mgmt = s.mgmt := rfl
@[simp] theorem dropReqs_test (i : Nat) (k : LineReq → Bool) (s : State) :
    (dropReqs i k s).test = s.test := rfl
@[simp] theorem dropReqs_fuse (i : Nat) (k : LineReq → Bool) (s : State) :
    (dropReqs i k s).fuse = s.fuse := rfl

/-! ### modThread -/

@[simp] theorem modThread_pending (t : Fin 16) (f : Thread → Thread) (s : State) :
    (modThread t f s).pending = s.pending := rfl
@[simp] theorem modThread_build (t : Fin 16) (f : Thread → Thread) (s : State) :
    (modThread t f s).build = s.build := rfl
@[simp] theorem modThread_now (t : Fin 16) (f : Thread → Thread) (s : State) :
    (modThread t f s).now = s.now := rfl
@[simp] theorem modThread_nextId (t : Fin 16) (f : Thread → Thread) (s : State) :
    (modThread t f s).nextId = s.nextId := rfl
@[simp] theorem modThread_freeIx (t : Fin 16) (f : Thread → Thread) (s : State) :
    (modThread t f s).freeIx = s.freeIx := rfl
@[simp] theorem modThread_hdr (t : Fin 16) (f : Thread → Thread) (s : State) :
    (modThread t f s).hdr = s.hdr := rfl
@[simp] theorem modThread_mem (t : Fin 16) (f : Thread → Thread) (s : State) :
    (modThread t f s).mem = s.mem := rfl
@[simp] theorem modThread_range (t : Fin 16) (f : Thread → Thread) (s : State) :
    (modThread t f s).range = s.range := rfl
@[simp] theorem modThread_reqs (t : Fin 16) (f : Thread → Thread) (s : State) :
    (modThread t f s).reqs = s.reqs := rfl
@[simp] theorem modThread_access (t : Fin 16) (f : Thread → Thread) (s : State) :
    (modThread t f s).access = s.access := rfl
@[simp] theorem modThread_jobs (t : Fin 16) (f : Thread → Thread) (s : State) :
    (modThread t f s).jobs = s.jobs := rfl
@[simp] theorem modThread_granted (t : Fin 16) (f : Thread → Thread) (s : State) :
    (modThread t f s).granted = s.granted := rfl
@[simp] theorem modThread_setNow (t : Fin 16) (f : Thread → Thread) (s : State) :
    (modThread t f s).setNow = s.setNow := rfl
@[simp] theorem modThread_paged (t : Fin 16) (f : Thread → Thread) (s : State) :
    (modThread t f s).paged = s.paged := rfl
@[simp] theorem modThread_rcOld (t : Fin 16) (f : Thread → Thread) (s : State) :
    (modThread t f s).rcOld = s.rcOld := rfl
@[simp] theorem modThread_clu (t : Fin 16) (f : Thread → Thread) (s : State) :
    (modThread t f s).clu = s.clu := rfl
@[simp] theorem modThread_step (t : Fin 16) (f : Thread → Thread) (s : State) :
    (modThread t f s).step = s.step := rfl
@[simp] theorem modThread_lat (t : Fin 16) (f : Thread → Thread) (s : State) :
    (modThread t f s).lat = s.lat := rfl
@[simp] theorem modThread_opa (t : Fin 16) (f : Thread → Thread) (s : State) :
    (modThread t f s).opa = s.opa := rfl
@[simp] theorem modThread_tile (t : Fin 16) (f : Thread → Thread) (s : State) :
    (modThread t f s).tile = s.tile := rfl
@[simp] theorem modThread_vec (t : Fin 16) (f : Thread → Thread) (s : State) :
    (modThread t f s).vec = s.vec := rfl
@[simp] theorem modThread_flt (t : Fin 16) (f : Thread → Thread) (s : State) :
    (modThread t f s).flt = s.flt := rfl
@[simp] theorem modThread_hall (t : Fin 16) (f : Thread → Thread) (s : State) :
    (modThread t f s).hall = s.hall := rfl
@[simp] theorem modThread_lhall (t : Fin 16) (f : Thread → Thread) (s : State) :
    (modThread t f s).lhall = s.lhall := rfl
@[simp] theorem modThread_land (t : Fin 16) (f : Thread → Thread) (s : State) :
    (modThread t f s).land = s.land := rfl
@[simp] theorem modThread_strm (t : Fin 16) (f : Thread → Thread) (s : State) :
    (modThread t f s).strm = s.strm := rfl
@[simp] theorem modThread_gal (t : Fin 16) (f : Thread → Thread) (s : State) :
    (modThread t f s).gal = s.gal := rfl
@[simp] theorem modThread_fab (t : Fin 16) (f : Thread → Thread) (s : State) :
    (modThread t f s).fab = s.fab := rfl
@[simp] theorem modThread_win (t : Fin 16) (f : Thread → Thread) (s : State) :
    (modThread t f s).win = s.win := rfl
@[simp] theorem modThread_sync (t : Fin 16) (f : Thread → Thread) (s : State) :
    (modThread t f s).sync = s.sync := rfl
@[simp] theorem modThread_pwr (t : Fin 16) (f : Thread → Thread) (s : State) :
    (modThread t f s).pwr = s.pwr := rfl
@[simp] theorem modThread_energy (t : Fin 16) (f : Thread → Thread) (s : State) :
    (modThread t f s).energy = s.energy := rfl
@[simp] theorem modThread_therm (t : Fin 16) (f : Thread → Thread) (s : State) :
    (modThread t f s).therm = s.therm := rfl
@[simp] theorem modThread_evt (t : Fin 16) (f : Thread → Thread) (s : State) :
    (modThread t f s).evt = s.evt := rfl
@[simp] theorem modThread_mgmt (t : Fin 16) (f : Thread → Thread) (s : State) :
    (modThread t f s).mgmt = s.mgmt := rfl
@[simp] theorem modThread_test (t : Fin 16) (f : Thread → Thread) (s : State) :
    (modThread t f s).test = s.test := rfl
@[simp] theorem modThread_fuse (t : Fin 16) (f : Thread → Thread) (s : State) :
    (modThread t f s).fuse = s.fuse := rfl

/-! ### modQueue -/

@[simp] theorem modQueue_pending (q : Fin 8) (f : EQueue → EQueue) (s : State) :
    (modQueue q f s).pending = s.pending := rfl
@[simp] theorem modQueue_build (q : Fin 8) (f : EQueue → EQueue) (s : State) :
    (modQueue q f s).build = s.build := rfl
@[simp] theorem modQueue_now (q : Fin 8) (f : EQueue → EQueue) (s : State) :
    (modQueue q f s).now = s.now := rfl
@[simp] theorem modQueue_nextId (q : Fin 8) (f : EQueue → EQueue) (s : State) :
    (modQueue q f s).nextId = s.nextId := rfl
@[simp] theorem modQueue_freeIx (q : Fin 8) (f : EQueue → EQueue) (s : State) :
    (modQueue q f s).freeIx = s.freeIx := rfl
@[simp] theorem modQueue_hdr (q : Fin 8) (f : EQueue → EQueue) (s : State) :
    (modQueue q f s).hdr = s.hdr := rfl
@[simp] theorem modQueue_mem (q : Fin 8) (f : EQueue → EQueue) (s : State) :
    (modQueue q f s).mem = s.mem := rfl
@[simp] theorem modQueue_range (q : Fin 8) (f : EQueue → EQueue) (s : State) :
    (modQueue q f s).range = s.range := rfl
@[simp] theorem modQueue_reqs (q : Fin 8) (f : EQueue → EQueue) (s : State) :
    (modQueue q f s).reqs = s.reqs := rfl
@[simp] theorem modQueue_access (q : Fin 8) (f : EQueue → EQueue) (s : State) :
    (modQueue q f s).access = s.access := rfl
@[simp] theorem modQueue_jobs (q : Fin 8) (f : EQueue → EQueue) (s : State) :
    (modQueue q f s).jobs = s.jobs := rfl
@[simp] theorem modQueue_granted (q : Fin 8) (f : EQueue → EQueue) (s : State) :
    (modQueue q f s).granted = s.granted := rfl
@[simp] theorem modQueue_setNow (q : Fin 8) (f : EQueue → EQueue) (s : State) :
    (modQueue q f s).setNow = s.setNow := rfl
@[simp] theorem modQueue_paged (q : Fin 8) (f : EQueue → EQueue) (s : State) :
    (modQueue q f s).paged = s.paged := rfl
@[simp] theorem modQueue_rcOld (q : Fin 8) (f : EQueue → EQueue) (s : State) :
    (modQueue q f s).rcOld = s.rcOld := rfl
@[simp] theorem modQueue_clu (q : Fin 8) (f : EQueue → EQueue) (s : State) :
    (modQueue q f s).clu = s.clu := rfl
@[simp] theorem modQueue_step (q : Fin 8) (f : EQueue → EQueue) (s : State) :
    (modQueue q f s).step = s.step := rfl
@[simp] theorem modQueue_lat (q : Fin 8) (f : EQueue → EQueue) (s : State) :
    (modQueue q f s).lat = s.lat := rfl
@[simp] theorem modQueue_opa (q : Fin 8) (f : EQueue → EQueue) (s : State) :
    (modQueue q f s).opa = s.opa := rfl
@[simp] theorem modQueue_tile (q : Fin 8) (f : EQueue → EQueue) (s : State) :
    (modQueue q f s).tile = s.tile := rfl
@[simp] theorem modQueue_vec (q : Fin 8) (f : EQueue → EQueue) (s : State) :
    (modQueue q f s).vec = s.vec := rfl
@[simp] theorem modQueue_flt (q : Fin 8) (f : EQueue → EQueue) (s : State) :
    (modQueue q f s).flt = s.flt := rfl
@[simp] theorem modQueue_hall (q : Fin 8) (f : EQueue → EQueue) (s : State) :
    (modQueue q f s).hall = s.hall := rfl
@[simp] theorem modQueue_lhall (q : Fin 8) (f : EQueue → EQueue) (s : State) :
    (modQueue q f s).lhall = s.lhall := rfl
@[simp] theorem modQueue_land (q : Fin 8) (f : EQueue → EQueue) (s : State) :
    (modQueue q f s).land = s.land := rfl
@[simp] theorem modQueue_strm (q : Fin 8) (f : EQueue → EQueue) (s : State) :
    (modQueue q f s).strm = s.strm := rfl
@[simp] theorem modQueue_gal (q : Fin 8) (f : EQueue → EQueue) (s : State) :
    (modQueue q f s).gal = s.gal := rfl
@[simp] theorem modQueue_fab (q : Fin 8) (f : EQueue → EQueue) (s : State) :
    (modQueue q f s).fab = s.fab := rfl
@[simp] theorem modQueue_win (q : Fin 8) (f : EQueue → EQueue) (s : State) :
    (modQueue q f s).win = s.win := rfl
@[simp] theorem modQueue_sync (q : Fin 8) (f : EQueue → EQueue) (s : State) :
    (modQueue q f s).sync = s.sync := rfl
@[simp] theorem modQueue_pwr (q : Fin 8) (f : EQueue → EQueue) (s : State) :
    (modQueue q f s).pwr = s.pwr := rfl
@[simp] theorem modQueue_energy (q : Fin 8) (f : EQueue → EQueue) (s : State) :
    (modQueue q f s).energy = s.energy := rfl
@[simp] theorem modQueue_therm (q : Fin 8) (f : EQueue → EQueue) (s : State) :
    (modQueue q f s).therm = s.therm := rfl
@[simp] theorem modQueue_evt (q : Fin 8) (f : EQueue → EQueue) (s : State) :
    (modQueue q f s).evt = s.evt := rfl
@[simp] theorem modQueue_mgmt (q : Fin 8) (f : EQueue → EQueue) (s : State) :
    (modQueue q f s).mgmt = s.mgmt := rfl
@[simp] theorem modQueue_test (q : Fin 8) (f : EQueue → EQueue) (s : State) :
    (modQueue q f s).test = s.test := rfl
@[simp] theorem modQueue_fuse (q : Fin 8) (f : EQueue → EQueue) (s : State) :
    (modQueue q f s).fuse = s.fuse := rfl

/-! ### popQueue -/

@[simp] theorem popQueue_pending (q : Fin 8) (s : State) :
    (popQueue q s).pending = s.pending := rfl
@[simp] theorem popQueue_build (q : Fin 8) (s : State) :
    (popQueue q s).build = s.build := rfl
@[simp] theorem popQueue_now (q : Fin 8) (s : State) :
    (popQueue q s).now = s.now := rfl
@[simp] theorem popQueue_nextId (q : Fin 8) (s : State) :
    (popQueue q s).nextId = s.nextId := rfl
@[simp] theorem popQueue_freeIx (q : Fin 8) (s : State) :
    (popQueue q s).freeIx = s.freeIx := rfl
@[simp] theorem popQueue_hdr (q : Fin 8) (s : State) :
    (popQueue q s).hdr = s.hdr := rfl
@[simp] theorem popQueue_mem (q : Fin 8) (s : State) :
    (popQueue q s).mem = s.mem := rfl
@[simp] theorem popQueue_range (q : Fin 8) (s : State) :
    (popQueue q s).range = s.range := rfl
@[simp] theorem popQueue_reqs (q : Fin 8) (s : State) :
    (popQueue q s).reqs = s.reqs := rfl
@[simp] theorem popQueue_access (q : Fin 8) (s : State) :
    (popQueue q s).access = s.access := rfl
@[simp] theorem popQueue_jobs (q : Fin 8) (s : State) :
    (popQueue q s).jobs = s.jobs := rfl
@[simp] theorem popQueue_granted (q : Fin 8) (s : State) :
    (popQueue q s).granted = s.granted := rfl
@[simp] theorem popQueue_setNow (q : Fin 8) (s : State) :
    (popQueue q s).setNow = s.setNow := rfl
@[simp] theorem popQueue_paged (q : Fin 8) (s : State) :
    (popQueue q s).paged = s.paged := rfl
@[simp] theorem popQueue_rcOld (q : Fin 8) (s : State) :
    (popQueue q s).rcOld = s.rcOld := rfl
@[simp] theorem popQueue_clu (q : Fin 8) (s : State) :
    (popQueue q s).clu = s.clu := rfl
@[simp] theorem popQueue_step (q : Fin 8) (s : State) :
    (popQueue q s).step = s.step := rfl
@[simp] theorem popQueue_lat (q : Fin 8) (s : State) :
    (popQueue q s).lat = s.lat := rfl
@[simp] theorem popQueue_opa (q : Fin 8) (s : State) :
    (popQueue q s).opa = s.opa := rfl
@[simp] theorem popQueue_tile (q : Fin 8) (s : State) :
    (popQueue q s).tile = s.tile := rfl
@[simp] theorem popQueue_vec (q : Fin 8) (s : State) :
    (popQueue q s).vec = s.vec := rfl
@[simp] theorem popQueue_flt (q : Fin 8) (s : State) :
    (popQueue q s).flt = s.flt := rfl
@[simp] theorem popQueue_hall (q : Fin 8) (s : State) :
    (popQueue q s).hall = s.hall := rfl
@[simp] theorem popQueue_lhall (q : Fin 8) (s : State) :
    (popQueue q s).lhall = s.lhall := rfl
@[simp] theorem popQueue_land (q : Fin 8) (s : State) :
    (popQueue q s).land = s.land := rfl
@[simp] theorem popQueue_strm (q : Fin 8) (s : State) :
    (popQueue q s).strm = s.strm := rfl
@[simp] theorem popQueue_gal (q : Fin 8) (s : State) :
    (popQueue q s).gal = s.gal := rfl
@[simp] theorem popQueue_fab (q : Fin 8) (s : State) :
    (popQueue q s).fab = s.fab := rfl
@[simp] theorem popQueue_win (q : Fin 8) (s : State) :
    (popQueue q s).win = s.win := rfl
@[simp] theorem popQueue_sync (q : Fin 8) (s : State) :
    (popQueue q s).sync = s.sync := rfl
@[simp] theorem popQueue_pwr (q : Fin 8) (s : State) :
    (popQueue q s).pwr = s.pwr := rfl
@[simp] theorem popQueue_energy (q : Fin 8) (s : State) :
    (popQueue q s).energy = s.energy := rfl
@[simp] theorem popQueue_therm (q : Fin 8) (s : State) :
    (popQueue q s).therm = s.therm := rfl
@[simp] theorem popQueue_evt (q : Fin 8) (s : State) :
    (popQueue q s).evt = s.evt := rfl
@[simp] theorem popQueue_mgmt (q : Fin 8) (s : State) :
    (popQueue q s).mgmt = s.mgmt := rfl
@[simp] theorem popQueue_test (q : Fin 8) (s : State) :
    (popQueue q s).test = s.test := rfl
@[simp] theorem popQueue_fuse (q : Fin 8) (s : State) :
    (popQueue q s).fuse = s.fuse := rfl

/-! ### syncPut -/

@[simp] theorem syncPut_pending (n : Nat) (v : BitVec 32) (s : State) :
    (syncPut n v s).pending = s.pending := rfl
@[simp] theorem syncPut_build (n : Nat) (v : BitVec 32) (s : State) :
    (syncPut n v s).build = s.build := rfl
@[simp] theorem syncPut_now (n : Nat) (v : BitVec 32) (s : State) :
    (syncPut n v s).now = s.now := rfl
@[simp] theorem syncPut_nextId (n : Nat) (v : BitVec 32) (s : State) :
    (syncPut n v s).nextId = s.nextId := rfl
@[simp] theorem syncPut_freeIx (n : Nat) (v : BitVec 32) (s : State) :
    (syncPut n v s).freeIx = s.freeIx := rfl
@[simp] theorem syncPut_hdr (n : Nat) (v : BitVec 32) (s : State) :
    (syncPut n v s).hdr = s.hdr := rfl
@[simp] theorem syncPut_mem (n : Nat) (v : BitVec 32) (s : State) :
    (syncPut n v s).mem = s.mem := rfl
@[simp] theorem syncPut_range (n : Nat) (v : BitVec 32) (s : State) :
    (syncPut n v s).range = s.range := rfl
@[simp] theorem syncPut_reqs (n : Nat) (v : BitVec 32) (s : State) :
    (syncPut n v s).reqs = s.reqs := rfl
@[simp] theorem syncPut_access (n : Nat) (v : BitVec 32) (s : State) :
    (syncPut n v s).access = s.access := rfl
@[simp] theorem syncPut_jobs (n : Nat) (v : BitVec 32) (s : State) :
    (syncPut n v s).jobs = s.jobs := rfl
@[simp] theorem syncPut_granted (n : Nat) (v : BitVec 32) (s : State) :
    (syncPut n v s).granted = s.granted := rfl
@[simp] theorem syncPut_setNow (n : Nat) (v : BitVec 32) (s : State) :
    (syncPut n v s).setNow = s.setNow := rfl
@[simp] theorem syncPut_paged (n : Nat) (v : BitVec 32) (s : State) :
    (syncPut n v s).paged = s.paged := rfl
@[simp] theorem syncPut_rcOld (n : Nat) (v : BitVec 32) (s : State) :
    (syncPut n v s).rcOld = s.rcOld := rfl
@[simp] theorem syncPut_clu (n : Nat) (v : BitVec 32) (s : State) :
    (syncPut n v s).clu = s.clu := rfl
@[simp] theorem syncPut_step (n : Nat) (v : BitVec 32) (s : State) :
    (syncPut n v s).step = s.step := rfl
@[simp] theorem syncPut_lat (n : Nat) (v : BitVec 32) (s : State) :
    (syncPut n v s).lat = s.lat := rfl
@[simp] theorem syncPut_opa (n : Nat) (v : BitVec 32) (s : State) :
    (syncPut n v s).opa = s.opa := rfl
@[simp] theorem syncPut_tile (n : Nat) (v : BitVec 32) (s : State) :
    (syncPut n v s).tile = s.tile := rfl
@[simp] theorem syncPut_vec (n : Nat) (v : BitVec 32) (s : State) :
    (syncPut n v s).vec = s.vec := rfl
@[simp] theorem syncPut_flt (n : Nat) (v : BitVec 32) (s : State) :
    (syncPut n v s).flt = s.flt := rfl
@[simp] theorem syncPut_hall (n : Nat) (v : BitVec 32) (s : State) :
    (syncPut n v s).hall = s.hall := rfl
@[simp] theorem syncPut_lhall (n : Nat) (v : BitVec 32) (s : State) :
    (syncPut n v s).lhall = s.lhall := rfl
@[simp] theorem syncPut_land (n : Nat) (v : BitVec 32) (s : State) :
    (syncPut n v s).land = s.land := rfl
@[simp] theorem syncPut_strm (n : Nat) (v : BitVec 32) (s : State) :
    (syncPut n v s).strm = s.strm := rfl
@[simp] theorem syncPut_gal (n : Nat) (v : BitVec 32) (s : State) :
    (syncPut n v s).gal = s.gal := rfl
@[simp] theorem syncPut_fab (n : Nat) (v : BitVec 32) (s : State) :
    (syncPut n v s).fab = s.fab := rfl
@[simp] theorem syncPut_win (n : Nat) (v : BitVec 32) (s : State) :
    (syncPut n v s).win = s.win := rfl
@[simp] theorem syncPut_pwr (n : Nat) (v : BitVec 32) (s : State) :
    (syncPut n v s).pwr = s.pwr := rfl
@[simp] theorem syncPut_energy (n : Nat) (v : BitVec 32) (s : State) :
    (syncPut n v s).energy = s.energy := rfl
@[simp] theorem syncPut_therm (n : Nat) (v : BitVec 32) (s : State) :
    (syncPut n v s).therm = s.therm := rfl
@[simp] theorem syncPut_evt (n : Nat) (v : BitVec 32) (s : State) :
    (syncPut n v s).evt = s.evt := rfl
@[simp] theorem syncPut_mgmt (n : Nat) (v : BitVec 32) (s : State) :
    (syncPut n v s).mgmt = s.mgmt := rfl
@[simp] theorem syncPut_test (n : Nat) (v : BitVec 32) (s : State) :
    (syncPut n v s).test = s.test := rfl
@[simp] theorem syncPut_fuse (n : Nat) (v : BitVec 32) (s : State) :
    (syncPut n v s).fuse = s.fuse := rfl

/-! ### syncAdvance -/

@[simp] theorem syncAdvance_pending (n k : Nat) (s : State) :
    (syncAdvance n k s).pending = s.pending := rfl
@[simp] theorem syncAdvance_build (n k : Nat) (s : State) :
    (syncAdvance n k s).build = s.build := rfl
@[simp] theorem syncAdvance_now (n k : Nat) (s : State) :
    (syncAdvance n k s).now = s.now := rfl
@[simp] theorem syncAdvance_nextId (n k : Nat) (s : State) :
    (syncAdvance n k s).nextId = s.nextId := rfl
@[simp] theorem syncAdvance_freeIx (n k : Nat) (s : State) :
    (syncAdvance n k s).freeIx = s.freeIx := rfl
@[simp] theorem syncAdvance_hdr (n k : Nat) (s : State) :
    (syncAdvance n k s).hdr = s.hdr := rfl
@[simp] theorem syncAdvance_mem (n k : Nat) (s : State) :
    (syncAdvance n k s).mem = s.mem := rfl
@[simp] theorem syncAdvance_range (n k : Nat) (s : State) :
    (syncAdvance n k s).range = s.range := rfl
@[simp] theorem syncAdvance_reqs (n k : Nat) (s : State) :
    (syncAdvance n k s).reqs = s.reqs := rfl
@[simp] theorem syncAdvance_access (n k : Nat) (s : State) :
    (syncAdvance n k s).access = s.access := rfl
@[simp] theorem syncAdvance_jobs (n k : Nat) (s : State) :
    (syncAdvance n k s).jobs = s.jobs := rfl
@[simp] theorem syncAdvance_granted (n k : Nat) (s : State) :
    (syncAdvance n k s).granted = s.granted := rfl
@[simp] theorem syncAdvance_setNow (n k : Nat) (s : State) :
    (syncAdvance n k s).setNow = s.setNow := rfl
@[simp] theorem syncAdvance_paged (n k : Nat) (s : State) :
    (syncAdvance n k s).paged = s.paged := rfl
@[simp] theorem syncAdvance_rcOld (n k : Nat) (s : State) :
    (syncAdvance n k s).rcOld = s.rcOld := rfl
@[simp] theorem syncAdvance_clu (n k : Nat) (s : State) :
    (syncAdvance n k s).clu = s.clu := rfl
@[simp] theorem syncAdvance_step (n k : Nat) (s : State) :
    (syncAdvance n k s).step = s.step := rfl
@[simp] theorem syncAdvance_lat (n k : Nat) (s : State) :
    (syncAdvance n k s).lat = s.lat := rfl
@[simp] theorem syncAdvance_opa (n k : Nat) (s : State) :
    (syncAdvance n k s).opa = s.opa := rfl
@[simp] theorem syncAdvance_tile (n k : Nat) (s : State) :
    (syncAdvance n k s).tile = s.tile := rfl
@[simp] theorem syncAdvance_vec (n k : Nat) (s : State) :
    (syncAdvance n k s).vec = s.vec := rfl
@[simp] theorem syncAdvance_flt (n k : Nat) (s : State) :
    (syncAdvance n k s).flt = s.flt := rfl
@[simp] theorem syncAdvance_hall (n k : Nat) (s : State) :
    (syncAdvance n k s).hall = s.hall := rfl
@[simp] theorem syncAdvance_lhall (n k : Nat) (s : State) :
    (syncAdvance n k s).lhall = s.lhall := rfl
@[simp] theorem syncAdvance_land (n k : Nat) (s : State) :
    (syncAdvance n k s).land = s.land := rfl
@[simp] theorem syncAdvance_strm (n k : Nat) (s : State) :
    (syncAdvance n k s).strm = s.strm := rfl
@[simp] theorem syncAdvance_gal (n k : Nat) (s : State) :
    (syncAdvance n k s).gal = s.gal := rfl
@[simp] theorem syncAdvance_fab (n k : Nat) (s : State) :
    (syncAdvance n k s).fab = s.fab := rfl
@[simp] theorem syncAdvance_win (n k : Nat) (s : State) :
    (syncAdvance n k s).win = s.win := rfl
@[simp] theorem syncAdvance_pwr (n k : Nat) (s : State) :
    (syncAdvance n k s).pwr = s.pwr := rfl
@[simp] theorem syncAdvance_energy (n k : Nat) (s : State) :
    (syncAdvance n k s).energy = s.energy := rfl
@[simp] theorem syncAdvance_therm (n k : Nat) (s : State) :
    (syncAdvance n k s).therm = s.therm := rfl
@[simp] theorem syncAdvance_evt (n k : Nat) (s : State) :
    (syncAdvance n k s).evt = s.evt := rfl
@[simp] theorem syncAdvance_mgmt (n k : Nat) (s : State) :
    (syncAdvance n k s).mgmt = s.mgmt := rfl
@[simp] theorem syncAdvance_test (n k : Nat) (s : State) :
    (syncAdvance n k s).test = s.test := rfl
@[simp] theorem syncAdvance_fuse (n k : Nat) (s : State) :
    (syncAdvance n k s).fuse = s.fuse := rfl

/-! ### signal -/

@[simp] theorem signal_pending (n : Nat) (s : State) :
    (signal n s).pending = s.pending := rfl
@[simp] theorem signal_build (n : Nat) (s : State) :
    (signal n s).build = s.build := rfl
@[simp] theorem signal_now (n : Nat) (s : State) :
    (signal n s).now = s.now := rfl
@[simp] theorem signal_nextId (n : Nat) (s : State) :
    (signal n s).nextId = s.nextId := rfl
@[simp] theorem signal_freeIx (n : Nat) (s : State) :
    (signal n s).freeIx = s.freeIx := rfl
@[simp] theorem signal_hdr (n : Nat) (s : State) :
    (signal n s).hdr = s.hdr := rfl
@[simp] theorem signal_mem (n : Nat) (s : State) :
    (signal n s).mem = s.mem := rfl
@[simp] theorem signal_range (n : Nat) (s : State) :
    (signal n s).range = s.range := rfl
@[simp] theorem signal_reqs (n : Nat) (s : State) :
    (signal n s).reqs = s.reqs := rfl
@[simp] theorem signal_access (n : Nat) (s : State) :
    (signal n s).access = s.access := rfl
@[simp] theorem signal_jobs (n : Nat) (s : State) :
    (signal n s).jobs = s.jobs := rfl
@[simp] theorem signal_granted (n : Nat) (s : State) :
    (signal n s).granted = s.granted := rfl
@[simp] theorem signal_setNow (n : Nat) (s : State) :
    (signal n s).setNow = s.setNow := rfl
@[simp] theorem signal_paged (n : Nat) (s : State) :
    (signal n s).paged = s.paged := rfl
@[simp] theorem signal_rcOld (n : Nat) (s : State) :
    (signal n s).rcOld = s.rcOld := rfl
@[simp] theorem signal_clu (n : Nat) (s : State) :
    (signal n s).clu = s.clu := rfl
@[simp] theorem signal_step (n : Nat) (s : State) :
    (signal n s).step = s.step := rfl
@[simp] theorem signal_lat (n : Nat) (s : State) :
    (signal n s).lat = s.lat := rfl
@[simp] theorem signal_opa (n : Nat) (s : State) :
    (signal n s).opa = s.opa := rfl
@[simp] theorem signal_tile (n : Nat) (s : State) :
    (signal n s).tile = s.tile := rfl
@[simp] theorem signal_vec (n : Nat) (s : State) :
    (signal n s).vec = s.vec := rfl
@[simp] theorem signal_flt (n : Nat) (s : State) :
    (signal n s).flt = s.flt := rfl
@[simp] theorem signal_hall (n : Nat) (s : State) :
    (signal n s).hall = s.hall := rfl
@[simp] theorem signal_lhall (n : Nat) (s : State) :
    (signal n s).lhall = s.lhall := rfl
@[simp] theorem signal_land (n : Nat) (s : State) :
    (signal n s).land = s.land := rfl
@[simp] theorem signal_strm (n : Nat) (s : State) :
    (signal n s).strm = s.strm := rfl
@[simp] theorem signal_gal (n : Nat) (s : State) :
    (signal n s).gal = s.gal := rfl
@[simp] theorem signal_fab (n : Nat) (s : State) :
    (signal n s).fab = s.fab := rfl
@[simp] theorem signal_win (n : Nat) (s : State) :
    (signal n s).win = s.win := rfl
@[simp] theorem signal_pwr (n : Nat) (s : State) :
    (signal n s).pwr = s.pwr := rfl
@[simp] theorem signal_energy (n : Nat) (s : State) :
    (signal n s).energy = s.energy := rfl
@[simp] theorem signal_therm (n : Nat) (s : State) :
    (signal n s).therm = s.therm := rfl
@[simp] theorem signal_evt (n : Nat) (s : State) :
    (signal n s).evt = s.evt := rfl
@[simp] theorem signal_mgmt (n : Nat) (s : State) :
    (signal n s).mgmt = s.mgmt := rfl
@[simp] theorem signal_test (n : Nat) (s : State) :
    (signal n s).test = s.test := rfl
@[simp] theorem signal_fuse (n : Nat) (s : State) :
    (signal n s).fuse = s.fuse := rfl

/-! ### syncOther -/

@[simp] theorem syncOther_pending (n : Nat) (v : BitVec 32) (s : State) :
    (syncOther n v s).pending = s.pending := rfl
@[simp] theorem syncOther_build (n : Nat) (v : BitVec 32) (s : State) :
    (syncOther n v s).build = s.build := rfl
@[simp] theorem syncOther_now (n : Nat) (v : BitVec 32) (s : State) :
    (syncOther n v s).now = s.now := rfl
@[simp] theorem syncOther_nextId (n : Nat) (v : BitVec 32) (s : State) :
    (syncOther n v s).nextId = s.nextId := rfl
@[simp] theorem syncOther_freeIx (n : Nat) (v : BitVec 32) (s : State) :
    (syncOther n v s).freeIx = s.freeIx := rfl
@[simp] theorem syncOther_hdr (n : Nat) (v : BitVec 32) (s : State) :
    (syncOther n v s).hdr = s.hdr := rfl
@[simp] theorem syncOther_mem (n : Nat) (v : BitVec 32) (s : State) :
    (syncOther n v s).mem = s.mem := rfl
@[simp] theorem syncOther_range (n : Nat) (v : BitVec 32) (s : State) :
    (syncOther n v s).range = s.range := rfl
@[simp] theorem syncOther_reqs (n : Nat) (v : BitVec 32) (s : State) :
    (syncOther n v s).reqs = s.reqs := rfl
@[simp] theorem syncOther_access (n : Nat) (v : BitVec 32) (s : State) :
    (syncOther n v s).access = s.access := rfl
@[simp] theorem syncOther_jobs (n : Nat) (v : BitVec 32) (s : State) :
    (syncOther n v s).jobs = s.jobs := rfl
@[simp] theorem syncOther_granted (n : Nat) (v : BitVec 32) (s : State) :
    (syncOther n v s).granted = s.granted := rfl
@[simp] theorem syncOther_setNow (n : Nat) (v : BitVec 32) (s : State) :
    (syncOther n v s).setNow = s.setNow := rfl
@[simp] theorem syncOther_paged (n : Nat) (v : BitVec 32) (s : State) :
    (syncOther n v s).paged = s.paged := rfl
@[simp] theorem syncOther_rcOld (n : Nat) (v : BitVec 32) (s : State) :
    (syncOther n v s).rcOld = s.rcOld := rfl
@[simp] theorem syncOther_clu (n : Nat) (v : BitVec 32) (s : State) :
    (syncOther n v s).clu = s.clu := rfl
@[simp] theorem syncOther_step (n : Nat) (v : BitVec 32) (s : State) :
    (syncOther n v s).step = s.step := rfl
@[simp] theorem syncOther_lat (n : Nat) (v : BitVec 32) (s : State) :
    (syncOther n v s).lat = s.lat := rfl
@[simp] theorem syncOther_opa (n : Nat) (v : BitVec 32) (s : State) :
    (syncOther n v s).opa = s.opa := rfl
@[simp] theorem syncOther_tile (n : Nat) (v : BitVec 32) (s : State) :
    (syncOther n v s).tile = s.tile := rfl
@[simp] theorem syncOther_vec (n : Nat) (v : BitVec 32) (s : State) :
    (syncOther n v s).vec = s.vec := rfl
@[simp] theorem syncOther_flt (n : Nat) (v : BitVec 32) (s : State) :
    (syncOther n v s).flt = s.flt := rfl
@[simp] theorem syncOther_hall (n : Nat) (v : BitVec 32) (s : State) :
    (syncOther n v s).hall = s.hall := rfl
@[simp] theorem syncOther_lhall (n : Nat) (v : BitVec 32) (s : State) :
    (syncOther n v s).lhall = s.lhall := rfl
@[simp] theorem syncOther_land (n : Nat) (v : BitVec 32) (s : State) :
    (syncOther n v s).land = s.land := rfl
@[simp] theorem syncOther_strm (n : Nat) (v : BitVec 32) (s : State) :
    (syncOther n v s).strm = s.strm := rfl
@[simp] theorem syncOther_gal (n : Nat) (v : BitVec 32) (s : State) :
    (syncOther n v s).gal = s.gal := rfl
@[simp] theorem syncOther_fab (n : Nat) (v : BitVec 32) (s : State) :
    (syncOther n v s).fab = s.fab := rfl
@[simp] theorem syncOther_win (n : Nat) (v : BitVec 32) (s : State) :
    (syncOther n v s).win = s.win := rfl
@[simp] theorem syncOther_pwr (n : Nat) (v : BitVec 32) (s : State) :
    (syncOther n v s).pwr = s.pwr := rfl
@[simp] theorem syncOther_energy (n : Nat) (v : BitVec 32) (s : State) :
    (syncOther n v s).energy = s.energy := rfl
@[simp] theorem syncOther_therm (n : Nat) (v : BitVec 32) (s : State) :
    (syncOther n v s).therm = s.therm := rfl
@[simp] theorem syncOther_evt (n : Nat) (v : BitVec 32) (s : State) :
    (syncOther n v s).evt = s.evt := rfl
@[simp] theorem syncOther_mgmt (n : Nat) (v : BitVec 32) (s : State) :
    (syncOther n v s).mgmt = s.mgmt := rfl
@[simp] theorem syncOther_test (n : Nat) (v : BitVec 32) (s : State) :
    (syncOther n v s).test = s.test := rfl
@[simp] theorem syncOther_fuse (n : Nat) (v : BitVec 32) (s : State) :
    (syncOther n v s).fuse = s.fuse := rfl

/-! ### modOpa -/

@[simp] theorem modOpa_pending (a : Fin 2) (f : Opa → Opa) (s : State) :
    (modOpa a f s).pending = s.pending := rfl
@[simp] theorem modOpa_build (a : Fin 2) (f : Opa → Opa) (s : State) :
    (modOpa a f s).build = s.build := rfl
@[simp] theorem modOpa_now (a : Fin 2) (f : Opa → Opa) (s : State) :
    (modOpa a f s).now = s.now := rfl
@[simp] theorem modOpa_nextId (a : Fin 2) (f : Opa → Opa) (s : State) :
    (modOpa a f s).nextId = s.nextId := rfl
@[simp] theorem modOpa_freeIx (a : Fin 2) (f : Opa → Opa) (s : State) :
    (modOpa a f s).freeIx = s.freeIx := rfl
@[simp] theorem modOpa_hdr (a : Fin 2) (f : Opa → Opa) (s : State) :
    (modOpa a f s).hdr = s.hdr := rfl
@[simp] theorem modOpa_mem (a : Fin 2) (f : Opa → Opa) (s : State) :
    (modOpa a f s).mem = s.mem := rfl
@[simp] theorem modOpa_range (a : Fin 2) (f : Opa → Opa) (s : State) :
    (modOpa a f s).range = s.range := rfl
@[simp] theorem modOpa_reqs (a : Fin 2) (f : Opa → Opa) (s : State) :
    (modOpa a f s).reqs = s.reqs := rfl
@[simp] theorem modOpa_access (a : Fin 2) (f : Opa → Opa) (s : State) :
    (modOpa a f s).access = s.access := rfl
@[simp] theorem modOpa_jobs (a : Fin 2) (f : Opa → Opa) (s : State) :
    (modOpa a f s).jobs = s.jobs := rfl
@[simp] theorem modOpa_granted (a : Fin 2) (f : Opa → Opa) (s : State) :
    (modOpa a f s).granted = s.granted := rfl
@[simp] theorem modOpa_setNow (a : Fin 2) (f : Opa → Opa) (s : State) :
    (modOpa a f s).setNow = s.setNow := rfl
@[simp] theorem modOpa_paged (a : Fin 2) (f : Opa → Opa) (s : State) :
    (modOpa a f s).paged = s.paged := rfl
@[simp] theorem modOpa_rcOld (a : Fin 2) (f : Opa → Opa) (s : State) :
    (modOpa a f s).rcOld = s.rcOld := rfl
@[simp] theorem modOpa_clu (a : Fin 2) (f : Opa → Opa) (s : State) :
    (modOpa a f s).clu = s.clu := rfl
@[simp] theorem modOpa_ush (a : Fin 2) (f : Opa → Opa) (s : State) :
    (modOpa a f s).ush = s.ush := rfl
@[simp] theorem modOpa_step (a : Fin 2) (f : Opa → Opa) (s : State) :
    (modOpa a f s).step = s.step := rfl
@[simp] theorem modOpa_lat (a : Fin 2) (f : Opa → Opa) (s : State) :
    (modOpa a f s).lat = s.lat := rfl
@[simp] theorem modOpa_tile (a : Fin 2) (f : Opa → Opa) (s : State) :
    (modOpa a f s).tile = s.tile := rfl
@[simp] theorem modOpa_vec (a : Fin 2) (f : Opa → Opa) (s : State) :
    (modOpa a f s).vec = s.vec := rfl
@[simp] theorem modOpa_flt (a : Fin 2) (f : Opa → Opa) (s : State) :
    (modOpa a f s).flt = s.flt := rfl
@[simp] theorem modOpa_hall (a : Fin 2) (f : Opa → Opa) (s : State) :
    (modOpa a f s).hall = s.hall := rfl
@[simp] theorem modOpa_lhall (a : Fin 2) (f : Opa → Opa) (s : State) :
    (modOpa a f s).lhall = s.lhall := rfl
@[simp] theorem modOpa_land (a : Fin 2) (f : Opa → Opa) (s : State) :
    (modOpa a f s).land = s.land := rfl
@[simp] theorem modOpa_strm (a : Fin 2) (f : Opa → Opa) (s : State) :
    (modOpa a f s).strm = s.strm := rfl
@[simp] theorem modOpa_gal (a : Fin 2) (f : Opa → Opa) (s : State) :
    (modOpa a f s).gal = s.gal := rfl
@[simp] theorem modOpa_fab (a : Fin 2) (f : Opa → Opa) (s : State) :
    (modOpa a f s).fab = s.fab := rfl
@[simp] theorem modOpa_win (a : Fin 2) (f : Opa → Opa) (s : State) :
    (modOpa a f s).win = s.win := rfl
@[simp] theorem modOpa_sync (a : Fin 2) (f : Opa → Opa) (s : State) :
    (modOpa a f s).sync = s.sync := rfl
@[simp] theorem modOpa_pwr (a : Fin 2) (f : Opa → Opa) (s : State) :
    (modOpa a f s).pwr = s.pwr := rfl
@[simp] theorem modOpa_energy (a : Fin 2) (f : Opa → Opa) (s : State) :
    (modOpa a f s).energy = s.energy := rfl
@[simp] theorem modOpa_therm (a : Fin 2) (f : Opa → Opa) (s : State) :
    (modOpa a f s).therm = s.therm := rfl
@[simp] theorem modOpa_evt (a : Fin 2) (f : Opa → Opa) (s : State) :
    (modOpa a f s).evt = s.evt := rfl
@[simp] theorem modOpa_mgmt (a : Fin 2) (f : Opa → Opa) (s : State) :
    (modOpa a f s).mgmt = s.mgmt := rfl
@[simp] theorem modOpa_test (a : Fin 2) (f : Opa → Opa) (s : State) :
    (modOpa a f s).test = s.test := rfl
@[simp] theorem modOpa_fuse (a : Fin 2) (f : Opa → Opa) (s : State) :
    (modOpa a f s).fuse = s.fuse := rfl

/-! ### modStrm -/

@[simp] theorem modStrm_pending (n : Fin 4) (f : Strm → Strm) (s : State) :
    (modStrm n f s).pending = s.pending := rfl
@[simp] theorem modStrm_build (n : Fin 4) (f : Strm → Strm) (s : State) :
    (modStrm n f s).build = s.build := rfl
@[simp] theorem modStrm_now (n : Fin 4) (f : Strm → Strm) (s : State) :
    (modStrm n f s).now = s.now := rfl
@[simp] theorem modStrm_nextId (n : Fin 4) (f : Strm → Strm) (s : State) :
    (modStrm n f s).nextId = s.nextId := rfl
@[simp] theorem modStrm_freeIx (n : Fin 4) (f : Strm → Strm) (s : State) :
    (modStrm n f s).freeIx = s.freeIx := rfl
@[simp] theorem modStrm_hdr (n : Fin 4) (f : Strm → Strm) (s : State) :
    (modStrm n f s).hdr = s.hdr := rfl
@[simp] theorem modStrm_mem (n : Fin 4) (f : Strm → Strm) (s : State) :
    (modStrm n f s).mem = s.mem := rfl
@[simp] theorem modStrm_range (n : Fin 4) (f : Strm → Strm) (s : State) :
    (modStrm n f s).range = s.range := rfl
@[simp] theorem modStrm_reqs (n : Fin 4) (f : Strm → Strm) (s : State) :
    (modStrm n f s).reqs = s.reqs := rfl
@[simp] theorem modStrm_access (n : Fin 4) (f : Strm → Strm) (s : State) :
    (modStrm n f s).access = s.access := rfl
@[simp] theorem modStrm_jobs (n : Fin 4) (f : Strm → Strm) (s : State) :
    (modStrm n f s).jobs = s.jobs := rfl
@[simp] theorem modStrm_granted (n : Fin 4) (f : Strm → Strm) (s : State) :
    (modStrm n f s).granted = s.granted := rfl
@[simp] theorem modStrm_setNow (n : Fin 4) (f : Strm → Strm) (s : State) :
    (modStrm n f s).setNow = s.setNow := rfl
@[simp] theorem modStrm_paged (n : Fin 4) (f : Strm → Strm) (s : State) :
    (modStrm n f s).paged = s.paged := rfl
@[simp] theorem modStrm_rcOld (n : Fin 4) (f : Strm → Strm) (s : State) :
    (modStrm n f s).rcOld = s.rcOld := rfl
@[simp] theorem modStrm_clu (n : Fin 4) (f : Strm → Strm) (s : State) :
    (modStrm n f s).clu = s.clu := rfl
@[simp] theorem modStrm_ush (n : Fin 4) (f : Strm → Strm) (s : State) :
    (modStrm n f s).ush = s.ush := rfl
@[simp] theorem modStrm_step (n : Fin 4) (f : Strm → Strm) (s : State) :
    (modStrm n f s).step = s.step := rfl
@[simp] theorem modStrm_lat (n : Fin 4) (f : Strm → Strm) (s : State) :
    (modStrm n f s).lat = s.lat := rfl
@[simp] theorem modStrm_opa (n : Fin 4) (f : Strm → Strm) (s : State) :
    (modStrm n f s).opa = s.opa := rfl
@[simp] theorem modStrm_tile (n : Fin 4) (f : Strm → Strm) (s : State) :
    (modStrm n f s).tile = s.tile := rfl
@[simp] theorem modStrm_vec (n : Fin 4) (f : Strm → Strm) (s : State) :
    (modStrm n f s).vec = s.vec := rfl
@[simp] theorem modStrm_flt (n : Fin 4) (f : Strm → Strm) (s : State) :
    (modStrm n f s).flt = s.flt := rfl
@[simp] theorem modStrm_hall (n : Fin 4) (f : Strm → Strm) (s : State) :
    (modStrm n f s).hall = s.hall := rfl
@[simp] theorem modStrm_lhall (n : Fin 4) (f : Strm → Strm) (s : State) :
    (modStrm n f s).lhall = s.lhall := rfl
@[simp] theorem modStrm_land (n : Fin 4) (f : Strm → Strm) (s : State) :
    (modStrm n f s).land = s.land := rfl
@[simp] theorem modStrm_gal (n : Fin 4) (f : Strm → Strm) (s : State) :
    (modStrm n f s).gal = s.gal := rfl
@[simp] theorem modStrm_fab (n : Fin 4) (f : Strm → Strm) (s : State) :
    (modStrm n f s).fab = s.fab := rfl
@[simp] theorem modStrm_win (n : Fin 4) (f : Strm → Strm) (s : State) :
    (modStrm n f s).win = s.win := rfl
@[simp] theorem modStrm_sync (n : Fin 4) (f : Strm → Strm) (s : State) :
    (modStrm n f s).sync = s.sync := rfl
@[simp] theorem modStrm_pwr (n : Fin 4) (f : Strm → Strm) (s : State) :
    (modStrm n f s).pwr = s.pwr := rfl
@[simp] theorem modStrm_energy (n : Fin 4) (f : Strm → Strm) (s : State) :
    (modStrm n f s).energy = s.energy := rfl
@[simp] theorem modStrm_therm (n : Fin 4) (f : Strm → Strm) (s : State) :
    (modStrm n f s).therm = s.therm := rfl
@[simp] theorem modStrm_evt (n : Fin 4) (f : Strm → Strm) (s : State) :
    (modStrm n f s).evt = s.evt := rfl
@[simp] theorem modStrm_mgmt (n : Fin 4) (f : Strm → Strm) (s : State) :
    (modStrm n f s).mgmt = s.mgmt := rfl
@[simp] theorem modStrm_test (n : Fin 4) (f : Strm → Strm) (s : State) :
    (modStrm n f s).test = s.test := rfl
@[simp] theorem modStrm_fuse (n : Fin 4) (f : Strm → Strm) (s : State) :
    (modStrm n f s).fuse = s.fuse := rfl

/-! ### modCtx -/

@[simp] theorem modCtx_pending (n c : Fin 4) (f : Ctx → Ctx) (s : State) :
    (modCtx n c f s).pending = s.pending := rfl
@[simp] theorem modCtx_build (n c : Fin 4) (f : Ctx → Ctx) (s : State) :
    (modCtx n c f s).build = s.build := rfl
@[simp] theorem modCtx_now (n c : Fin 4) (f : Ctx → Ctx) (s : State) :
    (modCtx n c f s).now = s.now := rfl
@[simp] theorem modCtx_nextId (n c : Fin 4) (f : Ctx → Ctx) (s : State) :
    (modCtx n c f s).nextId = s.nextId := rfl
@[simp] theorem modCtx_freeIx (n c : Fin 4) (f : Ctx → Ctx) (s : State) :
    (modCtx n c f s).freeIx = s.freeIx := rfl
@[simp] theorem modCtx_hdr (n c : Fin 4) (f : Ctx → Ctx) (s : State) :
    (modCtx n c f s).hdr = s.hdr := rfl
@[simp] theorem modCtx_mem (n c : Fin 4) (f : Ctx → Ctx) (s : State) :
    (modCtx n c f s).mem = s.mem := rfl
@[simp] theorem modCtx_range (n c : Fin 4) (f : Ctx → Ctx) (s : State) :
    (modCtx n c f s).range = s.range := rfl
@[simp] theorem modCtx_reqs (n c : Fin 4) (f : Ctx → Ctx) (s : State) :
    (modCtx n c f s).reqs = s.reqs := rfl
@[simp] theorem modCtx_access (n c : Fin 4) (f : Ctx → Ctx) (s : State) :
    (modCtx n c f s).access = s.access := rfl
@[simp] theorem modCtx_jobs (n c : Fin 4) (f : Ctx → Ctx) (s : State) :
    (modCtx n c f s).jobs = s.jobs := rfl
@[simp] theorem modCtx_granted (n c : Fin 4) (f : Ctx → Ctx) (s : State) :
    (modCtx n c f s).granted = s.granted := rfl
@[simp] theorem modCtx_setNow (n c : Fin 4) (f : Ctx → Ctx) (s : State) :
    (modCtx n c f s).setNow = s.setNow := rfl
@[simp] theorem modCtx_paged (n c : Fin 4) (f : Ctx → Ctx) (s : State) :
    (modCtx n c f s).paged = s.paged := rfl
@[simp] theorem modCtx_rcOld (n c : Fin 4) (f : Ctx → Ctx) (s : State) :
    (modCtx n c f s).rcOld = s.rcOld := rfl
@[simp] theorem modCtx_clu (n c : Fin 4) (f : Ctx → Ctx) (s : State) :
    (modCtx n c f s).clu = s.clu := rfl
@[simp] theorem modCtx_ush (n c : Fin 4) (f : Ctx → Ctx) (s : State) :
    (modCtx n c f s).ush = s.ush := rfl
@[simp] theorem modCtx_step (n c : Fin 4) (f : Ctx → Ctx) (s : State) :
    (modCtx n c f s).step = s.step := rfl
@[simp] theorem modCtx_lat (n c : Fin 4) (f : Ctx → Ctx) (s : State) :
    (modCtx n c f s).lat = s.lat := rfl
@[simp] theorem modCtx_opa (n c : Fin 4) (f : Ctx → Ctx) (s : State) :
    (modCtx n c f s).opa = s.opa := rfl
@[simp] theorem modCtx_tile (n c : Fin 4) (f : Ctx → Ctx) (s : State) :
    (modCtx n c f s).tile = s.tile := rfl
@[simp] theorem modCtx_vec (n c : Fin 4) (f : Ctx → Ctx) (s : State) :
    (modCtx n c f s).vec = s.vec := rfl
@[simp] theorem modCtx_flt (n c : Fin 4) (f : Ctx → Ctx) (s : State) :
    (modCtx n c f s).flt = s.flt := rfl
@[simp] theorem modCtx_hall (n c : Fin 4) (f : Ctx → Ctx) (s : State) :
    (modCtx n c f s).hall = s.hall := rfl
@[simp] theorem modCtx_lhall (n c : Fin 4) (f : Ctx → Ctx) (s : State) :
    (modCtx n c f s).lhall = s.lhall := rfl
@[simp] theorem modCtx_land (n c : Fin 4) (f : Ctx → Ctx) (s : State) :
    (modCtx n c f s).land = s.land := rfl
@[simp] theorem modCtx_gal (n c : Fin 4) (f : Ctx → Ctx) (s : State) :
    (modCtx n c f s).gal = s.gal := rfl
@[simp] theorem modCtx_fab (n c : Fin 4) (f : Ctx → Ctx) (s : State) :
    (modCtx n c f s).fab = s.fab := rfl
@[simp] theorem modCtx_win (n c : Fin 4) (f : Ctx → Ctx) (s : State) :
    (modCtx n c f s).win = s.win := rfl
@[simp] theorem modCtx_sync (n c : Fin 4) (f : Ctx → Ctx) (s : State) :
    (modCtx n c f s).sync = s.sync := rfl
@[simp] theorem modCtx_pwr (n c : Fin 4) (f : Ctx → Ctx) (s : State) :
    (modCtx n c f s).pwr = s.pwr := rfl
@[simp] theorem modCtx_energy (n c : Fin 4) (f : Ctx → Ctx) (s : State) :
    (modCtx n c f s).energy = s.energy := rfl
@[simp] theorem modCtx_therm (n c : Fin 4) (f : Ctx → Ctx) (s : State) :
    (modCtx n c f s).therm = s.therm := rfl
@[simp] theorem modCtx_evt (n c : Fin 4) (f : Ctx → Ctx) (s : State) :
    (modCtx n c f s).evt = s.evt := rfl
@[simp] theorem modCtx_mgmt (n c : Fin 4) (f : Ctx → Ctx) (s : State) :
    (modCtx n c f s).mgmt = s.mgmt := rfl
@[simp] theorem modCtx_test (n c : Fin 4) (f : Ctx → Ctx) (s : State) :
    (modCtx n c f s).test = s.test := rfl
@[simp] theorem modCtx_fuse (n c : Fin 4) (f : Ctx → Ctx) (s : State) :
    (modCtx n c f s).fuse = s.fuse := rfl

/-! ### modGal -/

@[simp] theorem modGal_pending (g : Fin 4) (f : Gal → Gal) (s : State) :
    (modGal g f s).pending = s.pending := rfl
@[simp] theorem modGal_build (g : Fin 4) (f : Gal → Gal) (s : State) :
    (modGal g f s).build = s.build := rfl
@[simp] theorem modGal_now (g : Fin 4) (f : Gal → Gal) (s : State) :
    (modGal g f s).now = s.now := rfl
@[simp] theorem modGal_nextId (g : Fin 4) (f : Gal → Gal) (s : State) :
    (modGal g f s).nextId = s.nextId := rfl
@[simp] theorem modGal_freeIx (g : Fin 4) (f : Gal → Gal) (s : State) :
    (modGal g f s).freeIx = s.freeIx := rfl
@[simp] theorem modGal_hdr (g : Fin 4) (f : Gal → Gal) (s : State) :
    (modGal g f s).hdr = s.hdr := rfl
@[simp] theorem modGal_mem (g : Fin 4) (f : Gal → Gal) (s : State) :
    (modGal g f s).mem = s.mem := rfl
@[simp] theorem modGal_range (g : Fin 4) (f : Gal → Gal) (s : State) :
    (modGal g f s).range = s.range := rfl
@[simp] theorem modGal_reqs (g : Fin 4) (f : Gal → Gal) (s : State) :
    (modGal g f s).reqs = s.reqs := rfl
@[simp] theorem modGal_access (g : Fin 4) (f : Gal → Gal) (s : State) :
    (modGal g f s).access = s.access := rfl
@[simp] theorem modGal_jobs (g : Fin 4) (f : Gal → Gal) (s : State) :
    (modGal g f s).jobs = s.jobs := rfl
@[simp] theorem modGal_granted (g : Fin 4) (f : Gal → Gal) (s : State) :
    (modGal g f s).granted = s.granted := rfl
@[simp] theorem modGal_setNow (g : Fin 4) (f : Gal → Gal) (s : State) :
    (modGal g f s).setNow = s.setNow := rfl
@[simp] theorem modGal_paged (g : Fin 4) (f : Gal → Gal) (s : State) :
    (modGal g f s).paged = s.paged := rfl
@[simp] theorem modGal_rcOld (g : Fin 4) (f : Gal → Gal) (s : State) :
    (modGal g f s).rcOld = s.rcOld := rfl
@[simp] theorem modGal_clu (g : Fin 4) (f : Gal → Gal) (s : State) :
    (modGal g f s).clu = s.clu := rfl
@[simp] theorem modGal_ush (g : Fin 4) (f : Gal → Gal) (s : State) :
    (modGal g f s).ush = s.ush := rfl
@[simp] theorem modGal_step (g : Fin 4) (f : Gal → Gal) (s : State) :
    (modGal g f s).step = s.step := rfl
@[simp] theorem modGal_lat (g : Fin 4) (f : Gal → Gal) (s : State) :
    (modGal g f s).lat = s.lat := rfl
@[simp] theorem modGal_opa (g : Fin 4) (f : Gal → Gal) (s : State) :
    (modGal g f s).opa = s.opa := rfl
@[simp] theorem modGal_tile (g : Fin 4) (f : Gal → Gal) (s : State) :
    (modGal g f s).tile = s.tile := rfl
@[simp] theorem modGal_vec (g : Fin 4) (f : Gal → Gal) (s : State) :
    (modGal g f s).vec = s.vec := rfl
@[simp] theorem modGal_flt (g : Fin 4) (f : Gal → Gal) (s : State) :
    (modGal g f s).flt = s.flt := rfl
@[simp] theorem modGal_hall (g : Fin 4) (f : Gal → Gal) (s : State) :
    (modGal g f s).hall = s.hall := rfl
@[simp] theorem modGal_lhall (g : Fin 4) (f : Gal → Gal) (s : State) :
    (modGal g f s).lhall = s.lhall := rfl
@[simp] theorem modGal_land (g : Fin 4) (f : Gal → Gal) (s : State) :
    (modGal g f s).land = s.land := rfl
@[simp] theorem modGal_strm (g : Fin 4) (f : Gal → Gal) (s : State) :
    (modGal g f s).strm = s.strm := rfl
@[simp] theorem modGal_fab (g : Fin 4) (f : Gal → Gal) (s : State) :
    (modGal g f s).fab = s.fab := rfl
@[simp] theorem modGal_win (g : Fin 4) (f : Gal → Gal) (s : State) :
    (modGal g f s).win = s.win := rfl
@[simp] theorem modGal_sync (g : Fin 4) (f : Gal → Gal) (s : State) :
    (modGal g f s).sync = s.sync := rfl
@[simp] theorem modGal_pwr (g : Fin 4) (f : Gal → Gal) (s : State) :
    (modGal g f s).pwr = s.pwr := rfl
@[simp] theorem modGal_energy (g : Fin 4) (f : Gal → Gal) (s : State) :
    (modGal g f s).energy = s.energy := rfl
@[simp] theorem modGal_therm (g : Fin 4) (f : Gal → Gal) (s : State) :
    (modGal g f s).therm = s.therm := rfl
@[simp] theorem modGal_evt (g : Fin 4) (f : Gal → Gal) (s : State) :
    (modGal g f s).evt = s.evt := rfl
@[simp] theorem modGal_mgmt (g : Fin 4) (f : Gal → Gal) (s : State) :
    (modGal g f s).mgmt = s.mgmt := rfl
@[simp] theorem modGal_test (g : Fin 4) (f : Gal → Gal) (s : State) :
    (modGal g f s).test = s.test := rfl
@[simp] theorem modGal_fuse (g : Fin 4) (f : Gal → Gal) (s : State) :
    (modGal g f s).fuse = s.fuse := rfl

/-! ### modTier -/

@[simp] theorem modTier_pending (t : Tier) (f : Hall → Hall) (s : State) :
    (modTier t f s).pending = s.pending := by cases t <;> rfl
@[simp] theorem modTier_build (t : Tier) (f : Hall → Hall) (s : State) :
    (modTier t f s).build = s.build := by cases t <;> rfl
@[simp] theorem modTier_now (t : Tier) (f : Hall → Hall) (s : State) :
    (modTier t f s).now = s.now := by cases t <;> rfl
@[simp] theorem modTier_nextId (t : Tier) (f : Hall → Hall) (s : State) :
    (modTier t f s).nextId = s.nextId := by cases t <;> rfl
@[simp] theorem modTier_freeIx (t : Tier) (f : Hall → Hall) (s : State) :
    (modTier t f s).freeIx = s.freeIx := by cases t <;> rfl
@[simp] theorem modTier_hdr (t : Tier) (f : Hall → Hall) (s : State) :
    (modTier t f s).hdr = s.hdr := by cases t <;> rfl
@[simp] theorem modTier_mem (t : Tier) (f : Hall → Hall) (s : State) :
    (modTier t f s).mem = s.mem := by cases t <;> rfl
@[simp] theorem modTier_range (t : Tier) (f : Hall → Hall) (s : State) :
    (modTier t f s).range = s.range := by cases t <;> rfl
@[simp] theorem modTier_reqs (t : Tier) (f : Hall → Hall) (s : State) :
    (modTier t f s).reqs = s.reqs := by cases t <;> rfl
@[simp] theorem modTier_access (t : Tier) (f : Hall → Hall) (s : State) :
    (modTier t f s).access = s.access := by cases t <;> rfl
@[simp] theorem modTier_jobs (t : Tier) (f : Hall → Hall) (s : State) :
    (modTier t f s).jobs = s.jobs := by cases t <;> rfl
@[simp] theorem modTier_granted (t : Tier) (f : Hall → Hall) (s : State) :
    (modTier t f s).granted = s.granted := by cases t <;> rfl
@[simp] theorem modTier_setNow (t : Tier) (f : Hall → Hall) (s : State) :
    (modTier t f s).setNow = s.setNow := by cases t <;> rfl
@[simp] theorem modTier_paged (t : Tier) (f : Hall → Hall) (s : State) :
    (modTier t f s).paged = s.paged := by cases t <;> rfl
@[simp] theorem modTier_rcOld (t : Tier) (f : Hall → Hall) (s : State) :
    (modTier t f s).rcOld = s.rcOld := by cases t <;> rfl
@[simp] theorem modTier_clu (t : Tier) (f : Hall → Hall) (s : State) :
    (modTier t f s).clu = s.clu := by cases t <;> rfl
@[simp] theorem modTier_ush (t : Tier) (f : Hall → Hall) (s : State) :
    (modTier t f s).ush = s.ush := by cases t <;> rfl
@[simp] theorem modTier_step (t : Tier) (f : Hall → Hall) (s : State) :
    (modTier t f s).step = s.step := by cases t <;> rfl
@[simp] theorem modTier_lat (t : Tier) (f : Hall → Hall) (s : State) :
    (modTier t f s).lat = s.lat := by cases t <;> rfl
@[simp] theorem modTier_opa (t : Tier) (f : Hall → Hall) (s : State) :
    (modTier t f s).opa = s.opa := by cases t <;> rfl
@[simp] theorem modTier_tile (t : Tier) (f : Hall → Hall) (s : State) :
    (modTier t f s).tile = s.tile := by cases t <;> rfl
@[simp] theorem modTier_vec (t : Tier) (f : Hall → Hall) (s : State) :
    (modTier t f s).vec = s.vec := by cases t <;> rfl
@[simp] theorem modTier_flt (t : Tier) (f : Hall → Hall) (s : State) :
    (modTier t f s).flt = s.flt := by cases t <;> rfl
@[simp] theorem modTier_land (t : Tier) (f : Hall → Hall) (s : State) :
    (modTier t f s).land = s.land := by cases t <;> rfl
@[simp] theorem modTier_strm (t : Tier) (f : Hall → Hall) (s : State) :
    (modTier t f s).strm = s.strm := by cases t <;> rfl
@[simp] theorem modTier_gal (t : Tier) (f : Hall → Hall) (s : State) :
    (modTier t f s).gal = s.gal := by cases t <;> rfl
@[simp] theorem modTier_fab (t : Tier) (f : Hall → Hall) (s : State) :
    (modTier t f s).fab = s.fab := by cases t <;> rfl
@[simp] theorem modTier_win (t : Tier) (f : Hall → Hall) (s : State) :
    (modTier t f s).win = s.win := by cases t <;> rfl
@[simp] theorem modTier_sync (t : Tier) (f : Hall → Hall) (s : State) :
    (modTier t f s).sync = s.sync := by cases t <;> rfl
@[simp] theorem modTier_pwr (t : Tier) (f : Hall → Hall) (s : State) :
    (modTier t f s).pwr = s.pwr := by cases t <;> rfl
@[simp] theorem modTier_energy (t : Tier) (f : Hall → Hall) (s : State) :
    (modTier t f s).energy = s.energy := by cases t <;> rfl
@[simp] theorem modTier_therm (t : Tier) (f : Hall → Hall) (s : State) :
    (modTier t f s).therm = s.therm := by cases t <;> rfl
@[simp] theorem modTier_evt (t : Tier) (f : Hall → Hall) (s : State) :
    (modTier t f s).evt = s.evt := by cases t <;> rfl
@[simp] theorem modTier_mgmt (t : Tier) (f : Hall → Hall) (s : State) :
    (modTier t f s).mgmt = s.mgmt := by cases t <;> rfl
@[simp] theorem modTier_test (t : Tier) (f : Hall → Hall) (s : State) :
    (modTier t f s).test = s.test := by cases t <;> rfl
@[simp] theorem modTier_fuse (t : Tier) (f : Hall → Hall) (s : State) :
    (modTier t f s).fuse = s.fuse := by cases t <;> rfl

/-! ### State.spend -/

@[simp] theorem State.spend_pending (s : State) (e : Config.Act) (t : Option (Fin 16)) (n : Nat) :
    (s.spend e t n).pending = s.pending := rfl
@[simp] theorem State.spend_build (s : State) (e : Config.Act) (t : Option (Fin 16)) (n : Nat) :
    (s.spend e t n).build = s.build := rfl
@[simp] theorem State.spend_now (s : State) (e : Config.Act) (t : Option (Fin 16)) (n : Nat) :
    (s.spend e t n).now = s.now := rfl
@[simp] theorem State.spend_nextId (s : State) (e : Config.Act) (t : Option (Fin 16)) (n : Nat) :
    (s.spend e t n).nextId = s.nextId := rfl
@[simp] theorem State.spend_freeIx (s : State) (e : Config.Act) (t : Option (Fin 16)) (n : Nat) :
    (s.spend e t n).freeIx = s.freeIx := rfl
@[simp] theorem State.spend_hdr (s : State) (e : Config.Act) (t : Option (Fin 16)) (n : Nat) :
    (s.spend e t n).hdr = s.hdr := rfl
@[simp] theorem State.spend_mem (s : State) (e : Config.Act) (t : Option (Fin 16)) (n : Nat) :
    (s.spend e t n).mem = s.mem := rfl
@[simp] theorem State.spend_range (s : State) (e : Config.Act) (t : Option (Fin 16)) (n : Nat) :
    (s.spend e t n).range = s.range := rfl
@[simp] theorem State.spend_reqs (s : State) (e : Config.Act) (t : Option (Fin 16)) (n : Nat) :
    (s.spend e t n).reqs = s.reqs := rfl
@[simp] theorem State.spend_access (s : State) (e : Config.Act) (t : Option (Fin 16)) (n : Nat) :
    (s.spend e t n).access = s.access := rfl
@[simp] theorem State.spend_jobs (s : State) (e : Config.Act) (t : Option (Fin 16)) (n : Nat) :
    (s.spend e t n).jobs = s.jobs := rfl
@[simp] theorem State.spend_granted (s : State) (e : Config.Act) (t : Option (Fin 16)) (n : Nat) :
    (s.spend e t n).granted = s.granted := rfl
@[simp] theorem State.spend_setNow (s : State) (e : Config.Act) (t : Option (Fin 16)) (n : Nat) :
    (s.spend e t n).setNow = s.setNow := rfl
@[simp] theorem State.spend_paged (s : State) (e : Config.Act) (t : Option (Fin 16)) (n : Nat) :
    (s.spend e t n).paged = s.paged := rfl
@[simp] theorem State.spend_rcOld (s : State) (e : Config.Act) (t : Option (Fin 16)) (n : Nat) :
    (s.spend e t n).rcOld = s.rcOld := rfl
@[simp] theorem State.spend_clu (s : State) (e : Config.Act) (t : Option (Fin 16)) (n : Nat) :
    (s.spend e t n).clu = s.clu := rfl
@[simp] theorem State.spend_ush (s : State) (e : Config.Act) (t : Option (Fin 16)) (n : Nat) :
    (s.spend e t n).ush = s.ush := rfl
@[simp] theorem State.spend_step (s : State) (e : Config.Act) (t : Option (Fin 16)) (n : Nat) :
    (s.spend e t n).step = s.step := rfl
@[simp] theorem State.spend_lat (s : State) (e : Config.Act) (t : Option (Fin 16)) (n : Nat) :
    (s.spend e t n).lat = s.lat := rfl
@[simp] theorem State.spend_opa (s : State) (e : Config.Act) (t : Option (Fin 16)) (n : Nat) :
    (s.spend e t n).opa = s.opa := rfl
@[simp] theorem State.spend_tile (s : State) (e : Config.Act) (t : Option (Fin 16)) (n : Nat) :
    (s.spend e t n).tile = s.tile := rfl
@[simp] theorem State.spend_vec (s : State) (e : Config.Act) (t : Option (Fin 16)) (n : Nat) :
    (s.spend e t n).vec = s.vec := rfl
@[simp] theorem State.spend_flt (s : State) (e : Config.Act) (t : Option (Fin 16)) (n : Nat) :
    (s.spend e t n).flt = s.flt := rfl
@[simp] theorem State.spend_hall (s : State) (e : Config.Act) (t : Option (Fin 16)) (n : Nat) :
    (s.spend e t n).hall = s.hall := rfl
@[simp] theorem State.spend_lhall (s : State) (e : Config.Act) (t : Option (Fin 16)) (n : Nat) :
    (s.spend e t n).lhall = s.lhall := rfl
@[simp] theorem State.spend_land (s : State) (e : Config.Act) (t : Option (Fin 16)) (n : Nat) :
    (s.spend e t n).land = s.land := rfl
@[simp] theorem State.spend_strm (s : State) (e : Config.Act) (t : Option (Fin 16)) (n : Nat) :
    (s.spend e t n).strm = s.strm := rfl
@[simp] theorem State.spend_gal (s : State) (e : Config.Act) (t : Option (Fin 16)) (n : Nat) :
    (s.spend e t n).gal = s.gal := rfl
@[simp] theorem State.spend_fab (s : State) (e : Config.Act) (t : Option (Fin 16)) (n : Nat) :
    (s.spend e t n).fab = s.fab := rfl
@[simp] theorem State.spend_win (s : State) (e : Config.Act) (t : Option (Fin 16)) (n : Nat) :
    (s.spend e t n).win = s.win := rfl
@[simp] theorem State.spend_sync (s : State) (e : Config.Act) (t : Option (Fin 16)) (n : Nat) :
    (s.spend e t n).sync = s.sync := rfl
@[simp] theorem State.spend_pwr (s : State) (e : Config.Act) (t : Option (Fin 16)) (n : Nat) :
    (s.spend e t n).pwr = s.pwr := rfl
@[simp] theorem State.spend_therm (s : State) (e : Config.Act) (t : Option (Fin 16)) (n : Nat) :
    (s.spend e t n).therm = s.therm := rfl
@[simp] theorem State.spend_evt (s : State) (e : Config.Act) (t : Option (Fin 16)) (n : Nat) :
    (s.spend e t n).evt = s.evt := rfl
@[simp] theorem State.spend_mgmt (s : State) (e : Config.Act) (t : Option (Fin 16)) (n : Nat) :
    (s.spend e t n).mgmt = s.mgmt := rfl
@[simp] theorem State.spend_test (s : State) (e : Config.Act) (t : Option (Fin 16)) (n : Nat) :
    (s.spend e t n).test = s.test := rfl
@[simp] theorem State.spend_fuse (s : State) (e : Config.Act) (t : Option (Fin 16)) (n : Nat) :
    (s.spend e t n).fuse = s.fuse := rfl

/-! ### usePage -/

@[simp] theorem usePage_pending (p : Page) (s : State) :
    (usePage p s).pending = s.pending := rfl
@[simp] theorem usePage_build (p : Page) (s : State) :
    (usePage p s).build = s.build := rfl
@[simp] theorem usePage_now (p : Page) (s : State) :
    (usePage p s).now = s.now := rfl
@[simp] theorem usePage_nextId (p : Page) (s : State) :
    (usePage p s).nextId = s.nextId := rfl
@[simp] theorem usePage_freeIx (p : Page) (s : State) :
    (usePage p s).freeIx = s.freeIx := rfl
@[simp] theorem usePage_hdr (p : Page) (s : State) :
    (usePage p s).hdr = s.hdr := rfl
@[simp] theorem usePage_mem (p : Page) (s : State) :
    (usePage p s).mem = s.mem := rfl
@[simp] theorem usePage_range (p : Page) (s : State) :
    (usePage p s).range = s.range := rfl
@[simp] theorem usePage_reqs (p : Page) (s : State) :
    (usePage p s).reqs = s.reqs := rfl
@[simp] theorem usePage_access (p : Page) (s : State) :
    (usePage p s).access = s.access := rfl
@[simp] theorem usePage_jobs (p : Page) (s : State) :
    (usePage p s).jobs = s.jobs := rfl
@[simp] theorem usePage_granted (p : Page) (s : State) :
    (usePage p s).granted = s.granted := rfl
@[simp] theorem usePage_setNow (p : Page) (s : State) :
    (usePage p s).setNow = s.setNow := rfl
@[simp] theorem usePage_rcOld (p : Page) (s : State) :
    (usePage p s).rcOld = s.rcOld := rfl
@[simp] theorem usePage_clu (p : Page) (s : State) :
    (usePage p s).clu = s.clu := rfl
@[simp] theorem usePage_ush (p : Page) (s : State) :
    (usePage p s).ush = s.ush := rfl
@[simp] theorem usePage_step (p : Page) (s : State) :
    (usePage p s).step = s.step := rfl
@[simp] theorem usePage_lat (p : Page) (s : State) :
    (usePage p s).lat = s.lat := rfl
@[simp] theorem usePage_opa (p : Page) (s : State) :
    (usePage p s).opa = s.opa := rfl
@[simp] theorem usePage_tile (p : Page) (s : State) :
    (usePage p s).tile = s.tile := rfl
@[simp] theorem usePage_vec (p : Page) (s : State) :
    (usePage p s).vec = s.vec := rfl
@[simp] theorem usePage_flt (p : Page) (s : State) :
    (usePage p s).flt = s.flt := rfl
@[simp] theorem usePage_hall (p : Page) (s : State) :
    (usePage p s).hall = s.hall := rfl
@[simp] theorem usePage_lhall (p : Page) (s : State) :
    (usePage p s).lhall = s.lhall := rfl
@[simp] theorem usePage_land (p : Page) (s : State) :
    (usePage p s).land = s.land := rfl
@[simp] theorem usePage_strm (p : Page) (s : State) :
    (usePage p s).strm = s.strm := rfl
@[simp] theorem usePage_gal (p : Page) (s : State) :
    (usePage p s).gal = s.gal := rfl
@[simp] theorem usePage_fab (p : Page) (s : State) :
    (usePage p s).fab = s.fab := rfl
@[simp] theorem usePage_win (p : Page) (s : State) :
    (usePage p s).win = s.win := rfl
@[simp] theorem usePage_sync (p : Page) (s : State) :
    (usePage p s).sync = s.sync := rfl
@[simp] theorem usePage_pwr (p : Page) (s : State) :
    (usePage p s).pwr = s.pwr := rfl
@[simp] theorem usePage_energy (p : Page) (s : State) :
    (usePage p s).energy = s.energy := rfl
@[simp] theorem usePage_therm (p : Page) (s : State) :
    (usePage p s).therm = s.therm := rfl
@[simp] theorem usePage_evt (p : Page) (s : State) :
    (usePage p s).evt = s.evt := rfl
@[simp] theorem usePage_mgmt (p : Page) (s : State) :
    (usePage p s).mgmt = s.mgmt := rfl
@[simp] theorem usePage_test (p : Page) (s : State) :
    (usePage p s).test = s.test := rfl
@[simp] theorem usePage_fuse (p : Page) (s : State) :
    (usePage p s).fuse = s.fuse := rfl

/-! ### What an update writes -/

@[simp] theorem modThread_thread (t u : Fin 16) (f : Thread → Thread) (s : State) :
    (modThread t f s).thread u = if u = t then f (s.thread t) else s.thread u := by
  by_cases h : u = t
  · subst h; simp [modThread, State.thread]
  · simp [modThread, State.thread, Fin.getElem_fin, Ne.symm (fun e => h (Fin.ext e)), h]

@[simp] theorem modQueue_queue (q r : Fin 8) (f : EQueue → EQueue) (s : State) :
    (modQueue q f s).queue r = if r = q then f (s.queue q) else s.queue r := by
  by_cases h : r = q
  · subst h; simp [modQueue, State.queue]
  · simp [modQueue, State.queue, Fin.getElem_fin, Ne.symm (fun e => h (Fin.ext e)), h]

@[simp] theorem modRing_ring (l m : Fin 64) (f : Ring → Ring) (s : State) :
    (modRing l f s).ring m = if m = l then f (s.ring l) else s.ring m := by
  by_cases h : m = l
  · subst h; simp [modRing, State.ring]
  · simp [modRing, State.ring, Fin.getElem_fin, Ne.symm (fun e => h (Fin.ext e)), h]

@[simp] theorem modTier_tier (t : Tier) (f : Hall → Hall) (s : State) : (modTier t f s).tier t = f (s.tier t) := by
  cases t <;> rfl

/-- Reading a register of a thread that another register of it was written. -/
@[simp] theorem Thread.setReg_reg (th : Thread) (r q : Fin 32) (v : BitVec 64) :
    (th.setReg r v).reg q = if q = 0 then 0 else if q = r then v else th.reg q := by
  by_cases h0 : q = 0
  · simp [Thread.reg, h0]
  · by_cases hr : r = 0
    · simp [Thread.setReg, hr, h0, Thread.reg]
    · by_cases h : q = r
      · subst h; simp [Thread.setReg, hr, Thread.reg]
      · simp [Thread.setReg, hr, h0, h, Thread.reg, Fin.getElem_fin, Ne.symm (fun e => h (Fin.ext e))]

@[simp] theorem Thread.setReg_pc (th : Thread) (r : Fin 32) (v : BitVec 64) : (th.setReg r v).pc = th.pc := by
  unfold Thread.setReg; split <;> rfl
@[simp] theorem Thread.setReg_st (th : Thread) (r : Fin 32) (v : BitVec 64) : (th.setReg r v).st = th.st := by
  unfold Thread.setReg; split <;> rfl
@[simp] theorem Thread.setReg_pend (th : Thread) (r : Fin 32) (v : BitVec 64) : (th.setReg r v).pend = th.pend := by
  unfold Thread.setReg; split <;> rfl
@[simp] theorem Thread.setReg_issued (th : Thread) (r : Fin 32) (v : BitVec 64) : (th.setReg r v).issued = th.issued := by
  unfold Thread.setReg; split <;> rfl

end Sys2Proof.Machine
end

