-- ==== Sys2Proof/Laws/MemoryFrame.lean ====
section
/-! SUPPORT. Who leaves memory alone: one lemma for each operation of the model that stores nothing, and for the rows that
take an operation, the same of what they are given. -/

namespace Sys2Proof.Machine


/-- A fold whose every step keeps memory keeps it; `g` is where the state stands. -/
theorem foldl_keep {α β : Type} (g : β → State) (f : β → α → β) (h : ∀ b x, (g (f b x)).mem = (g b).mem) (l : List α) (b : β) :
    (g (l.foldl f b)).mem = (g b).mem := by
  induction l generalizing b with
  | nil => rfl
  | cons a l ih => rw [List.foldl_cons, ih, h]
/-- The same of a fold over states. -/
theorem foldl_mem {α : Type} (f : State → α → State) (h : ∀ s x, (f s x).mem = s.mem) (l : List α) (s : State) : (l.foldl f s).mem = s.mem := by
  induction l generalizing s with
  | nil => rfl
  | cons a l ih => simp [ih, h]
/-- A choice between two states with the same memory. -/
theorem ite_mem {p : Prop} [Decidable p] {x y : State} {m : List Host.Cell} (hx : x.mem = m) (hy : y.mem = m) :
    (if p then x else y).mem = m := by split <;> assumption
@[simp] theorem State.noteIf_mem (s : State) (c : Bool) (p : Page) (bit : Nat) : (State.noteIf s c p bit).mem = s.mem := by
  unfold State.noteIf; (repeat' split) <;> simp
@[simp] theorem State.fresh_mem (s : State) : (State.fresh s).2.mem = s.mem := by
  rfl
@[simp] theorem tagRelease_mem (l : Fin 64) (k : Nat) (wr ok : Bool) (s : State) : (tagRelease l k wr ok s).mem = s.mem := by
  rfl
@[simp] theorem takeEntry_mem (lo hi : Nat) (wr : Bool) (unit : MemUnit) (slot : Option (Fin 64 × Nat)) (s : State) :
    (takeEntry lo hi wr unit slot s).2.mem = s.mem := by
  rfl
@[simp] theorem release_mem (id : Nat) (ok : Bool) (s : State) : (release id ok s).mem = s.mem := by
  unfold release; (repeat' split) <;> simp
@[simp] theorem releaseAll_mem (ids : List Nat) (ok : Bool) (s : State) : (releaseAll ids ok s).mem = s.mem := by
  unfold releaseAll; apply foldl_mem; simp
@[simp] theorem addJob_mem (kind : JobKind) (entries : List Nat) (seq : Nat) (thread : Option (Fin 16)) (sig : Option (BitVec 13)) (s : State) :
    (addJob kind entries seq thread sig s).2.mem = s.mem := by
  rfl
@[simp] theorem addRead_mem (job tag : Nat) (unit : MemUnit) (entry : Option Nat) (a n : Nat) (s : State) :
    (addRead job tag unit entry a n s).mem = s.mem := by
  unfold addRead; apply foldl_mem; simp
@[simp] theorem addWrite_mem (job tag : Nat) (unit : MemUnit) (entry : Option Nat) (a : Nat) (bytes : List (BitVec 8)) (s : State) :
    (addWrite job tag unit entry a bytes s).mem = s.mem := by
  unfold addWrite; apply foldl_mem; simp
@[simp] theorem signalOpt_mem (sig : Option (BitVec 13)) (s : State) : (signalOpt sig s).mem = s.mem := by
  unfold signalOpt; (repeat' split) <;> simp
@[simp] theorem respond_mem (st : MgStat) (s : State) : (respond st s).mem = s.mem := by
  rfl
@[simp] theorem respondData_mem (v : BitVec 64) (s : State) : (respondData v s).mem = s.mem := by
  rfl
@[simp] theorem tagTake_mem (l : Fin 64) (k : Nat) (wr : Bool) (s : State) : (tagTake l k wr s).mem = s.mem := by
  simp only [tagTake]; (repeat' split) <;> simp
@[simp] theorem takeOne_mem (unit : MemUnit) (o : Nat × Nat × Bool) (s : State) : (takeOne unit o s).2.mem = s.mem := by
  unfold takeOne; (repeat' split) <;> simp
@[simp] theorem takeAtStart_mem (unit : MemUnit) (ops : List (Nat × Nat × Bool)) (had : List Nat) (s : State) :
    (takeAtStart unit ops had s).2.mem = s.mem := by
  unfold takeAtStart
  split
  · rfl
  · refine foldl_keep (fun x : List Nat × List Nat × State => x.2.2) _ (fun acc o => ?_) ops ([], had, s)
    split
    · simp
    · split <;> simp
@[simp] theorem discardQueues_mem (s : State) : (discardQueues s).mem = s.mem := by
  simp [discardQueues]
@[simp] theorem recordStartRow_mem (e : QEntry) (row cause : Nat) (s : State) :
    (recordStartRow e row cause s).mem = s.mem := by
  rfl
@[simp] theorem stopRows_mem (j : Job) (s : State) : (stopRows j s).2.mem = s.mem := by
  simp only [stopRows]; (repeat' split) <;> simp
@[simp] theorem retireUse_mem (t : Fin 16) (s : State) : (retireUse t s).mem = s.mem := by
  rfl
@[simp] theorem retireMove_mem (e : QEntry) (s : State) : (retireMove e s).mem = s.mem := by
  simp only [retireMove]; (repeat' split) <;> simp
@[simp] theorem reapMove_mem (id : Nat) (s : State) : (reapMove id s).mem = s.mem := by
  unfold reapMove; (repeat' split) <;> simp
@[simp] theorem stopTiles_mem (s : State) : (stopTiles s).mem = s.mem := by
  unfold stopTiles
  refine foldl_mem _ (fun s j => ?_) _ _
  split
  · rfl
  · split
    · rfl
    · have h := stopRows_mem j s
      split <;> rename_i e <;> rw [e] at h <;> simp_all
@[simp] theorem dropXfers_mem (mine : Holder → Bool) (s : State) : (dropXfers mine s).mem = s.mem := by
  rfl
@[simp] theorem dropFlits_mem (id : Nat) (s : State) : (dropFlits id s).mem = s.mem := by
  rfl
@[simp] theorem reapTile_mem (id : Nat) (s : State) : (reapTile id s).mem = s.mem := by
  unfold reapTile; (repeat' split) <;> simp
@[simp] theorem dropBlock_mem (g : Gen) (s : State) : (dropBlock g s).mem = s.mem := by
  simp only [dropBlock]; (repeat' split) <;> simp
@[simp] theorem cancelCtx_mem (n c : Fin 4) (s : State) : (cancelCtx n c s).mem = s.mem := by
  unfold cancelCtx
  (try simp only [])
  (repeat' split) <;> first
    | rfl
    | (simp; done)
    | exact (foldl_mem _ (fun s x => by first | rfl | (simp; done)) _ _).trans (by simp)
    | exact (foldl_keep (fun x => x.2) _ (fun s x => by first | rfl | (simp; done)) _ _).trans (by simp)
@[simp] theorem finishCancel_mem (n c : Fin 4) (s : State) : (finishCancel n c s).mem = s.mem := by
  unfold finishCancel
  simp only []
  split
  · exact (foldl_mem _ (fun s t => by simp) _ _).trans (by simp)
  · rfl
@[simp] theorem cancelAll_mem (s : State) : (cancelAll s).mem = s.mem := by
  unfold cancelAll
  generalize allCtx = l
  exact foldl_mem _ (fun s nc => by simp) _ _
@[simp] theorem reapLanding_mem (l : Fin 64) (s : State) : (reapLanding l s).mem = s.mem := by
  unfold reapLanding; (repeat' split) <;> simp
@[simp] theorem stopLandings_mem (s : State) : (stopLandings s).mem = s.mem := by
  unfold stopLandings
  generalize List.finRange 64 = l
  refine foldl_mem _ (fun s l => ?_) _ _
  split
  · rfl
  · split <;> simp
@[simp] theorem stopEngines_mem (s : State) : (stopEngines s).mem = s.mem := by
  unfold stopEngines
  rw [stopLandings_mem, cancelAll_mem, stopTiles_mem, discardQueues_mem]
@[simp] theorem dropFences_mem (ts : List (Fin 16)) (s : State) : (dropFences ts s).mem = s.mem := by
  unfold dropFences; (repeat' split) <;> simp
@[simp] theorem taskAbort_mem (s : State) : (taskAbort s).mem = s.mem := by
  unfold taskAbort
  simp only [countEvt_mem, stopEngines_mem, dropFences_mem]
@[simp] theorem abortFor_mem (p : Page) (code : Nat) (seq : BitVec 32) (s : State) :
    (abortFor p code seq s).mem = s.mem := by
  unfold abortFor; (repeat' split) <;> simp
@[simp] theorem memAbort_mem (p : Page) (code : Nat) (seq : BitVec 32) (s : State) :
    (memAbort p code seq s).mem = s.mem := by
  unfold memAbort; (repeat' split) <;> simp
@[simp] theorem engineFault_mem (p : Page) (bit code detail seq : Nat) (s : State) :
    (engineFault p bit code detail seq s).mem = s.mem := by
  simp [engineFault]
@[simp] theorem jobEvent_mem (p : Page) (bit code detail : Nat) (s : State) :
    (jobEvent p bit code detail s).mem = s.mem := by
  unfold jobEvent; (repeat' split) <;> simp
@[simp] theorem firmwareFault_mem (code : Nat) (pc : BitVec 18) (s : State) : (firmwareFault code pc s).mem = s.mem := by
  unfold firmwareFault; (repeat' split) <;> simp
@[simp] theorem preciseFaultAt_mem (t : Fin 16) (pc : BitVec 18) (code : Nat) (s : State) :
    (preciseFaultAt t pc code s).mem = s.mem := by
  simp only [preciseFaultAt]; (repeat' split) <;> simp
@[simp] theorem preciseFault_mem (t : Fin 16) (code : Nat) (s : State) : (preciseFault t code s).mem = s.mem := by
  simp [preciseFault]
@[simp] theorem mgmtLost_mem (s : State) : (mgmtLost s).mem = s.mem := by
  unfold mgmtLost; (repeat' split) <;> simp
@[simp] theorem usherReset_mem (s : State) : (usherReset s).mem = s.mem := by
  simp [usherReset]
@[simp] theorem startThread_mem (t : Fin 16) (pc : BitVec 18) (s : State) : (startThread t pc s).mem = s.mem := by
  simp only [startThread]; (repeat' split) <;> simp
@[simp] theorem addXfer_mem (x : Xfer) (s : State) : (addXfer x s).mem = s.mem := by
  rfl
@[simp] theorem addTx_mem (g : Fin 4) (f : TxFlit) (s : State) : (addTx g f s).mem = s.mem := by
  rfl
@[simp] theorem issueRow_mem (n c : Fin 4) (j : Job) (d : Desc) (r src dst : Nat) (s : State) :
    (issueRow n c j d r src dst s).mem = s.mem := by
  have xf (x : Nat × Nat → State → Xfer) (ps : List (Nat × Nat)) (s : State) :
      (ps.foldl (fun s p => addXfer (x p s) s) s).mem = s.mem := foldl_mem _ (fun s p => by simp) _ _
  have tx (f : Nat × Nat → TxFlit) (g : Fin 4) (ps : List (Nat × Nat)) (s : State) :
      (ps.foldl (fun s p => addTx g (f p) s) s).mem = s.mem := foldl_mem _ (fun s p => by simp) _ _
  unfold issueRow
  (try simp only [])
  split
  · refine (xf _ _ _).trans ?_
    split
    · simp
    · exact xf _ _ _
    · exact tx _ _ _ _
  · split
    · simp
    · exact xf _ _ _
    · exact tx _ _ _ _
@[simp] theorem advanceRows_mem (id fuel : Nat) (s : State) : (advanceRows id fuel s).mem = s.mem := by
  induction fuel generalizing s with
  | zero => rfl
  | succ n ih => unfold advanceRows; (repeat' split) <;> simp [ih]
@[simp] theorem emitFlits_mem (id fuel : Nat) (s : State) : (emitFlits id fuel s).mem = s.mem := by
  induction fuel generalizing s with
  | zero => rfl
  | succ n ih => unfold emitFlits; simp only []; (repeat' split) <;> simp [ih]
@[simp] theorem holdCtx_mem (n c : Fin 4) (job : Option Nat) (held : Nat × Desc) (s : State) :
    (holdCtx n c job held s).mem = s.mem := by
  unfold holdCtx; (repeat' split) <;> simp
@[simp] theorem recordStreamFault_mem (n c : Fin 4) (k row descAddr : Nat) (s : State) :
    (recordStreamFault n c k row descAddr s).mem = s.mem := by
  unfold recordStreamFault; (repeat' split) <;> simp
@[simp] theorem streamFault_mem (n c : Fin 4) (k row : Nat) (job : Option Nat) (held : Nat × Desc) (push : Nat)
    (tier : Option (Page × Nat × BitVec 32)) (s : State) : (streamFault n c k row job held push tier s).mem = s.mem := by
  have log : (if k < 5 then logEvt (Page.strm n) k (defaultLog (streamCode k) c.val push) (recordStreamFault n c k row held.1 s)
      else recordStreamFault n c k row held.1 s).mem = s.mem := ite_mem (by simp) (by simp)
  unfold streamFault
  split
  · rfl
  · simp only []
    refine ite_mem (by rw [holdCtx_mem, log]) ?_
    split
    · exact ite_mem (by rw [cancelCtx_mem, log]) (by rw [abortFor_mem, log])
    · rw [abortFor_mem, log]
@[simp] theorem releaseIf_mem (b : Bool) (e : Option Nat) (s : State) : (releaseIf b e s).mem = s.mem := by
  unfold releaseIf; (repeat' split) <;> simp
@[simp] theorem releaseTile_mem (d : Desc) (j : Job) (s : State) : (releaseTile d j s).mem = s.mem := by
  simp [releaseTile]
@[simp] theorem settleTile_mem (id : Nat) (s : State) : (settleTile id s).mem = s.mem := by
  unfold settleTile; simp only []; (repeat' split) <;> simp
@[simp] theorem tileBytes_mem (id tag a : Nat) (bs : List (BitVec 8)) (s : State) :
    (tileBytes id tag a bs s).mem = s.mem := by
  unfold tileBytes; (repeat' split) <;> simp
@[simp] theorem tileRead_mem (id tag addr : Nat) (data : List Host.Cell) (s : State) :
    (tileRead id tag addr data s).mem = s.mem := by
  unfold tileRead; (repeat' split) <;> simp
@[simp] theorem countMoved_mem (n : Fin 4) (k : Nat) (s : State) : (countMoved n k s).mem = s.mem := by
  rfl
@[simp] theorem holdTile_mem (e : QEntry) (row cause : Nat) (s : State) : (holdTile e row cause s).mem = s.mem := by
  unfold holdTile; (repeat' split) <;> simp
@[simp] theorem tileShapeFault_mem (e : QEntry) (row : Nat) (s : State) : (tileShapeFault e row s).mem = s.mem := by
  unfold tileShapeFault; (repeat' split) <;> simp
@[simp] theorem stopTileJob_mem (j : Job) (row : Option Nat) (cause : Nat) (s : State) :
    (stopTileJob j row cause s).mem = s.mem := by
  simp only [stopTileJob]; (repeat' split) <;> simp
@[simp] theorem tileAccessFault_mem (id row : Nat) (p : Page) (code : Nat) (seq : BitVec 32) (s : State) :
    (tileAccessFault id row p code seq s).mem = s.mem := by
  simp only [tileAccessFault]; (repeat' split) <;> simp
theorem tileStart_mem (opc : Nat) (go : QEntry → State → State) (h : ∀ e s, (go e s).mem = s.mem) (s : State) :
    (tileStart opc go s).mem = s.mem := by
  unfold tileStart; (repeat' split) <;> simp [h]
@[simp] theorem startCfg_mem (e : QEntry) (s : State) : (startCfg e s).mem = s.mem := by
  unfold startCfg; (repeat' split) <;> simp
@[simp] theorem tileCfgTakeEffect_mem (s : State) : (tileCfgTakeEffect s).mem = s.mem := by
  simp only [tileCfgTakeEffect]; (repeat' split) <;> simp
@[simp] theorem issueLoad_mem (id : Nat) (m : TmoveCmd) (es : List Nat) (s : State) : (issueLoad id m es s).mem = s.mem := by
  unfold issueLoad; apply foldl_mem; intro s x; simp only []; (repeat' split) <;> simp
@[simp] theorem issueStore_mem (id : Nat) (m : TmoveCmd) (h : TileShape) (es : List Nat) (s : State) :
    (issueStore id m h es s).mem = s.mem := by
  unfold issueStore; apply foldl_mem; intro s x; simp only []; (repeat' split) <;> simp
@[simp] theorem startMove_mem (e : QEntry) (s : State) : (startMove e s).mem = s.mem := by
  simp only [startMove]; (repeat' split) <;> simp
@[simp] theorem finishMove_mem (id : Nat) (s : State) : (finishMove id s).mem = s.mem := by
  unfold finishMove; (repeat' split) <;> simp
@[simp] theorem tldLine_mem (id : Nat) (m : TmoveCmd) (h : TileShape) (r k : Nat) (s : State) :
    (tldLine id m h r k s).mem = s.mem := by
  simp only [tldLine]; (repeat' split) <;> simp
@[simp] theorem tldRead_mem (id tag addr : Nat) (data : List Host.Cell) (s : State) :
    (tldRead id tag addr data s).mem = s.mem := by
  unfold tldRead
  split
  · rfl
  · split
    · simp only []
      split
      · rfl
      · split
        · simp
        · exact (foldl_mem _ (fun s i => by simp) _ _).trans (by simp)
    · rfl
@[simp] theorem landLine_mem (b : Nat) (s : State) : (landLine b s).mem = s.mem := by
  simp only [landLine]; (repeat' split) <;> simp
@[simp] theorem tstGranted_mem (req : LineReq) (s : State) : (tstGranted req s).mem = s.mem := by
  simp only [tstGranted]; (repeat' split) <;> simp
@[simp] theorem tileCtl_mem (v : BitVec 64) (s : State) : (tileCtl v s).mem = s.mem := by
  simp only [tileCtl]; (repeat' split) <;> simp
@[simp] theorem pauseTile_mem (s : State) : (pauseTile s).mem = s.mem := by
  unfold pauseTile; (repeat' split) <;> simp
/-- What the commit of a beat changes: its array, and the sticky flags it raises. -/
theorem commitBeat_eq (a : Fin 2) (t : Beat) (s : State) : ∃ f f1 f2 f3, commitBeat a t s =
    modOpa a f (((s.noteIf f1 (Page.opa a) 40).noteIf f2 (Page.opa a) 41).noteIf f3 (Page.opa a) 42) := by
  unfold commitBeat
  exact ⟨_, _, _, _, rfl⟩
@[simp] theorem commitBeat_mem (a : Fin 2) (t : Beat) (s : State) : (commitBeat a t s).mem = s.mem := by
  obtain ⟨f, f1, f2, f3, h⟩ := commitBeat_eq a t s
  simp [h]
@[simp] theorem commitBeats_mem (a : Fin 2) (s : State) : (commitBeats a s).mem = s.mem := by
  unfold commitBeats
  exact (foldl_mem _ (fun s t => commitBeat_mem a t s) _ _).trans (by simp only [modOpa_mem])
@[simp] theorem retireTiles_mem (ts : List (Fin 16)) (s : State) : (retireTiles ts s).mem = s.mem := by
  unfold retireTiles; apply foldl_mem; intros; (repeat' split) <;> simp
@[simp] theorem enterBeat_mem (a : Fin 2) (s : State) : (enterBeat a s).mem = s.mem := by
  simp only [enterBeat]; (repeat' split) <;> simp
@[simp] theorem arrayCycle_mem (a : Fin 2) (carry : List Nat) (held : Bool) (s : State) :
    (arrayCycle a carry held s).mem = s.mem := by
  simp only [arrayCycle]; (repeat' split) <;> simp
@[simp] theorem arrayCycles_mem (s : State) : (arrayCycles s).mem = s.mem := by
  unfold arrayCycles; (repeat' split) <;> simp
@[simp] theorem opaFault_mem (a : Fin 2) (e : QEntry) (code : Nat) (s : State) : (opaFault a e code s).mem = s.mem := by
  unfold opaFault; (repeat' split) <;> simp
@[simp] theorem runArray_mem (a : Fin 2) (e : QEntry) (s : State) : (runArray a e s).mem = s.mem := by
  rfl
@[simp] theorem opaStart_mem (opc : Nat) (a : Fin 2) (s : State) : (opaStart opc a s).mem = s.mem := by
  unfold opaStart; (repeat' split) <;> simp
@[simp] theorem bankReadoutPoint_mem (a b : Fin 2) (s : State) : (bankReadoutPoint a b s).mem = s.mem := by
  unfold bankReadoutPoint; (repeat' split) <;> simp
@[simp] theorem opaCtl_mem (a : Fin 2) (v : BitVec 64) (s : State) : (opaCtl a v s).mem = s.mem := by
  simp only [opaCtl]; (repeat' split) <;> simp
@[simp] theorem vecStarted_mem (e : QEntry) (s : State) : (vecStarted e s).mem = s.mem := by
  rfl
@[simp] theorem addRun_mem (r : VRun) (s : State) : (addRun r s).mem = s.mem := by
  rfl
@[simp] theorem setRun_mem (i : Nat) (r : VRun) (s : State) : (setRun i r s).mem = s.mem := by
  rfl
@[simp] theorem addWrites_mem (at_ : Nat) (cells : List VCell) (s : State) : (addWrites at_ cells s).mem = s.mem := by
  rfl
@[simp] theorem countPass_mem (e : QEntry) (s : State) : (countPass e s).mem = s.mem := by
  rfl
@[simp] theorem issueLanes_mem (r : VRun) (s : State) : (issueLanes r s).2.mem = s.mem := by
  simp only [issueLanes]; (repeat' split) <;> simp
@[simp] theorem laneStart_mem (e : QEntry) (s : State) : (laneStart e s).mem = s.mem := by
  unfold laneStart; (repeat' split) <;> simp
@[simp] theorem laneRow_mem (sel : Cmd → Bool) (s : State) : (laneRow sel s).mem = s.mem := by
  unfold laneRow; (repeat' split) <;> simp
@[simp] theorem holdLane_mem (e : QEntry) (lane code : Nat) (s : State) : (holdLane e lane code s).mem = s.mem := by
  unfold holdLane; (repeat' split) <;> simp
@[simp] theorem countOob_mem (e : QEntry) (lanes : List Nat) (s : State) : (countOob e lanes s).mem = s.mem := by
  simp only [countOob]; (repeat' split) <;> simp
theorem laneChecked_mem (e : QEntry) (code : Nat) (go : State → State) (s : State) (h : (go s).mem = s.mem) :
    (laneChecked e code go s).mem = s.mem := by
  unfold laneChecked; (repeat' split) <;> simp [h]
@[simp] theorem permRow_mem (fn : Nat) (s : State) : (permRow fn s).mem = s.mem := by
  unfold permRow; split
  · rfl
  · split
    · exact laneChecked_mem _ _ _ _ (by simp)
    · rfl
@[simp] theorem putCells_mem (cs : List VCell) (s : State) : (putCells cs s).mem = s.mem := by
  rfl
@[simp] theorem dropRun_mem (id : Nat) (s : State) : (dropRun id s).mem = s.mem := by
  rfl
@[simp] theorem loadArrived_mem (id : Nat) (s : State) : (loadArrived id s).mem = s.mem := by
  unfold loadArrived
  split
  · rfl
  · split
    · split <;> simp
    · split
      · rfl
      · simp only []
        have h (r : VRun) (buf : List Host.Cell) (ps : List Nat) (i : Nat) (r' : VRun) :
            (setRun i r' (ps.foldl (fun s p => putCells (loadCells s r buf p) s) s)).mem = s.mem := by
          rw [setRun_mem]; exact foldl_mem _ (fun s p => by simp) _ _
        split <;> simp only [signalOpt_mem, dropJob_mem, releaseAll_mem, dropRun_mem, h]
@[simp] theorem storeDone_mem (id : Nat) (s : State) : (storeDone id s).mem = s.mem := by
  simp only [storeDone]; (repeat' split) <;> simp
@[simp] theorem addCells_mem (job tag : Nat) (entry : Option Nat) (lo n : Nat) (cs : List Host.Cell) (s : State) :
    (addCells job tag entry lo n cs s).mem = s.mem := by
  unfold addCells; apply foldl_mem; intros; (repeat' split) <;> simp
@[simp] theorem loadReqs_mem (c : Cmd) (id p : Nat) (es : List Nat) (lanes : List Nat) (s : State) :
    (loadReqs c id p es lanes s).mem = s.mem := by
  unfold loadReqs
  (try simp only [])
  (repeat' split) <;> first
    | rfl
    | (simp; done)
    | exact (foldl_mem _ (fun s x => by first | rfl | (simp; done)) _ _).trans (by simp)
    | exact (foldl_keep (fun x => x.2) _ (fun s x => by first | rfl | (simp; done)) _ _).trans (by simp)
@[simp] theorem storeReqs_mem (e : QEntry) (id p : Nat) (es : List Nat) (lanes : List Nat) (s : State) :
    (storeReqs e id p es lanes s).mem = s.mem := by
  unfold storeReqs
  (try simp only [])
  (repeat' split) <;> first
    | rfl
    | (simp; done)
    | exact (foldl_mem _ (fun s x => by first | rfl | (simp; done)) _ _).trans (by simp)
    | exact (foldl_keep (fun x => x.2) _ (fun s x => by first | rfl | (simp; done)) _ _).trans (by simp)
@[simp] theorem issueMem_mem (id : Nat) (es : List Nat) (r : VRun) (s : State) : (issueMem id es r s).2.mem = s.mem := by
  simp only [issueMem]; (repeat' split) <;> simp
@[simp] theorem memStart_mem (e : QEntry) (s : State) : (memStart e s).mem = s.mem := by
  simp only [memStart]; (repeat' split) <;> simp
@[simp] theorem memRow_mem (opc : Nat) (check : Bool) (s : State) : (memRow opc check s).mem = s.mem := by
  unfold memRow; split
  · rfl
  · split
    · exact ite_mem (laneChecked_mem _ _ _ _ (by simp)) (by simp)
    · rfl
@[simp] theorem bankReads_mem (a b : Fin 2) (s : State) : (bankReads a b s).mem = s.mem := by
  rfl
@[simp] theorem issueReadout_mem (r : VRun) (s : State) : (issueReadout r s).2.mem = s.mem := by
  rfl
@[simp] theorem vaccRd_mem (s : State) : (vaccRd s).mem = s.mem := by
  simp only [vaccRd]; (repeat' split) <;> simp
@[simp] theorem vcfg_mem (s : State) : (vcfg s).mem = s.mem := by
  unfold vcfg; (repeat' split) <;> simp
@[simp] theorem lanePass_mem (i : Nat) (s : State) : (lanePass i s).mem = s.mem := by
  unfold lanePass; (repeat' split) <;> simp
@[simp] theorem lanePasses_mem (s : State) : (lanePasses s).mem = s.mem := by
  unfold lanePasses; apply foldl_mem; intros; (repeat' split) <;> simp
@[simp] theorem memPass_mem (i : Nat) (s : State) : (memPass i s).mem = s.mem := by
  simp only [memPass]; (repeat' split) <;> simp
@[simp] theorem memPasses_mem (s : State) : (memPasses s).mem = s.mem := by
  unfold memPasses; apply foldl_mem; intros; (repeat' split) <;> simp
@[simp] theorem applyWrites_mem (s : State) : (applyWrites s).mem = s.mem := by
  unfold applyWrites; apply foldl_mem; intros; (repeat' split) <;> simp
@[simp] theorem endRuns_mem (s : State) : (endRuns s).mem = s.mem := by
  unfold endRuns; apply foldl_mem; intros; (repeat' split) <;> simp
@[simp] theorem holdBack_mem (e : QEntry) (j : Job) (s : State) : (holdBack e j s).mem = s.mem := by
  rfl
@[simp] theorem vecCtl_mem (v : BitVec 64) (s : State) : (vecCtl v s).mem = s.mem := by
  unfold vecCtl; (repeat' split) <;> simp
@[simp] theorem vloadFault_mem (id : Nat) (p : Page) (code : Nat) (seq : BitVec 32) (s : State) :
    (vloadFault id p code seq s).mem = s.mem := by
  unfold vloadFault; (repeat' split) <;> simp
@[simp] theorem recordFlt_mem (code stage pos seq : Nat) (s : State) : (recordFlt code stage pos seq s).mem = s.mem := by
  rfl
@[simp] theorem holdFlight_mem (s : State) : (holdFlight s).mem = s.mem := by
  unfold holdFlight; (repeat' split) <;> simp
@[simp] theorem flightFault_mem (e : QEntry) (code stage : Nat) (s : State) : (flightFault e code stage s).mem = s.mem := by
  simp only [flightFault]; (repeat' split) <;> simp
@[simp] theorem recReads_mem (id tag : Nat) (entry : Option Nat) (c m : Cmd) (es : List Nat) (s : State) :
    (recReads id tag entry c m es s).mem = s.mem := by
  unfold recReads; apply foldl_mem; intros; (repeat' split) <;> simp
@[simp] theorem issueFlight_mem (id : Nat) (entries : List Nat) (r : VRun) (s : State) :
    (issueFlight id entries r s).2.mem = s.mem := by
  simp only [issueFlight]; (repeat' split) <;> simp
@[simp] theorem slipFlight_mem (id k d : Nat) (s : State) : (slipFlight id k d s).mem = s.mem := by
  rfl
@[simp] theorem flightRead_mem (id k at_ : Nat) (s : State) : (flightRead id k at_ s).mem = s.mem := by
  unfold flightRead; (repeat' split) <;> simp
@[simp] theorem putLines_mem (id : Nat) (entry : Option Nat) (cs : List Host.Cell) (s : State) :
    (putLines id entry cs s).mem = s.mem := by
  unfold putLines; apply foldl_mem; intros; (repeat' split) <;> simp
@[simp] theorem leaveFlight_mem (j : Job) (r : VRun) (s : State) : (leaveFlight j r s).mem = s.mem := by
  unfold leaveFlight
  (try simp only [])
  refine ite_mem ?_ ?_ <;> simp only [modJob_mem, State.spend_mem]
  all_goals
    refine foldl_keep (fun x : Nat × State => x.2) _ (fun acc d => ?_) _ _
    (try simp only [])
    split <;> simp
@[simp] theorem flightTurn_mem (i : Nat) (s : State) : (flightTurn i s).mem = s.mem := by
  simp only [flightTurn]; (repeat' split) <;> simp
@[simp] theorem flightTurns_mem (s : State) : (flightTurns s).mem = s.mem := by
  unfold flightTurns; apply foldl_mem; intros; (repeat' split) <;> simp
@[simp] theorem startFlight_mem (e : QEntry) (s : State) : (startFlight e s).mem = s.mem := by
  simp only [startFlight]; (repeat' split) <;> simp
theorem fltRow_mem (opc : Nat) (ok : State → QEntry → Bool) (go : QEntry → State → State)
    (h : ∀ e s, (go e s).mem = s.mem) (s : State) : (fltRow opc ok go s).mem = s.mem := by
  unfold fltRow; (repeat' split) <;> simp [h]
@[simp] theorem startStg_mem (e : QEntry) (s : State) : (startStg e s).mem = s.mem := by
  unfold startStg; (repeat' split) <;> simp
@[simp] theorem startAdr_mem (e : QEntry) (s : State) : (startAdr e s).mem = s.mem := by
  unfold startAdr; (repeat' split) <;> simp
@[simp] theorem startTrd_mem (e : QEntry) (s : State) : (startTrd e s).mem = s.mem := by
  unfold startTrd; (repeat' split) <;> simp
@[simp] theorem flightComplete_mem (s : State) : (flightComplete s).mem = s.mem := by
  unfold flightComplete; (repeat' split) <;> simp
@[simp] theorem treadLoaded_mem (p : Fin 64) (s : State) : (treadLoaded p s).mem = s.mem := by
  simp only [treadLoaded]; (repeat' split) <;> simp
@[simp] theorem flightAccessFault_mem (id tag addr len : Nat) (p : Page) (code : Nat) (seq : BitVec 32) (s : State) :
    (flightAccessFault id tag addr len p code seq s).mem = s.mem := by
  simp only [flightAccessFault]; (repeat' split) <;> simp
@[simp] theorem flightWriteFault_mem (id : Nat) (p : Page) (code : Nat) (seq : BitVec 32) (s : State) :
    (flightWriteFault id p code seq s).mem = s.mem := by
  unfold flightWriteFault; (repeat' split) <;> simp
@[simp] theorem treadFault_mem (id : Nat) (p : Page) (code : Nat) (seq : BitVec 32) (s : State) :
    (treadFault id p code seq s).mem = s.mem := by
  unfold treadFault; (repeat' split) <;> simp
@[simp] theorem useSlot_mem (t : Fin 16) (turn : Turn) (o : UOp) (w : BitVec 32) (s : State) :
    (useSlot t turn o w s).mem = s.mem := by
  unfold useSlot; (repeat' split) <;> simp
@[simp] theorem deferSync_mem (n : Nat) (op : SyncOp) (s : State) : (deferSync n op s).2.mem = s.mem := by
  rfl
@[simp] theorem syncVal_mem (v : BitVec 64) (s : State) : (syncVal v s).mem = s.mem := by
  simp only [syncVal]; (repeat' split) <;> simp
@[simp] theorem modQue_mem (q : Nat) (f : QueCtx → QueCtx) (s : State) : (modQue q f s).mem = s.mem := by
  rfl
@[simp] theorem wakeQue_mem (put : Bool) (q : Nat) (s : State) : (wakeQue put q s).mem = s.mem := by
  rfl
@[simp] theorem quePutNow_mem (q : Nat) (v : BitVec 64) (unit : MemUnit) (by_ : Option (Fin 16 × BitVec 18)) (s : State) :
    (quePutNow q v unit by_ s).2.mem = s.mem := by
  unfold quePutNow; (repeat' split) <;> simp
@[simp] theorem putDone_mem (q idx : Nat) (s : State) : (putDone q idx s).mem = s.mem := by
  rfl
@[simp] theorem qput_mem (unit : MemUnit) (q : Nat) (v : BitVec 64) (s : State) : (qput unit q v s).2.mem = s.mem := by
  simp only [qput]; (repeat' split) <;> simp
theorem atomSync_mem (n : Nat) (op : AtomOp) (b c : BitVec 64) (s : State) (r : BitVec 64 × State)
    (h : atomSync n op b c s = some r) : r.2.mem = s.mem := by
  obtain ⟨v, -, rfl⟩ := Option.map_eq_some_iff.mp h
  simp
@[simp] theorem sendAtom_mem (t : Fin 16) (a : AtomReq) (own : Option Nat) (s : State) :
    (sendAtom t a own s).mem = s.mem := by
  unfold sendAtom; (repeat' split) <;> simp
@[simp] theorem takeAtomEntry_mem (a : AtomReq) (s : State) : (takeAtomEntry a s).2.mem = s.mem := by
  unfold takeAtomEntry; (repeat' split) <;> simp
@[simp] theorem atomResult_mem (t : Fin 16) (id : Nat) (rd : Fin 32) (v : BitVec 64) (from_ : Nat) (s : State) :
    (atomResult t id rd v from_ s).mem = s.mem := by
  rfl
@[simp] theorem refuse_mem (p : LinkPort) (src : Identity) (o reason : Nat) (s : State) :
    (refuse p src o reason s).mem = s.mem := by
  unfold refuse; (repeat' split) <;> simp
@[simp] theorem setWin_mem (k : Fin 64) (w : Window) (s : State) : (setWin k w s).mem = s.mem := by
  rfl
@[simp] theorem winCtl_mem (k : Fin 64) (v : BitVec 64) (s : State) : (winCtl k v s).mem = s.mem := by
  simp only [winCtl]; (repeat' split) <;> simp
@[simp] theorem winField_mem (k : Fin 64) (f : Nat) (v : BitVec 64) (s : State) : (winField k f v s).mem = s.mem := by
  simp only [winField]; (repeat' split) <;> simp
@[simp] theorem modFab_mem (f : Fab → Fab) (s : State) : (modFab f s).mem = s.mem := by
  rfl
@[simp] theorem drive_mem (p : FabPacket) (s : State) : (drive p s).mem = s.mem := by
  rfl
@[simp] theorem fabReceived_mem (t : Option (Fin 16)) (k : Nat) (s : State) : (fabReceived t k s).mem = s.mem := by
  rfl
@[simp] theorem settleSpill_mem (l : Fin 64) (id : Nat) (s : State) : (settleSpill l id s).mem = s.mem := by
  unfold settleSpill; (repeat' split) <;> simp
@[simp] theorem payToken_mem (s : State) : (payToken s).mem = s.mem := by
  unfold payToken; (repeat' split) <;> simp
@[simp] theorem modXfer_mem (i : Nat) (f : Xfer → Xfer) (s : State) : (modXfer i f s).mem = s.mem := by
  rfl
@[simp] theorem noteOut_mem (h : Holder) (s : State) : (noteOut h s).mem = s.mem := by
  unfold noteOut; (repeat' split) <;> simp
@[simp] theorem spendDone_mem (i : Nat) (x : Xfer) (s : State) : (spendDone i x s).mem = s.mem := by
  unfold spendDone; (repeat' split) <;> simp
@[simp] theorem spendSlot_mem (i : Nat) (x : Xfer) (s : State) : (spendSlot i x s).mem = s.mem := by
  simp only [spendSlot]; (repeat' split) <;> simp
@[simp] theorem sendRemote_mem (s : State) : (sendRemote s).mem = s.mem := by
  unfold sendRemote; (repeat' split) <;> simp
@[simp] theorem modTagged_mem (tag : Fin 512) (f : Xfer → Xfer) (s : State) : (modTagged tag f s).mem = s.mem := by
  rfl
@[simp] theorem dropXfer_mem (tag : Fin 512) (s : State) : (dropXfer tag s).mem = s.mem := by
  rfl
@[simp] theorem lineImage_mem (a : Nat) (bs : List (BitVec 8)) (s : State) : (lineImage a bs s).2.mem = s.mem := by
  rfl
@[simp] theorem fabReadData_mem (tag : Fin 512) (data : List (BitVec 1024)) (s : State) :
    (fabReadData tag data s).mem = s.mem := by
  unfold fabReadData
  split
  · rfl
  · split
    · rename_i x _ dst _
      have note (q d : Prop) [Decidable q] [Decidable d] (f g : Xfer → Xfer) (u : State) :
          (if q then (if d then dropXfer tag u else modTagged tag f u) else modTagged tag g u).mem = u.mem :=
        ite_mem (ite_mem (by simp) (by simp)) (by simp)
      (try simp only [])
      split
      · rw [settleTile_mem]
        exact (foldl_mem _ (fun s b => by simp) _ _).trans ((note _ _ _ _ _).trans (by simp))
      · exact (foldl_mem _ (fun s b => by simp) _ _).trans ((note _ _ _ _ _).trans (by simp))
      · exact (note _ _ _ _ _).trans (by simp)
    · rfl
@[simp] theorem fabAcked_mem (tag : Fin 512) (s : State) : (fabAcked tag s).mem = s.mem := by
  unfold fabAcked; (repeat' split) <;> simp
@[simp] theorem fabAtomAnswer_mem (tag : Fin 512) (v : BitVec 64) (s : State) : (fabAtomAnswer tag v s).mem = s.mem := by
  unfold fabAtomAnswer
  (try simp only [])
  (repeat' split) <;> first
    | rfl
    | (simp; done)
    | exact (foldl_mem _ (fun s x => by first | rfl | (simp; done)) _ _).trans (by simp)
    | exact (foldl_keep (fun x => x.2) _ (fun s x => by first | rfl | (simp; done)) _ _).trans (by simp)
@[simp] theorem tileXferError_mem (k id addr : Nat) (s : State) : (tileXferError k id addr s).mem = s.mem := by
  unfold tileXferError; (repeat' split) <;> simp
@[simp] theorem atomError_mem (t : Fin 16) (id : Nat) (posted : Bool) (s : State) :
    (atomError t id posted s).mem = s.mem := by
  simp only [atomError]; (repeat' split) <;> simp
@[simp] theorem xferError_mem (x : Xfer) (s : State) : (xferError x s).mem = s.mem := by
  unfold xferError; (repeat' split) <;> simp
@[simp] theorem fabErrAnswer_mem (tag : Fin 512) (code : ErrCode) (s : State) : (fabErrAnswer tag code s).mem = s.mem := by
  simp only [fabErrAnswer]; (repeat' split) <;> simp
@[simp] theorem fabUnsupported_mem (i : Nat) (x : Xfer) (s : State) : (fabUnsupported i x s).mem = s.mem := by
  unfold fabUnsupported; (repeat' split) <;> simp
@[simp] theorem fabIssue_mem (s : State) : (fabIssue s).mem = s.mem := by
  simp only [fabIssue]; (repeat' split) <;> simp
@[simp] theorem fabDown_mem (s : State) : (fabDown s).mem = s.mem := by
  unfold fabDown
  simp only []
  split
  · rfl
  · exact (foldl_mem _ (fun s x => by simp) _ _).trans (by simp)
@[simp] theorem fabRefuse_mem (src : Identity) (tag : Nat) (a : BitVec 64) (reason : Nat) (s : State) :
    (fabRefuse src tag a reason s).mem = s.mem := by
  unfold fabRefuse; (repeat' split) <;> simp
@[simp] theorem fabRead_mem (src : Identity) (tag : Nat) (a : BitVec 64) (n : Nat) (s : State) :
    (fabRead src tag a n s).mem = s.mem := by
  unfold fabRead; (repeat' split) <;> simp
@[simp] theorem advance_mem (adv : Option Advance) (n : Nat) (s : State) : (advance adv n s).mem = s.mem := by
  unfold advance; (repeat' split) <;> simp
@[simp] theorem fabWrite_mem (src : Identity) (tag : Nat) (a : BitVec 64) (bs : List (BitVec 8)) (adv : Option Advance)
    (s : State) : (fabWrite src tag a bs adv s).mem = s.mem := by
  unfold fabWrite
  (try simp only [])
  refine ite_mem rfl (ite_mem (by simp) ?_)
  split
  · simp
  · split
    · simp
    · exact ite_mem (ite_mem (by simp) (by simp)) (by simp)
@[simp] theorem fabAtom_mem (src : Identity) (tag : Nat) (a : BitVec 64) (op : AtomOp) (b c : BitVec 64) (home : Bool)
    (s : State) : (fabAtom src tag a op b c home s).mem = s.mem := by
  unfold fabAtom
  (try simp only [])
  refine ite_mem rfl (ite_mem (by simp) ?_)
  split
  · simp
  · split
    · exact ite_mem (by simp) (by simp)
    · refine ite_mem (by simp) (ite_mem (by simp) (ite_mem (by simp) ?_))
      split
      · rename_i e
        have := atomSync_mem _ _ _ _ _ _ e
        simpa using this
      · simp
@[simp] theorem fabId_mem (v : BitVec 64) (s : State) : (fabId v s).mem = s.mem := by
  unfold fabId; (repeat' split) <;> simp
@[simp] theorem fabWheel_mem (v : BitVec 64) (s : State) : (fabWheel v s).mem = s.mem := by
  unfold fabWheel; (repeat' split) <;> simp
@[simp] theorem noteMoves_mem (l : Fin 64) (s : State) : (noteMoves l s).mem = s.mem := by
  unfold noteMoves; (repeat' split) <;> simp
@[simp] theorem spillStart_mem (l : Fin 64) (s : State) : (spillStart l s).mem = s.mem := by
  unfold spillStart
  split
  · simp only []
    rw [modRing_mem, setSlot_mem]
    exact (foldl_mem _ (fun s p => by simp) _ _).trans (by simp)
  · rfl
@[simp] theorem spillRead_mem (l : Fin 64) (id : Nat) (data : List Host.Cell) (s : State) :
    (spillRead l id data s).mem = s.mem := by
  unfold spillRead; (repeat' split) <;> simp
@[simp] theorem spillReadDone_mem (l : Fin 64) (s : State) : (spillReadDone l s).mem = s.mem := by
  unfold spillReadDone; (repeat' split) <;> simp
@[simp] theorem spillAck_mem (l : Fin 64) (s : State) : (spillAck l s).mem = s.mem := by
  simp only [spillAck]; (repeat' split) <;> simp
@[simp] theorem refillStart_mem (l : Fin 64) (s : State) : (refillStart l s).mem = s.mem := by
  unfold refillStart
  split
  · simp only []
    rw [modRing_mem, setSlot_mem]
    exact (foldl_mem _ (fun s p => by simp) _ _).trans (by simp)
  · rfl
@[simp] theorem refillDone_mem (l : Fin 64) (s : State) : (refillDone l s).mem = s.mem := by
  unfold refillDone; (repeat' split) <;> simp
@[simp] theorem sendVc2_mem (g : Fin 4) (f : OutFlit) (s : State) : (sendVc2 g f s).mem = s.mem := by
  rfl
@[simp] theorem oweCredit_mem (g : Fin 4) (vc : Fin 3) (s : State) : (oweCredit g vc s).mem = s.mem := by
  rfl
@[simp] theorem galAnswer_mem (g : Fin 4) (fs : List OutFlit) (s : State) : (galAnswer g fs s).mem = s.mem := by
  unfold galAnswer; apply foldl_mem; intros; (repeat' split) <;> simp
@[simp] theorem galRelay_mem (g : Fin 4) (e : Fin 16) (delta : Bool) (v : BitVec 64) (s : State) :
    (galRelay g e delta v s).mem = s.mem := by
  simp only [galRelay]; (repeat' split) <;> simp
@[simp] theorem sendStream_mem (g : Fin 4) (f : TxFlit) (s : State) : (sendStream g f s).mem = s.mem := by
  rfl
@[simp] theorem galSend_mem (g : Fin 4) (s : State) : (galSend g s).mem = s.mem := by
  simp only [galSend]; (repeat' split) <;> simp
@[simp] theorem reapGal_mem (id : Nat) (s : State) : (reapGal id s).mem = s.mem := by
  unfold reapGal; (repeat' split) <;> simp
@[simp] theorem breakTile_mem (g : Fin 4) (id : Nat) (code : ErrCode) (s : State) : (breakTile g id code s).mem = s.mem := by
  unfold breakTile
  split
  · rfl
  · simp only []
    rw [reapGal_mem, modJob_mem, dropReqs_mem, modGal_mem]
    exact foldl_mem _ (fun s q => by simp) _ _
@[simp] theorem dropHead_mem (g : Fin 4) (s : State) : (dropHead g s).mem = s.mem := by
  rfl
@[simp] theorem refuseFlit_mem (g : Fin 4) (f : WriteFlit) (code : ErrCode) (s : State) :
    (refuseFlit g f code s).mem = s.mem := by
  rfl
@[simp] theorem refuseWindow_mem (g : Fin 4) (f : WriteFlit) (reason : Nat) (s : State) :
    (refuseWindow g f reason s).mem = s.mem := by
  unfold refuseWindow; (repeat' split) <;> simp
@[simp] theorem newFill_mem (l : Fin 64) (k : Nat) (s : State) : (newFill l k s).mem = s.mem := by
  rfl
@[simp] theorem openTile_mem (g : Fin 4) (f : WriteFlit) (s : State) : (openTile g f s).mem = s.mem := by
  unfold openTile; (repeat' split) <;> simp
@[simp] theorem writeFlit_mem (g : Fin 4) (t : GalTile) (f : WriteFlit) (a : Nat) (s : State) :
    (writeFlit g t f a s).mem = s.mem := by
  simp [writeFlit]
@[simp] theorem headTile_mem (g : Fin 4) (f : WriteFlit) (s : State) : (headTile g f s).mem = s.mem := by
  unfold headTile; (repeat' split) <;> simp
@[simp] theorem galDrain_mem (g : Fin 4) (s : State) : (galDrain g s).mem = s.mem := by
  simp only [galDrain]; (repeat' split) <;> simp
@[simp] theorem closeTile_mem (g : Fin 4) (id : Nat) (s : State) : (closeTile g id s).mem = s.mem := by
  unfold closeTile; (repeat' split) <;> simp
@[simp] theorem galWriteDone_mem (g : Fin 4) (id seq : Nat) (s : State) : (galWriteDone g id seq s).mem = s.mem := by
  unfold galWriteDone; (repeat' split) <;> simp
@[simp] theorem emptyRelaySlot_mem (r : RelayAck) (s : State) : (emptyRelaySlot r s).mem = s.mem := by
  unfold emptyRelaySlot; (repeat' split) <;> simp
@[simp] theorem relayFail_mem (out : Fin 4) (r : RelayAck) (code : ErrCode) (s : State) :
    (relayFail out r code s).mem = s.mem := by
  simp only [relayFail]; (repeat' split) <;> simp
@[simp] theorem relayForward_mem (g : Fin 4) (s : State) : (relayForward g s).mem = s.mem := by
  unfold relayForward
  split
  · simp only []
    split
    · simp
    · split
      · rfl
      · rw [writeFlit_mem]
        exact foldl_mem _ (fun s x => by simp) _ _
  · rfl
@[simp] theorem galDown_mem (g : Fin 4) (s : State) : (galDown g s).mem = s.mem := by
  unfold galDown
  (try simp only [])
  split
  · rfl
  · refine (foldl_mem _ (fun s x => by simp) _ _).trans ((foldl_mem _ (fun s x => by simp) _ _).trans ?_)
    rw [jobEvent_mem, modGal_mem]
    exact foldl_mem _ (fun s x => by simp) _ _
@[simp] theorem askReplay_mem (g : Fin 4) (s : State) : (askReplay g s).mem = s.mem := by
  rfl
@[simp] theorem crcFail_mem (g : Fin 4) (s : State) : (crcFail g s).mem = s.mem := by
  unfold crcFail
  (try simp only [])
  split <;> simp
theorem galTake_mem (g : Fin 4) (h : FlitHdr) (of_ : Option Nat) (k : State → State) (hk : ∀ s, (k s).mem = s.mem) (s : State) :
    (galTake g h of_ k s).mem = s.mem := by
  unfold galTake; (repeat' split) <;> simp [hk]
@[simp] theorem galArrive_mem (g : Fin 4) (f : WriteFlit) (s : State) : (galArrive g f s).mem = s.mem := by
  unfold galArrive
  exact ite_mem rfl (galTake_mem _ _ _ _ (fun s => by simp) _)
@[simp] theorem serveRead_mem (g : Fin 4) (of_ : Nat) (a : BitVec 32) (n : Nat) (s : State) :
    (serveRead g of_ a n s).mem = s.mem := by
  simp only [serveRead]; (repeat' split) <;> simp
@[simp] theorem readAnswer_mem (g : Fin 4) (of_ : Nat) (data : List (BitVec 1024)) (s : State) :
    (readAnswer g of_ data s).mem = s.mem := by
  unfold readAnswer
  (try simp only [])
  split
  · simp
  · rw [settleTile_mem]
    exact (foldl_mem _ (fun s b => by simp) _ _).trans (by simp)
@[simp] theorem galAcked_mem (g : Fin 4) (seq : Nat) (s : State) : (galAcked g seq s).mem = s.mem := by
  simp only [galAcked]; (repeat' split) <;> simp
@[simp] theorem galErrAnswer_mem (g : Fin 4) (of_ : Nat) (code : ErrCode) (s : State) :
    (galErrAnswer g of_ code s).mem = s.mem := by
  unfold galErrAnswer; simp only []; (repeat' split) <;> simp
@[simp] theorem galReplay_mem (g : Fin 4) (seq : Nat) (s : State) : (galReplay g seq s).mem = s.mem := by
  unfold galReplay; (repeat' split) <;> simp
@[simp] theorem passForward_mem (g : Fin 4) (x : PassItem) (s : State) : (passForward g x s).mem = s.mem := by
  unfold passForward
  (try simp only [])
  exact ite_mem rfl (ite_mem (by simp) (by simp))
@[simp] theorem setLink_mem (p : LinkPort) (l : Link) (s : State) : (setLink p l s).mem = s.mem := by
  unfold setLink; (repeat' split) <;> simp
@[simp] theorem linkFailed_mem (p : LinkPort) (s : State) : (linkFailed p s).mem = s.mem := by
  simp [linkFailed]
@[simp] theorem capArrive_mem (p : LinkPort) (w : BitVec 64) (s : State) : (capArrive p w s).mem = s.mem := by
  simp only [capArrive]; (repeat' split) <;> simp
@[simp] theorem retire_mem (g : Fin 4) (k : Fin 4) (s : State) : (retire g k s).mem = s.mem := by
  unfold retire; (repeat' split) <;> simp
@[simp] theorem trained_mem (p : LinkPort) (r : TrainResult) (s : State) : (trained p r s).mem = s.mem := by
  simp only [trained]; (repeat' split) <;> simp
@[simp] theorem recalStart_mem (g : Fin 4) (s : State) : (recalStart g s).mem = s.mem := by
  simp only [recalStart]; (repeat' split) <;> simp
@[simp] theorem recalDone_mem (g : Fin 4) (ok : Bool) (rep : BitVec 4) (s : State) : (recalDone g ok rep s).mem = s.mem := by
  simp only [recalDone]; (repeat' split) <;> simp
@[simp] theorem moduleFailed_mem (g k : Fin 4) (s : State) : (moduleFailed g k s).mem = s.mem := by
  simp only [moduleFailed]; (repeat' split) <;> simp
@[simp] theorem retrain_mem (p : LinkPort) (expect : Nat) (s : State) : (retrain p expect s).mem = s.mem := by
  unfold retrain; (repeat' split) <;> simp
@[simp] theorem galCtl_mem (g : Fin 4) (v : BitVec 64) (s : State) : (galCtl g v s).mem = s.mem := by
  unfold galCtl; (repeat' split) <;> simp
@[simp] theorem fabCtl_mem (v : BitVec 64) (s : State) : (fabCtl v s).mem = s.mem := by
  unfold fabCtl; (repeat' split) <;> simp
@[simp] theorem strmCfgStart_mem (n : Fin 4) (s : State) : (strmCfgStart n s).mem = s.mem := by
  simp only [strmCfgStart]; (repeat' split) <;> simp
@[simp] theorem strmArmStart_mem (n : Fin 4) (s : State) : (strmArmStart n s).mem = s.mem := by
  simp only [strmArmStart]; (repeat' split) <;> simp
@[simp] theorem strmCancelStart_mem (n : Fin 4) (s : State) : (strmCancelStart n s).mem = s.mem := by
  simp only [strmCancelStart]; (repeat' split) <;> simp
@[simp] theorem requestBlock_mem (n c : Fin 4) (s : State) : (requestBlock n c s).mem = s.mem := by
  simp only [requestBlock]; (repeat' split) <;> simp
@[simp] theorem blockUsable_mem (n c : Fin 4) (s : State) : (blockUsable n c s).mem = s.mem := by
  unfold blockUsable; (repeat' split) <;> simp
@[simp] theorem blockFault_mem (n c : Fin 4) (id base : Nat) (tier : Page × Nat × BitVec 32) (s : State) :
    (blockFault n c id base tier s).mem = s.mem := by
  unfold blockFault; (repeat' split) <;> simp
@[simp] theorem lastReached_mem (n c : Fin 4) (g : Gen) (s : State) : (lastReached n c g s).mem = s.mem := by
  simp only [lastReached]; (repeat' split) <;> simp
@[simp] theorem idleCtx_mem (n c : Fin 4) (s : State) : (idleCtx n c s).mem = s.mem := by
  rfl
@[simp] theorem passDesc_mem (n c : Fin 4) (d : Desc) (tile : Bool) (s : State) : (passDesc n c d tile s).mem = s.mem := by
  unfold passDesc; (repeat' split) <;> simp
@[simp] theorem startTile_mem (n c : Fin 4) (addr : Nat) (d : Desc) (s : State) : (startTile n c addr d s).mem = s.mem := by
  unfold startTile; (repeat' split) <;> simp
@[simp] theorem startDesc_mem (kinds : Nat → Bool) (n c : Fin 4) (s : State) : (startDesc kinds n c s).mem = s.mem := by
  simp only [startDesc]; (repeat' split) <;> simp
@[simp] theorem signalTiles_mem (n c : Fin 4) (fuel : Nat) (s : State) : (signalTiles n c fuel s).mem = s.mem := by
  induction fuel generalizing s with
  | zero => rfl
  | succ k ih => unfold signalTiles; simp only []; (repeat' split) <;> simp [ih]
@[simp] theorem tileComplete_mem (n c : Fin 4) (s : State) : (tileComplete n c s).mem = s.mem := by
  unfold tileComplete
  simp only []
  (repeat' split) <;> simp
@[simp] theorem restartTile_mem (n : Fin 4) (id : Nat) (s : State) : (restartTile n id s).mem = s.mem := by
  unfold restartTile; (repeat' split) <;> simp
@[simp] theorem resumeCtx_mem (n c : Fin 4) (s : State) : (resumeCtx n c s).mem = s.mem := by
  unfold resumeCtx
  (try simp only [])
  split
  · rfl
  · rw [idleCtx_mem, modCtx_mem]
    refine (foldl_mem _ (fun s h => ?_) _ _).trans (by simp)
    split <;> simp
@[simp] theorem strmCtl_mem (n : Fin 4) (v : BitVec 64) (s : State) : (strmCtl n v s).mem = s.mem := by
  simp only [strmCtl]; (repeat' split) <;> simp
@[simp] theorem useBank_mem (b lost : Nat) (s : State) : (useBank b lost s).mem = s.mem := by
  simp [useBank]
@[simp] theorem memEvent_mem (addr : Nat) (u : MemUnit) (words : Nat) (off : Bool) (s : State) :
    (memEvent addr u words off s).mem = s.mem := by
  unfold memEvent; (repeat' split) <;> simp
@[simp] theorem endJob_mem (id : Nat) (s : State) : (endJob id s).mem = s.mem := by
  simp only [endJob]; (repeat' split) <;> simp
@[simp] theorem clearPend_mem (t : Fin 16) (id : Nat) (s : State) : (clearPend t id s).mem = s.mem := by
  rfl
@[simp] theorem usherMemFault_mem (t : Fin 16) (pc : BitVec 18) (p : Page) (code : Nat) (seq : BitVec 32) (s : State) :
    (usherMemFault t pc p code seq s).mem = s.mem := by
  unfold usherMemFault; (repeat' split) <;> simp
@[simp] theorem loseMove_mem (l : Fin 64) (id : Nat) (s : State) : (loseMove l id s).mem = s.mem := by
  simp only [loseMove]; (repeat' split) <;> simp
@[simp] theorem accessFault_mem (r : LineReq) (words : Nat) (off : Bool) (s : State) :
    (accessFault r words off s).mem = s.mem := by
  unfold accessFault
  (try simp only [])
  split
  · split <;> simp
  · split
    · simp
    · split <;> (try split) <;> (try split) <;> simp
@[simp] theorem noteGrant_mem (r : LineReq) (s : State) : (noteGrant r s).mem = s.mem := by
  unfold noteGrant; (repeat' split) <;> simp
@[simp] theorem loadReg_mem (t : Fin 16) (id : Nat) (rd : Fin 32) (v : BitVec 64) (s : State) :
    (loadReg t id rd v s).mem = s.mem := by
  rfl
@[simp] theorem jobDone_mem (j : Job) (s : State) : (jobDone j s).mem = s.mem := by
  unfold jobDone
  (try simp only [])
  split <;> (try split) <;> simp
@[simp] theorem jobStep_mem (a : Access) (j : Job) (s : State) : (jobStep a j s).mem = s.mem := by
  unfold jobStep
  (try simp only [])
  split <;> (try split) <;> simp
@[simp] theorem voidStep_mem (a : Access) (j : Job) (s : State) : (voidStep a j s).mem = s.mem := by
  unfold voidStep
  split <;> (try split) <;> simp
@[simp] theorem deliver_mem (a : Access) (s : State) : (deliver a s).mem = s.mem := by
  simp only [deliver]; (repeat' split) <;> simp
@[simp] theorem readUsable_mem (id : Nat) (s : State) : (readUsable id s).mem = s.mem := by
  unfold readUsable; (repeat' split) <;> simp
@[simp] theorem writeComplete_mem (id : Nat) (s : State) : (writeComplete id s).mem = s.mem := by
  unfold writeComplete; (repeat' split) <;> simp
@[simp] theorem modAccess_mem (id : Nat) (f : Access → Access) (s : State) : (modAccess id f s).mem = s.mem := by
  rfl
@[simp] theorem spendGrant_mem (r : LineReq) (s : State) : (spendGrant r s).mem = s.mem := rfl
@[simp] theorem reread_mem (id : Nat) (flagged : BitVec 10) (s : State) : (reread id flagged s).mem = s.mem := by
  unfold reread; (repeat' split) <;> simp
@[simp] theorem scrubStart_mem (t : Tier) (v : BitVec 64) (s : State) : (scrubStart t v s).mem = s.mem := by
  unfold scrubStart; (repeat' split) <;> simp
@[simp] theorem scrubDone_mem (t : Tier) (s : State) : (scrubDone t s).mem = s.mem := by
  unfold scrubDone; (repeat' split) <;> simp
@[simp] theorem performSync_mem (j : Job) (n : Nat) (op : SyncOp) (s : State) : (performSync j n op s).mem = s.mem := by
  unfold performSync
  (try simp only [])
  split
  · simp
  · split <;> simp
  · simp
  · split <;> simp
  · simp
  · split
    · simp
    · split
      · rename_i e
        have := atomSync_mem _ _ _ _ _ _ e
        simpa using this
      · simp
@[simp] theorem performJob_mem (j : Job) (s : State) : (performJob j s).mem = s.mem := by
  unfold performJob
  split
  · rfl
  · split
    · split <;> simp
    · split
      · split
        · rfl
        · split
          · rename_i e
            have := atomSync_mem _ _ _ _ _ _ e
            simpa using this
          · simp
      · split <;> simp
      · rfl
    · rfl
@[simp] theorem performDue_mem (s : State) : (performDue s).mem = s.mem := by
  unfold performDue; apply foldl_mem; intros; (repeat' split) <;> simp
@[simp] theorem wakeDone_mem (t : Tier) (g : Fin 32) (s : State) : (wakeDone t g s).mem = s.mem := by
  unfold wakeDone; (repeat' split) <;> simp
@[simp] theorem landCfg_mem (l : Fin 64) (v : BitVec 64) (s : State) : (landCfg l v s).mem = s.mem := by
  simp only [landCfg]; (repeat' split) <;> simp
@[simp] theorem landOvf_mem (l : Fin 64) (v : BitVec 64) (s : State) : (landOvf l v s).mem = s.mem := by
  unfold landOvf; (repeat' split) <;> simp
@[simp] theorem landTagset_mem (v : BitVec 64) (s : State) : (landTagset v s).mem = s.mem := by
  simp only [landTagset]; (repeat' split) <;> simp
@[simp] theorem pointChange_mem (s : State) : (pointChange s).mem = s.mem := by
  unfold pointChange; (repeat' split) <;> simp
@[simp] theorem sampleInputs_mem (capIn : BitVec 10) (opIn : BitVec 3) (s : State) :
    (sampleInputs capIn opIn s).mem = s.mem := by
  rfl
@[simp] theorem interval_mem (s : State) : (interval s).mem = s.mem := by
  rfl
@[simp] theorem balustrade_mem (s : State) : (balustrade s).mem = s.mem := by
  unfold balustrade; (repeat' split) <;> simp
@[simp] theorem inputSample_mem (capIn : BitVec 10) (opIn : BitVec 3) (s : State) :
    (inputSample capIn opIn s).mem = s.mem := by
  unfold inputSample; (repeat' split) <;> simp
@[simp] theorem relevel_mem (s : State) : (relevel s).mem = s.mem := by
  simp only [relevel]; (repeat' split) <;> simp
@[simp] theorem droop_mem (l : Fin 4) (s : State) : (droop l s).mem = s.mem := by
  unfold droop; (repeat' split) <;> simp
@[simp] theorem clockRestart_mem (s : State) : (clockRestart s).mem = s.mem := by
  unfold clockRestart; (repeat' split) <;> simp
@[simp] theorem holdExpire_mem (s : State) : (holdExpire s).mem = s.mem := by
  unfold holdExpire; (repeat' split) <;> simp
@[simp] theorem conversion_mem (k : Fin 16) (r : Int) (s : State) : (conversion k r s).mem = s.mem := by
  simp only [conversion]; (repeat' split) <;> simp
@[simp] theorem coolStop_mem (s : State) : (coolStop s).mem = s.mem := by
  unfold coolStop; (repeat' split) <;> simp
@[simp] theorem shadowPut_mem (x : Shadow) (s : State) : (shadowPut x s).mem = s.mem := by
  rfl
@[simp] theorem Shadow.apply_mem (x : Shadow) (s : State) : (Shadow.apply x s).mem = s.mem := by
  unfold Shadow.apply; (repeat' split) <;> simp
@[simp] theorem applyShadow_mem (which : Shadow → Bool) (before : Nat) (s : State) :
    (applyShadow which before s).mem = s.mem := by
  unfold applyShadow; apply foldl_mem; intro s x; simp only []; (repeat' split) <;> simp
@[simp] theorem pwrCap_mem (v : BitVec 64) (s : State) : (pwrCap v s).mem = s.mem := by
  simp only [pwrCap]; (repeat' split) <;> simp
@[simp] theorem pwrWin_mem (v : BitVec 64) (s : State) : (pwrWin v s).mem = s.mem := by
  simp only [pwrWin]; (repeat' split) <;> simp
@[simp] theorem pwrDroop_mem (v : BitVec 64) (s : State) : (pwrDroop v s).mem = s.mem := by
  simp only [pwrDroop]; (repeat' split) <;> simp
@[simp] theorem waitExpire_mem (t : Fin 16) (s : State) : (waitExpire t s).mem = s.mem := by
  unfold waitExpire; (repeat' split) <;> simp
@[simp] theorem readyRise_mem (s : State) : (readyRise s).mem = s.mem := by
  unfold readyRise; (repeat' split) <;> simp
@[simp] theorem lateLimit_mem (s : State) : (lateLimit s).mem = s.mem := by
  unfold lateLimit; (repeat' split) <;> simp
@[simp] theorem slotHazard_mem (g : Fin 64 × Nat × Bool) (s : State) : (slotHazard g s).mem = s.mem := by
  unfold slotHazard; (repeat' split) <;> simp
@[simp] theorem overrun_mem (s : State) : (overrun s).mem = s.mem := by
  simp only [overrun]; (repeat' split) <;> simp
@[simp] theorem closeStep_mem (s : State) : (closeStep s).mem = s.mem := by
  simp only [closeStep]; (repeat' split) <;> simp
@[simp] theorem snapshot_mem (stop : Bool) (s : State) : (snapshot stop s).mem = s.mem := by
  rfl
@[simp] theorem stopAct_mem (s : State) : (stopAct s).mem = s.mem := by
  unfold stopAct
  simp only []
  rw [stopEngines_mem, interval_mem]
@[simp] theorem openStep_mem (s : State) : (openStep s).mem = s.mem := by
  simp [openStep]
@[simp] theorem stepCfg_mem (v : BitVec 64) (s : State) : (stepCfg v s).mem = s.mem := by
  simp only [stepCfg]; (repeat' split) <;> simp
@[simp] theorem stepLen_mem (v : BitVec 64) (s : State) : (stepLen v s).mem = s.mem := by
  simp only [stepLen]; (repeat' split) <;> simp
@[simp] theorem stepSlack_mem (v : BitVec 64) (s : State) : (stepSlack v s).mem = s.mem := by
  simp only [stepSlack]; (repeat' split) <;> simp
@[simp] theorem stepGuard_mem (v : BitVec 64) (s : State) : (stepGuard v s).mem = s.mem := by
  simp only [stepGuard]; (repeat' split) <;> simp
@[simp] theorem latSel_mem (v : BitVec 64) (s : State) : (latSel v s).mem = s.mem := by
  simp only [latSel]; (repeat' split) <;> simp
@[simp] theorem cluBad_mem (s : State) : (cluBad s).mem = s.mem := by
  unfold cluBad; (repeat' split) <;> simp
@[simp] theorem runSet_mem (s : State) : (runSet s).mem = s.mem := by
  unfold runSet; (repeat' split) <;> simp
@[simp] theorem runClear_mem (s : State) : (runClear s).mem = s.mem := by
  simp only [runClear]; (repeat' split) <;> simp
@[simp] theorem ushCtl_mem (v : BitVec 64) (s : State) : (ushCtl v s).mem = s.mem := by
  unfold ushCtl; (repeat' split) <;> simp
@[simp] theorem imemSplit_mem (v : BitVec 64) (s : State) : (imemSplit v s).mem = s.mem := by
  unfold imemSplit; (repeat' split) <;> simp
@[simp] theorem ushTask_mem (mgmt : Bool) (v : BitVec 64) (s : State) : (ushTask mgmt v s).mem = s.mem := by
  simp only [ushTask]; (repeat' split) <;> simp
@[simp] theorem threadCtl_mem (t : Fin 16) (v : BitVec 64) (s : State) : (threadCtl t v s).mem = s.mem := by
  simp only [threadCtl]; (repeat' split) <;> simp
@[simp] theorem wdogKick_mem (v : BitVec 64) (s : State) : (wdogKick v s).mem = s.mem := by
  unfold wdogKick; (repeat' split) <;> simp
@[simp] theorem wdogCtl_mem (v : BitVec 64) (s : State) : (wdogCtl v s).mem = s.mem := by
  rfl
@[simp] theorem wdogExpire_mem (s : State) : (wdogExpire s).mem = s.mem := by
  simp only [wdogExpire]; (repeat' split) <;> simp
@[simp] theorem usherRestart_mem (s : State) : (usherRestart s).mem = s.mem := by
  unfold usherRestart; (repeat' split) <;> simp
@[simp] theorem resetRelease_mem (s : State) : (resetRelease s).mem = s.mem := by
  unfold resetRelease; (repeat' split) <;> simp
@[simp] theorem bootFail_mem (cause : Nat) (s : State) : (bootFail cause s).mem = s.mem := by
  unfold bootFail; (repeat' split) <;> simp
@[simp] theorem fuseLoad_mem (img : FuseImage) (s : State) : (fuseLoad img s).mem = s.mem := by
  unfold fuseLoad; (repeat' split) <;> simp
@[simp] theorem clockLocked_mem (s : State) : (clockLocked s).mem = s.mem := by
  unfold clockLocked; (repeat' split) <;> simp
@[simp] theorem clockFail_mem (s : State) : (clockFail s).mem = s.mem := by
  unfold clockFail; (repeat' split) <;> simp
@[simp] theorem hashStart_mem (v : BitVec 64) (s : State) : (hashStart v s).mem = s.mem := by
  unfold hashStart; (repeat' split) <;> simp
@[simp] theorem hashFinish_mem (s : State) : (hashFinish s).mem = s.mem := by
  unfold hashFinish; (repeat' split) <;> simp
@[simp] theorem cluMode_mem (v : BitVec 64) (s : State) : (cluMode v s).mem = s.mem := by
  simp only [cluMode]; (repeat' split) <;> simp
@[simp] theorem cluFwid_mem (v : BitVec 64) (s : State) : (cluFwid v s).mem = s.mem := by
  unfold cluFwid; (repeat' split) <;> simp
@[simp] theorem iWrite_mem (v : BitVec 64) (s : State) (x : ITarget) : (iWrite v s x).mem = s.mem := by
  cases x <;> simp only [iWrite] <;> (repeat' split) <;> simp
@[simp] theorem iAccess_mem (kind unit index : Nat) (wr : Bool) (s : State) :
    (iAccess kind unit index wr s).2.mem = s.mem := by
  unfold iAccess
  (repeat' split) <;> simp
@[simp] theorem iacc_mem (v : BitVec 64) (s : State) : (iacc v s).mem = s.mem := by
  simp [iacc]
@[simp] theorem setIr_mem (code : Nat) (s : State) : (setIr code s).mem = s.mem := by
  rfl
@[simp] theorem marchDone_mem (r : MarchResult) (s : State) : (marchDone r s).mem = s.mem := by
  unfold marchDone; (repeat' split) <;> simp
@[simp] theorem wrapper_mem (code : Nat) (s : State) : (wrapper code s).mem = s.mem := by
  rfl
@[simp] theorem clearEvents_mem (p : Page) (m : BitVec 32) (s : State) : (clearEvents p m s).mem = s.mem := by
  rfl
@[simp] theorem headerWrite_mem (p : Page) (off : Nat) (v : BitVec 64) (s : State) :
    (headerWrite p off v s).mem = s.mem := by
  unfold headerWrite; (repeat' split) <;> simp
@[simp] theorem evtCtl_mem (v : BitVec 64) (s : State) : (evtCtl v s).mem = s.mem := by
  unfold evtCtl; (repeat' split) <;> simp
@[simp] theorem reqHdr_mem (v : BitVec 64) (s : State) : (reqHdr v s).mem = s.mem := by
  simp only [reqHdr]; (repeat' split) <;> simp
@[simp] theorem rspHdr_mem (v : BitVec 64) (s : State) : (rspHdr v s).mem = s.mem := by
  unfold rspHdr; (repeat' split) <;> simp
@[simp] theorem opaWrite_mem (a : Fin 2) (off : Nat) (v : BitVec 64) (s : State) : (opaWrite a off v s).mem = s.mem := by
  unfold opaWrite; (repeat' split) <;> simp
@[simp] theorem vecWrite_mem (off : Nat) (v : BitVec 64) (s : State) : (vecWrite off v s).mem = s.mem := by
  unfold vecWrite; (repeat' split) <;> simp
@[simp] theorem landWrite_mem (off : Nat) (v : BitVec 64) (s : State) : (landWrite off v s).mem = s.mem := by
  unfold landWrite; (repeat' split) <;> simp
@[simp] theorem galWrite_mem (g : Fin 4) (off : Nat) (v : BitVec 64) (s : State) : (galWrite g off v s).mem = s.mem := by
  unfold galWrite; (repeat' split) <;> simp
@[simp] theorem winWrite_mem (off : Nat) (v : BitVec 64) (s : State) : (winWrite off v s).mem = s.mem := by
  unfold winWrite; (repeat' split) <;> simp
@[simp] theorem mgmtWrite_mem (off : Nat) (v : BitVec 64) (s : State) : (mgmtWrite off v s).mem = s.mem := by
  unfold mgmtWrite; (repeat' split) <;> simp
@[simp] theorem ushWrite_mem (mgmt : Bool) (off : Nat) (v : BitVec 64) (s : State) :
    (ushWrite mgmt off v s).mem = s.mem := by
  unfold ushWrite; (repeat' split) <;> simp
@[simp] theorem stepWrite_mem (off : Nat) (v : BitVec 64) (s : State) : (stepWrite off v s).mem = s.mem := by
  unfold stepWrite; (repeat' split) <;> simp
@[simp] theorem fabRegWrite_mem (off : Nat) (v : BitVec 64) (s : State) : (fabRegWrite off v s).mem = s.mem := by
  unfold fabRegWrite; (repeat' split) <;> simp
@[simp] theorem pwrWrite_mem (off : Nat) (v : BitVec 64) (s : State) : (pwrWrite off v s).mem = s.mem := by
  unfold pwrWrite; (repeat' split) <;> simp
@[simp] theorem answer_mem (status : Nat) (d0 d1 : Option (BitVec 64)) (s : State) :
    (answer status d0 d1 s).mem = s.mem := by
  simp only [answer]; (repeat' split) <;> simp
@[simp] theorem mgmtPing_mem (s : State) : (mgmtPing s).mem = s.mem := by
  unfold mgmtPing; (repeat' split) <;> simp
@[simp] theorem owedNext_mem (t : Fin 16) (o : Owed) (s : State) : (owedNext t o s).mem = s.mem := by
  unfold owedNext; (repeat' split) <;> simp
@[simp] theorem passMark_mem (n : Nat) (s : State) : (passMark n s).mem = s.mem := by
  rfl
@[simp] theorem clockMark_mem (s : State) : (clockMark s).mem = s.mem := by
  rfl
@[simp] theorem countCycle_mem (s : State) : (countCycle s).mem = s.mem := by
  unfold countCycle; (repeat' split) <;> simp
@[simp] theorem countPower_mem (s : State) : (countPower s).mem = s.mem := by
  rfl
@[simp] theorem countStrm_mem (n : Fin 4) (s : State) : (countStrm n s).mem = s.mem := by
  unfold countStrm; (repeat' split) <;> simp
@[simp] theorem countOpa_mem (a : Fin 2) (s : State) : (countOpa a s).mem = s.mem := by
  rfl
@[simp] theorem countWaits_mem (s : State) : (countWaits s).mem = s.mem := by
  unfold countWaits
  simp only []
  generalize List.finRange 4 = l
  exact (foldl_mem _ (fun s n => by simp) _ _).trans (by simp)
@[simp] theorem galCycle_mem (g : Fin 4) (s : State) : (galCycle g s).mem = s.mem := by
  unfold galCycle
  simp only [modGal_mem, galSend_mem, galDrain_mem]
  split <;> simp
@[simp] theorem fabCycle_mem (s : State) : (fabCycle s).mem = s.mem := by
  rfl
@[simp] theorem noteLookahead_mem (n c : Fin 4) (s : State) : (noteLookahead n c s).mem = s.mem := by
  simp only [noteLookahead]; (repeat' split) <;> simp
@[simp] theorem wakeRange_mem (s : State) : (wakeRange s).mem = s.mem := by
  unfold wakeRange; (repeat' split) <;> simp
@[simp] theorem noteHighs_mem (s : State) : (noteHighs s).mem = s.mem := by
  unfold noteHighs
  simp only []
  generalize List.finRange 4 = l
  exact (foldl_mem _ (fun s n => by simp) _ _).trans (by simp)
@[simp] theorem endCycle_mem (s : State) : (endCycle s).mem = s.mem := by
  rfl
@[simp] theorem vecBegin_mem (s : State) : (vecBegin s).mem = s.mem := by
  unfold vecBegin; (repeat' split) <;> simp
@[simp] theorem noteCounters_mem (s : State) : (noteCounters s).mem = s.mem := by
  rfl
@[simp] theorem switchCycle_mem (s : State) : (switchCycle s).mem = s.mem := by
  unfold switchCycle; (repeat' split) <;> simp
@[simp] theorem stoppedCycle_mem (s : State) : (stoppedCycle s).mem = s.mem := by
  rfl
@[simp] theorem State.withFetchWord_mem (s : State) (nbits w : Nat) : (State.withFetchWord s nbits w).mem = s.mem := by
  rfl
end Sys2Proof.Machine
end

