-- ==== Sys2Proof/Laws/MemoryWf.lean ====
section
/-! SUPPORT. The operations that store: each keeps the canonical form of memory. -/

namespace Sys2Proof.Machine

/-- An operation that leaves memory alone keeps its form. -/
theorem wf_of_mem {s s' : State} (e : s'.mem = s.mem) (h : Memory.wf s.mem) : Memory.wf s'.mem := e ▸ h

/-- A choice between two states of canonical memory. -/
theorem ite_wf {p : Prop} [Decidable p] {x y : State} (hx : Memory.wf x.mem) (hy : Memory.wf y.mem) :
    Memory.wf (if p then x else y).mem := by split <;> assumption

/-- A fold keeps what each of its steps keeps. -/
theorem foldl_wf {α β : Type} (g : β → State) (f : β → α → β) (h : ∀ b x, Memory.wf (g b).mem → Memory.wf (g (f b x)).mem)
    (l : List α) (b : β) (hb : Memory.wf (g b).mem) : Memory.wf (g (l.foldl f b)).mem := by
  induction l generalizing b with
  | nil => exact hb
  | cons a l ih => exact ih _ (h b a hb)

/-! ## Grants, the port, self-test -/

theorem grantReq_wf (r : LineReq) (inner : Nat) (flagged : BitVec 10) (s : State) (h : Memory.wf s.mem) :
    Memory.wf (grantReq r inner flagged s).mem := by
  unfold grantReq
  simp only []
  split
  · simpa using h
  · simpa using h
  · rw [noteGrant_mem]
    simp only []
    have keep (u : State) (hu : Memory.wf u.mem) : Memory.wf (if r.whole = true then u else
        modTier (tierOf r.addr) (fun h => { h with inner := h.inner + BitVec.ofNat 32 inner }) u).mem :=
      ite_wf hu (by simpa using hu)
    split
    · exact memStore_wf _ _ (keep _ (by simpa using h))
    · exact keep _ (by simpa using h)

theorem scrubGrant_wf (b inner : Nat) (flagged : BitVec 10) (s : State) (h : Memory.wf s.mem) :
    Memory.wf (scrubGrant b inner flagged s).mem := by
  unfold scrubGrant
  split
  · exact h
  · exact grantReq_wf _ _ _ _ (by simpa using h)

theorem writeback_wf (id : Nat) (s : State) (h : Memory.wf s.mem) : Memory.wf (writeback id s).mem := by
  unfold writeback
  split
  · exact h
  · simp only [countEvt_mem, modAccess_mem]
    exact memStore_wf _ _ (by simpa using h)

theorem accessGrant_wf (b inner : Nat) (flagged : BitVec 10) (s : State) (h : Memory.wf s.mem) :
    Memory.wf (accessGrant b inner flagged s).mem := by
  unfold accessGrant
  refine ite_wf h ?_
  split
  · exact grantReq_wf _ _ _ _ (by simpa using h)
  · exact scrubGrant_wf _ _ _ _ h

theorem mgmtMem_wf (wr : Option (BitVec 64)) (a : Nat) (flagged : BitVec 10) (s : State) (h : Memory.wf s.mem) :
    Memory.wf (mgmtMem wr a flagged s).mem := by
  have imem : Memory.wf (mgmtImem wr a s).mem := by
    unfold mgmtImem
    split
    · simpa using h
    · exact ite_wf (by simpa using h) (by rw [respond_mem]; exact memWrite_wf _ _ _ h)
  have granted : Memory.wf (mgmtGranted wr a flagged s).mem := by
    unfold mgmtGranted
    simp only []
    split
    · simpa using h
    · simpa using h
    · split
      · simpa using h
      · split
        · simpa using h
        · rw [respond_mem]; exact memWrite_wf _ _ _ (by simpa using h)
      · exact grantReq_wf _ _ _ _ (by simpa using h)
  unfold mgmtMem
  refine ite_wf h (ite_wf (by simpa using h) (ite_wf h (ite_wf imem (ite_wf (by simpa using h) ?_))))
  exact ite_wf h granted

theorem mgmtEvtSweep_wf (s : State) (h : Memory.wf s.mem) : Memory.wf (mgmtEvtSweep s).mem := by
  unfold mgmtEvtSweep
  refine ite_wf h (ite_wf (ite_wf h ?_) (by simpa using h))
  rw [answer_mem]
  exact memWrite_wf _ _ _ h

/-- Memory without a listed byte is canonical. -/
theorem nil_wf : Memory.wf [] := rfl

theorem powerOnReset_wf (s : State) : Memory.wf (powerOnReset s).mem := nil_wf

theorem clusterReset_wf (v : BitVec 64) (s : State) (h : Memory.wf s.mem) : Memory.wf (clusterReset v s).mem := by
  unfold clusterReset
  refine ite_wf ?_ h
  simp only [mgmtLost_mem]
  exact nil_wf

theorem selftest_wf (e : Option (Fin 5)) (n : BitVec 32) (s : State) (h : Memory.wf s.mem) :
    Memory.wf (selftest e n s).mem := by
  unfold selftest
  refine ite_wf ?_ h
  simp only []
  split
  · simpa using h
  · exact nil_wf

/-! ## Power targets, and what applies them -/

theorem applyPower_wf (t : Tier) (before : Nat) (s : State) (h : Memory.wf s.mem) : Memory.wf (applyPower t before s).mem := by
  unfold applyPower
  split
  · exact h
  · refine ite_wf h ?_
    simp only [modTier_mem]
    exact cells_filter_wf _ h

theorem powerIdle_wf (s : State) (h : Memory.wf s.mem) : Memory.wf (powerIdle s).mem := by
  unfold powerIdle
  exact ite_wf (applyPower_wf _ _ _ (applyPower_wf _ _ _ h)) h

theorem pwrTarget_wf (t : Tier) (v : BitVec 64) (s : State) (h : Memory.wf s.mem) : Memory.wf (pwrTarget t v s).mem := by
  unfold pwrTarget
  simp only []
  exact ite_wf (by simpa using h) (powerIdle_wf _ (by simpa using h))

theorem markEnd_wf (stop : Bool) (s : State) (h : Memory.wf s.mem) : Memory.wf (markEnd stop s).mem := by
  unfold markEnd
  exact applyPower_wf _ _ _ (applyPower_wf _ _ _ (by simpa using h))

theorem markNormal_wf (c : BitVec 10) (o : BitVec 3) (s : State) (h : Memory.wf s.mem) : Memory.wf (markNormal c o s).mem := by
  unfold markNormal
  refine ite_wf h (ite_wf (by simpa using h) ?_)
  simp only []
  have fin (b : Bool) (s : State) (h : Memory.wf s.mem) :
      Memory.wf (pointChange (stopAct (sampleInputs c o (countEvt .step 3 (markEnd b s))))).mem := by
    simpa using markEnd_wf b s h
  refine ite_wf (fin _ _ h) (ite_wf (fin _ _ (by simpa using h)) (ite_wf ?_ ?_))
  · simpa using markEnd_wf false s h
  · simpa using markEnd_wf false s h

theorem markStop_wf (s : State) (h : Memory.wf s.mem) : Memory.wf (markStop s).mem := by
  unfold markStop
  refine ite_wf h (ite_wf (by simpa using h) ?_)
  simpa using markEnd_wf true s h

/-- The memory that a push leaves. -/
def PushRes.memIs (m : List Host.Cell) : PushRes → Prop
  | .done s => s.mem = m
  | .fault _ s => s.mem = m
  | _ => True

theorem PushRes.ite_memIs {p : Prop} [Decidable p] {x y : PushRes} {m : List Host.Cell} (hx : x.memIs m) (hy : y.memIs m) :
    (if p then x else y).memIs m := by split <;> assumption

/-- A push keeps memory. -/
theorem tryPush_mem (t : Fin 16) (q : Fin 8) (c : Cmd) (s : State) : (tryPush t q c s).memIs s.mem := by
  have place (c : Cmd) (ext : BitVec 64) : (placePush t q c ext s).memIs s.mem := by
    refine PushRes.ite_memIs (modQueue_mem _ _ _) (PushRes.ite_memIs trivial (PushRes.ite_memIs trivial ?_))
    exact foldl_keep (fun x : List Nat × State => x.2) _ (fun acc o => by simp) _ _
  unfold tryPush
  refine PushRes.ite_memIs rfl ?_
  split
  · exact PushRes.ite_memIs (PushRes.ite_memIs (place _ _) (modQueue_mem _ _ _)) (PushRes.ite_memIs rfl trivial)
  · exact PushRes.ite_memIs rfl (PushRes.ite_memIs (PushRes.ite_memIs trivial (modQueue_mem _ _ _)) (place _ _))

@[simp] theorem noteOwed_mem (t : Fin 16) (s : State) : (noteOwed t s).mem = s.mem := by
  unfold noteOwed; (repeat' split) <;> simp

theorem clockCycle_wf (s : State) (h : Memory.wf s.mem) : Memory.wf (clockCycle s).mem := by
  unfold clockCycle
  simp only [performDue_mem, commitBeats_mem, vecBegin_mem, noteCounters_mem, wakeRange_mem]
  refine powerIdle_wf _ ?_
  simp only [endCycle_mem, noteHighs_mem, pauseTile_mem]
  have fold {α : Type} (f : State → α → State) (hf : ∀ s x, (f s x).mem = s.mem) (l : List α) (u : State)
      (hu : Memory.wf u.mem) : Memory.wf (l.foldl f u).mem := foldl_mem f hf l u ▸ hu
  refine fold _ (fun s l => by simp) _ _ ?_
  simp only [clockMark_mem, countCycle_mem, countPower_mem]
  have before := fold (fun s nc => noteLookahead nc.1 nc.2 (requestBlock nc.1 nc.2 s)) (fun s nc => by simp) allCtx _
    ((fabCycle_mem _).symm ▸ fold (fun s g => galCycle g s) (fun s g => by simp) (List.finRange 4)
      (lanePasses (arrayCycles (countWaits (allThreads.foldl (fun s t => noteOwed t s) s))))
      (by simpa using fold (fun s t => noteOwed t s) (fun s t => by simp) allThreads s h))
  exact ite_wf (by simpa using before) before

theorem tick_wf (s : State) (h : Memory.wf s.mem) : Memory.wf (tick s).mem := by
  unfold tick
  exact ite_wf (by simpa using h) (ite_wf (by simpa using h) (clockCycle_wf s h))

/-! ## Register writes -/

theorem pageWrite_wf (m : Bool) (p : Page) (off : Nat) (v : BitVec 64) (s : State) (h : Memory.wf s.mem) :
    Memory.wf (pageWrite m p off v s).mem := by
  have tier (t : Tier) : Memory.wf (tierWrite t off v s).mem := by
    unfold tierWrite
    split
    · exact pwrTarget_wf _ _ _ h
    · simpa using h
    · exact h
  have clu : Memory.wf (cluWrite off v s).mem := by
    unfold cluWrite
    split
    case h_3 => exact clusterReset_wf _ _ h
    all_goals simpa using h
  cases p
  case clu => exact clu
  case hall => exact tier .hall
  case lhall => exact tier .lower
  all_goals
    simp only [pageWrite]
    repeat' split
    all_goals first | exact h | simpa using h

theorem regWrite_wf (o : Originator) (p : Page) (off : Nat) (v : BitVec 64) (s : State) (h : Memory.wf s.mem) :
    Memory.wf (regWrite o p off v s).mem := by
  unfold regWrite
  exact ite_wf h (ite_wf (by simpa using h) (pageWrite_wf _ _ _ _ _ h))

theorem regStore_wf (o : Originator) (p : Page) (off : Nat) (v : BitVec 64) (s : State) (h : Memory.wf s.mem) :
    Memory.wf (regStore o p off v s).mem := by
  unfold regStore
  split
  · exact ite_wf (by simpa using regWrite_wf _ _ _ _ _ h) (by simpa using h)
  · exact ite_wf h (ite_wf (by simpa using h) (by simpa using regWrite_wf _ _ _ _ _ h))

theorem slotStore_wf (o : Originator) (slot off : Nat) (v : BitVec 64) (s : State) (h : Memory.wf s.mem) :
    Memory.wf (slotStore o slot off v s).mem := by
  unfold slotStore
  split
  · exact regStore_wf _ _ _ _ _ h
  · split
    · simpa using h
    · exact h

theorem registerWrite_wf (o : Originator) (a : Nat) (v : BitVec 64) (s : State) (h : Memory.wf s.mem) :
    Memory.wf (registerWrite o a v s).mem := by
  unfold registerWrite
  refine ite_wf ?_ ?_
  · split
    · exact ite_wf (ite_wf (by simpa using h) h) (slotStore_wf _ _ _ _ _ h)
    · exact slotStore_wf _ _ _ _ _ h
  · split
    · simpa using h
    · exact ite_wf (by simpa using h) h

theorem mgmtTaskStart_wf (s : State) (h : Memory.wf s.mem) : Memory.wf (mgmtTaskStart s).mem := by
  unfold mgmtTaskStart
  refine ite_wf h (ite_wf (by simpa using h) ?_)
  simp only []
  refine ite_wf (by simpa using h) (ite_wf h ?_)
  rw [answer_mem]
  refine foldl_wf (fun x : Nat × State => x.2) _ (fun acc t ha => ?_) _ _ (regWrite_wf _ _ _ _ _ h)
  unfold startListed
  simp only []
  split
  · exact regWrite_wf _ _ _ _ _ ha
  · exact ha

theorem mgmtThreadRestart_wf (s : State) (h : Memory.wf s.mem) : Memory.wf (mgmtThreadRestart s).mem := by
  unfold mgmtThreadRestart
  refine ite_wf h ?_
  simp only []
  refine ite_wf (by simpa using h) (ite_wf (by simpa using h) (ite_wf (by simpa using h) ?_))
  simpa using regWrite_wf _ _ _ _ _ h

/-! ## Register reads -/

/-- Every read-to-clear field is a count, whose clearing leaves memory alone. -/
theorem rcCounters_mem : ∀ r ∈ rcCounters, ∀ n s, (r.set n s).mem = s.mem := by
  have units : ∀ r ∈ rcUnits, ∀ n s, (r.set n s).mem = s.mem := by simp [rcUnits, rcOf]
  have rest : ∀ r ∈ rcRest, ∀ n s, (r.set n s).mem = s.mem := by simp [rcRest, rcOf]
  have opa (a : Fin 2) : ∀ r ∈ rcOpa a, ∀ n s, (r.set n s).mem = s.mem := by simp [rcOpa, rcOf]
  have tier (t : Tier) : ∀ r ∈ rcTier t, ∀ n s, (r.set n s).mem = s.mem := by simp [rcTier, rcOf]
  have strm (k : Fin 4) : ∀ r ∈ rcStrm k, ∀ n s, (r.set n s).mem = s.mem := by simp [rcStrm, rcOf]
  have gal (g : Fin 4) : ∀ r ∈ rcGal g, ∀ n s, (r.set n s).mem = s.mem := by simp [rcGal, rcOf]
  intro r hr
  simp only [rcCounters, List.mem_append, List.mem_flatMap, List.mem_map] at hr
  rcases hr with ((((((h | ⟨a, -, h⟩) | h) | h) | ⟨k, -, h⟩) | ⟨g, -, h⟩) | ⟨c, -, rfl⟩) | h
  · exact units r h
  · exact opa a r h
  · exact tier _ r h
  · exact tier _ r h
  · exact strm k r h
  · exact gal g r h
  · intro n s; rfl
  · exact rest r h

theorem regRead_mem (p : Page) (off : Nat) (s : State) : (regRead p off s).2.mem = s.mem := by
  unfold regRead
  have all : ∀ x ∈ rcAt p off, x.2 ∈ rcCounters := fun x hx => by
    obtain ⟨i, hi, rfl⟩ := List.mem_mapIdx.mp (List.mem_of_mem_filter hx)
    exact List.getElem_mem _
  generalize rcAt p off = l at all
  induction l generalizing s with
  | nil => rfl
  | cons x r ih =>
    refine (ih _ fun y hy => all y (List.mem_cons_of_mem _ hy)).trans ?_
    have hx := rcCounters_mem x.2 (all x (by simp))
    simp only [rcClear]
    split <;> exact hx _ _

/-! ## Instructions -/

/-- What an instruction may leave: a state of canonical memory. -/
def Res.wf : Res → Prop
  | .next s _ => Memory.wf s.mem
  | .trap _ s => Memory.wf s.mem
  | _ => True

/-- An instruction row keeps the canonical form where its body does. -/
theorem usherRow_wf (op : UOp) (body : Body) (hb : ∀ t w s, Memory.wf s.mem → (body t w s).wf) (t : Fin 16) (s : State)
    (h : Memory.wf s.mem) : Memory.wf (usherRow op body t s).mem := by
  have read (o : UOp) (w : BitVec 32) (r : Res) (e : readIns op body t s = some (o, w, r)) : r.wf := by
    unfold readIns at e
    simp only [] at e
    repeat' split at e
    all_goals first
      | (simp only [Option.some.injEq, Prod.mk.injEq] at e; obtain ⟨-, -, rfl⟩ := e; first | trivial | exact hb _ _ _ h)
      | simp at e
  have apply (r : Res) (u : State) (hr : r.wf) (hu : Memory.wf u.mem) : Memory.wf (applyRes t r u).mem := by
    cases r with
    | next s' pc => simpa [applyRes, Res.wf] using hr
    | fault c => simpa [applyRes] using hu
    | trap c s' => simpa [applyRes, Res.wf] using hr
    | wait st => simpa [applyRes] using hu
  unfold usherRow
  split
  · exact h
  · split
    · split
      · simpa using h
      · exact h
    · exact h
  · split
    · exact h
    · rename_i e
      simp only []
      refine ite_wf ?_ h
      have hr := read _ _ _ e
      split
      · exact apply _ _ (by simpa [Res.wf] using hr) h
      · exact apply _ _ (by simpa [Res.wf] using hr) h
      · exact apply _ _ hr (by simpa using h)

theorem owedPush_mem (t : Fin 16) (s : State) : (owedPush t s).mem = s.mem := by
  unfold owedPush
  split
  · rfl
  · split
    · rename_i q c r _
      have h := tryPush_mem t q c s
      split <;> rename_i e <;> rw [e] at h <;> simp_all [PushRes.memIs]
    · rfl

end Sys2Proof.Machine
end

