-- ==== Sys2Proof/Laws/Usher.lean ====
section
/-! SUPPORT. What an instruction row does, said once: which state it leaves when its thread has a slot, reads its word and
waits for no register; and the arithmetic of its word's fields. -/

namespace Sys2Proof.Machine

/-- Thread `t` has a slot of the cycle for the instruction `o`, word `w`. -/
def State.hasSlot (s : State) (t : Fin 16) (o : UOp) (w : BitVec 32) : Bool :=
  match s.turn t with | .first _ => true | .second => true | .pair u => pairOk u o w | _ => false

/-- A word of row `op` that no load holds back reads as its body's result. -/
theorem readIns_body {op : UOp} {body : Body} {t : Fin 16} {s : State} {w : BitVec 32} (hp : fetchPriv s t = false)
    (hw : fetchWord s (s.thread t).pc = w) (hd : decodeUsher w = some op) (hf : op ≠ .fwRet ∨ t = fwThread)
    (hn : pendingReg (s.thread t) op w = none) : readIns op body t s = some (op, w, body t w s) := by
  have : ¬ (op = .fwRet ∧ t ≠ fwThread) := by tauto
  simp [readIns, hp, hw, hd, hn, this]

/-- A row whose body goes on: the body's state, with the thread at its new pc and the slot used. -/
theorem usherRow_next {op : UOp} {body : Body} {t : Fin 16} {s : State} {w : BitVec 32} {s1 : State} {pc : BitVec 18}
    (ht : s.hasSlot t op w = true) (hr : readIns op body t s = some (op, w, .next s1 pc)) :
    usherRow op body t s =
      modThread t (fun th =>
        let th := { th with pc := pc, issued := th.issued + 1 }
        if th.st = .ready then th.resume else th) ((useSlot t (s.turn t) op w s1).spend .issue (some t) 1) := by
  unfold usherRow State.hasSlot at *
  cases h : s.turn t <;> simp_all [applyRes]

/-- A row whose body raises a precise fault. -/
theorem usherRow_fault {op : UOp} {body : Body} {t : Fin 16} {s : State} {w : BitVec 32} {code : Nat}
    (ht : s.hasSlot t op w = true) (hr : readIns op body t s = some (op, w, .fault code)) :
    usherRow op body t s = preciseFault t code (useSlot t (s.turn t) op w s) := by
  unfold usherRow State.hasSlot at *
  cases h : s.turn t <;> simp_all [applyRes]

/-- A row whose body waits: the instruction does not issue. -/
theorem usherRow_wait {op : UOp} {body : Body} {t : Fin 16} {s : State} {w : BitVec 32} {st : TState}
    (ht : s.hasSlot t op w = true) (hr : readIns op body t s = some (op, w, .wait st)) :
    usherRow op body t s = modThread t (fun th => { th with st := st }) (useSlot t (s.turn t) op w s) := by
  unfold usherRow State.hasSlot at *
  cases h : s.turn t <;> simp_all [applyRes]

/-- Taking a slot changes the slots of the cycle only. -/
theorem useSlot_eq (t : Fin 16) (turn : Turn) (o : UOp) (w : BitVec 32) (s : State) :
    useSlot t turn o w s = { s with
      ush := { s.ush with
        slot0 := (useSlot t turn o w s).ush.slot0, slotsUsed := (useSlot t turn o w s).ush.slotsUsed } } := by
  unfold useSlot; split <;> rfl

@[simp] theorem useSlot_thread (t u : Fin 16) (turn : Turn) (o : UOp) (w : BitVec 32) (s : State) :
    (useSlot t turn o w s).thread u = s.thread u := by
  unfold useSlot; split <;> rfl

/-- The sign-extended immediate of a word. -/
theorem wSimm_eq (w : BitVec 32) : wSimm w = BitVec.ofInt 64 (BitVec.ofNat 16 w.toNat).toInt := by
  unfold wSimm wImm
  rw [BitVec.signExtend]
  congr 2

/-- An aligned access of 1, 2, 4 or 8 bytes is one piece of one line. -/
theorem lineChunks_aligned (a n : Nat) (h : a % n = 0) (hn : n = 1 ∨ n = 2 ∨ n = 4 ∨ n = 8) : lineChunks a n = [(a, n)] := by
  have fit : min n (128 - a % 128) = n := by rcases hn with rfl | rfl | rfl | rfl <;> omega
  have pos : n ≠ 0 := by omega
  simp [lineChunks, lineChunksAux, fit, pos]

end Sys2Proof.Machine
end

