-- ==== Sys2Proof/Safety.lean ====
section
/-! DEFINITION. What counts as a safe run: it reaches a state, so no step stopped, and the state meets what the claims ask. -/

namespace Sys2Proof.Safety

open Sys2Proof.Machine

/-- `k` steps from `s` reach `s'`: no step of them ended in a fault or a refusal. -/
def Reaches (k : Nat) (s s' : State) : Prop := Sys2Proof.core.run k s = .next s'

/-- The next step from `s` answers a state. -/
def Goes (s : State) : Prop := ∃ s', step s = .next s'

/-- The invariant of the whole machine: memory stands in its canonical form. -/
def Sound (s : State) : Prop := Memory.wf s.mem

/-- A job runs undisturbed: no job-fatal record is held and its task has not been aborted (R326, R328). -/
def Undisturbed (s : State) : Bool := !s.evt.valid && s.ush.task != .aborted

end Sys2Proof.Safety
end

