-- ==== Sys2Proof/WellFormed.lean ====
section
/-! DEFINITION. Which commands a port of the cluster can carry: the sizes that R242 and R261 give
fabric packets, that a Gallery read names some byte and its response flits bring one line or two (R246, R250). Every other
operand of a command is bounded by its type. -/

namespace Sys2Proof

/-- `n` bytes from `a` are a transfer of R242: at most 32 lines, inside one 4 KiB block. -/
def transferOk (a n : Nat) : Bool := 1 ≤ n && a % 4096 + n ≤ 4096

/-- A response of 1 to 32 lines (R261). -/
def linesOk {α : Type} (xs : List α) : Bool := 1 ≤ xs.length && xs.length ≤ 32

/-- The packet of a command is one its port can carry; a command that brings no packet is always well formed. -/
def Instr.wf : Instr → Bool
  | .fabRdReq _ _ a n => transferOk a.toNat n
  | .fabWr _ _ a d _ => transferOk a.toNat d.length
  | .fabRdRsp _ d => linesOk d
  | .galReadRequest _ _ _ _ n => 1 ≤ n
  | .galReadResponse _ _ _ d => 1 ≤ d.length && d.length ≤ 2
  | _ => true

end Sys2Proof
end

