-- ==== Sys2Proof/Tests/Slice0.lean ====
section
/-! SUPPORT. Tests on small states: ill-formed packets, single steps whose results the manual gives, and for each statement
with hypotheses states that meet them. -/

namespace Sys2Proof.Tests

open Sys2Proof Sys2Proof.Machine

set_option maxRecDepth 100000
set_option exponentiation.threshold 2000

/-! ## States -/

/-- The reset state in phase READY. -/
def base : State := { State.reset with clu := { State.reset.clu with phase := .ready } }

/-- The word `w` in instruction memory. -/
def word (pc w : Nat) (s : State) : State := memWrite (Config.imemBase + pc) (leBytes w 4) s

/-- A thread with registers `xs`. -/
def regs (xs : List (Fin 32 × Nat)) (th : Thread) : Thread :=
  { th with regs := xs.foldl (fun v x => v.set x.1 (BitVec.ofNat 64 x.2)) th.regs }

/-- Thread `t` of `s` READY at 0x100 with the word `w` there and registers `xs`. -/
def atOf (t : Fin 16) (w : Nat) (xs : List (Fin 32 × Nat)) (s : State) : State :=
  word 0x100 w (modThread t (fun th => { regs xs th with pc := 0x100, st := .ready }) s)

def at0 (w : Nat) (xs : List (Fin 32 × Nat)) : State := atOf 0 w xs base

/-- A word of major `m`. -/
def ins (m rd ra x : Nat) : Nat := m * 2 ^ 26 + rd * 2 ^ 21 + ra * 2 ^ 16 + x

def bv32 (n : Nat) : BitVec 32 := BitVec.ofNat 32 n

/-- `o` issues from thread 0 as the word `w` with registers `xs`. -/
def goes (o : UOp) (w : Nat) (xs : List (Fin 32 × Nat) := []) : Bool := Claims.issues (at0 w xs) 0 o (bv32 w)

/-- The state after a command, tested. -/
def nx (o : Host.Outcome State Fault Refusal) (p : State → Bool) : Bool :=
  match o with | .next s => p s | _ => false

/-! ## Well-formed packets -/

theorem test_wf_read : Instr.wf (.fabRdReq ⟨0, 0, 0⟩ 0 0x0F80 128) = true := by decide
theorem test_wf_read_empty : Instr.wf (.fabRdReq ⟨0, 0, 0⟩ 0 0 0) = false := by decide
theorem test_wf_read_crosses : Instr.wf (.fabRdReq ⟨0, 0, 0⟩ 0 0x0F80 129) = false := by decide
theorem test_wf_write_empty : Instr.wf (.fabWr ⟨0, 0, 0⟩ 0 0 [] none) = false := by decide
theorem test_wf_data_empty : Instr.wf (.fabRdRsp 0 []) = false := by decide
theorem test_wf_data_long : Instr.wf (.fabRdRsp 0 (List.replicate 33 0)) = false := by decide
theorem test_wf_gallery_read : Instr.wf (.galReadRequest 0 true 0 0x0FFF 0) = false := by decide
theorem test_wf_gallery_data : Instr.wf (.galReadResponse 0 ⟨true, 0⟩ 0 []) = false := by decide
theorem test_wf_gallery_long : Instr.wf (.galReadResponse 0 ⟨true, 0⟩ 0 [0, 0, 0]) = false := by decide

/-! ## Usher: arithmetic, branches, jumps -/

theorem witness_alu_registers :
    ([UOp.add, .sub, .and, .or, .xor, .shl, .shr, .sra, .slt, .sltu, .min, .max, .mul, .mulhu].zipIdx.all fun p =>
      goes p.1 (ins 1 1 2 (3 * 2048 + p.2))) = true := by decide

theorem witness_alu_immediates :
    ([UOp.addi, .andi, .ori, .xori, .shi, .slti, .movz, .movk].zipIdx.all fun p => goes p.1 (ins (2 + p.2) 1 2 5)) = true := by
  decide

/-- ADD wraps modulo 2⁶⁴, and a write of S0 is ignored (R52, R401). -/
theorem test_add_wraps : nx (exec (.add 0) (at0 (ins 1 1 2 (3 * 2048)) [(2, 2 ^ 64 - 1), (3, 2)])) (fun s =>
    (s.thread 0).reg 1 == 1 && (s.thread 0).pc == 0x104 && (s.thread 0).issued == 1) = true := by decide
theorem test_write_s0 : nx (exec (.add 0) (at0 (ins 1 0 2 (3 * 2048)) [(2, 1), (3, 2)])) (fun s =>
    (s.thread 0).reg 0 == 0) = true := by decide
/-- MOVK keeps the other halfwords (R401). -/
theorem test_movk : nx (exec (.movk 0) (at0 (ins 9 1 2 0xABCD) [(1, 0x1111222233334444)])) (fun s =>
    (s.thread 0).reg 1 == 0x1111ABCD33334444) = true := by decide

theorem witness_branches :
    ([UOp.beq, .bne, .blt, .bge, .bltu, .bgeu].zipIdx.all fun p =>
      goes p.1 (ins (0x20 + p.2) 1 2 4) [(1, 1), (2, 2)] && goes p.1 (ins (0x20 + p.2) 1 2 4) [(1, 2), (2, 2)] &&
        goes p.1 (ins (0x20 + p.2) 1 2 4) [(1, 3), (2, 2)]) = true := by decide

theorem witness_jumps : goes .j (ins 0x26 0 0 0x3FFFFFF) = true ∧ goes .jal (ins 0x27 0 0 16) = true ∧
    goes .jr (ins 0x28 0 2 0) [(2, 0x2003FFFC)] = true ∧
    Claims.issues (atOf 15 (ins 0x3D 0 0 0) [(30, 0x20000000)] { base with ush := { base.ush with inHandler := true } }) 15 .fwRet
      (bv32 (ins 0x3D 0 0 0)) = true := by decide

/-- BEQ counts its offset in words from the branch (R400). -/
theorem test_beq_back : nx (exec (.beq 0) (at0 (ins 0x20 1 2 0xFFFF) [(1, 7), (2, 7)])) (fun s =>
    (s.thread 0).pc == 0xFC) = true := by decide
theorem test_jal : nx (exec (.jal 0) (at0 (ins 0x27 0 0 4) [])) (fun s =>
    (s.thread 0).pc == 0x110 && (s.thread 0).reg 31 == 0x20000104) = true := by decide

/-! ## Usher: loads, stores, pages -/

theorem witness_loads_stores :
    (([UOp.ldB, .ldBu, .ldH, .ldHu, .ldW, .ldWu, .ldD].zipIdx.all fun p => goes p.1 (ins (0x10 + p.2) 1 2 8) [(2, 0x1000)]) &&
      ([UOp.stB, .stH, .stW, .stD].zipIdx.all fun p => goes p.1 (ins (0x18 + p.2) 1 2 8) [(2, 0x1000)]) &&
      inSram base.build 0x1008 8 && decide (base.range.length < 64)) = true := by decide

theorem witness_access_faults :
    (Claims.accessFault base.build 0x1001 2 == some 0x02 && Claims.accessFault base.build 0x30000000 4 == some 0x05 &&
      Claims.accessFault base.build 0x10000000 8 == some 0x01 && Claims.accessFault base.build 0x17FFFFF 1 == none) = true := by
  decide

/-- A misaligned load raises ALIGN and leaves its thread FAULTED at it (R50, R69). -/
theorem test_load_align : nx (exec (.ldW 0) (at0 (ins 0x14 1 2 1) [(2, 0x1000)])) (fun s =>
    (s.thread 0).fault == 0x02 && (s.thread 0).pc == 0x100 && s.range.isEmpty && s.ush.task == .aborted) = true := by decide

def ldStep : Nat := ins 0x16 1 2 0x48
def stSel : Nat := ins 0x1B 1 2 0x40

theorem witness_page_access :
    (goes .ldD ldStep [(2, 0x30002000)] && Page.slot .step == 2 && goes .stD stSel [(1, 7), (2, 0x30016000)] &&
      Page.slot .sync == 22 && !refusedStore base 0 .sync 0x40 7 && refusedStore base 0 .step 0x48 7) = true := by decide

/-- STEP_LEN reads its reset value (R48). -/
theorem test_load_register : nx (exec (.ldD 0) (at0 ldStep [(2, 0x30002000)])) (fun s =>
    (s.thread 0).reg 1 == 0x10000) = true := by decide
theorem test_store_priv : nx (exec (.stD 0) (at0 (ins 0x1B 1 2 0x48) [(1, 2048), (2, 0x30002000)])) (fun s =>
    (s.thread 0).fault == 0x06 && s.step.len == 0x10000) = true := by decide

/-! ## Usher: pushes -/

/-- A command of fields (position, value). -/
def cmd (fs : List (Nat × Nat)) : Cmd := BitVec.ofNat 128 (fs.foldl (fun n f => n + f.2 * 2 ^ f.1) 0)

/-- `base` with latency version 1. -/
def sel : State := { base with lat := { base.lat with version := 1 } }

/-- The first TLD of the trace (chapter 19, worked example). -/
def tldX : Cmd := BitVec.ofNat 128 0x1FC001F10020000000164

/-- Thread 0 of `s` at ENQ.R 2, S2, S3 with the command `c` in S2 and S3. -/
def enqr (q : Nat) (c : Cmd) (s : State) : State :=
  atOf 0 (ins 0x31 0 2 (3 * 2048 + q * 2 ^ 23)) [(2, c.toNat % 2 ^ 64), (3, c.toNat / 2 ^ 64)] s

def enqrW (q : Nat) : BitVec 32 := bv32 (ins 0x31 0 2 (3 * 2048 + q * 2 ^ 23))

/-- TREL of T3, with its four words inline at 0x104. -/
def enqi : State := atOf 0 (ins 0x30 0 0 (2 * 2 ^ 23)) [] (word 0x104 (6 + 3 * 2 ^ 19) sel)

def vstMxCmd : Cmd := cmd [(0, 0x17), (28, 5), (32, 0x100), (57, 0x2000)]

def entry (c : Cmd) : QEntry := ⟨c, 0, 1, 0, 0, [], [], 32⟩

/-- `s` with the commands `cs` in queue `q`. -/
def queued (q : Fin 8) (cs : List QEntry) (s : State) : State := modQueue q (fun x => { x with cmds := cs }) s

theorem witness_pushes :
    (Claims.issues enqi 0 .enqI (bv32 (ins 0x30 0 0 (2 * 2 ^ 23))) && Claims.pushes enqi 2 (Claims.inline enqi 0) &&
      cOpc (Claims.inline enqi 0) == 6 && Claims.issues (enqr 2 tldX sel) 0 .enqR (enqrW 2) &&
      Claims.pair (enqr 2 tldX sel) 0 (enqrW 2) == tldX && Claims.pushes (enqr 2 tldX sel) 2 tldX &&
      Claims.issues (enqr 3 vstMxCmd sel) 0 .enqR (enqrW 3) && isWide vstMxCmd && !pushBad sel 3 vstMxCmd) = true := by decide

def held : State := modQueue 3 (fun x => { x with hold := some (0, vstMxCmd) }) sel
def seedCmd : Cmd := cmd [(64, 77)]
def owing : State := modThread 0 (fun th => { th with st := .waitData (.owed ⟨2, [tldX]⟩) }) sel

theorem witness_pushes_wide_owed :
    (Claims.issues (enqr 3 seedCmd held) 0 .enqR (enqrW 3) && cOpc seedCmd == 0 &&
      ((enqr 3 seedCmd held).thread 0).owed?.isNone && !pushBad (enqr 3 seedCmd held) 3 seedCmd &&
      Claims.pushes (enqr 3 seedCmd held) 3 vstMxCmd && (owing.thread 0).owed? == some ⟨2, [tldX]⟩ && owing.clocked &&
      Claims.pushes owing 2 tldX && owing.rotation.takeWhile (· != 0) == []) = true := by decide

theorem witness_enqh : (goes .enqH (ins 0x32 0 2 (2 * 2 ^ 23 + 3)) [(2, 0x1000)] && inSram base.build 0x1000 64) = true := by decide

/-- The TLD of the worked example is pushed with its range entry (R57, R61). -/
theorem test_push_tld : nx (exec (.enqR 0) (enqr 2 tldX sel)) (fun s =>
    (s.queue 2).cmds.map (·.raw) == [tldX] && s.range.map (fun e => (e.lo, e.hi, e.wr)) == [(0x400000, 0x400000 + 127 * 4096 + 511, false)]) =
    true := by decide

def straddle : State :=
  modRing 0 (fun r => { r with en := true, nslotM1 := 3, slotLog2 := 10, base := 0x1000, slots := List.replicate 4 ⟨.full, 0, 0, 0, false⟩ }) sel
def tldRing : Cmd := cmd [(0, 4), (23, 0x138), (44, 8), (56, 7), (74, 1)]

theorem witness_push_refusals :
    (Claims.issues (enqr 2 tldX base) 0 .enqR (enqrW 2) && base.lat.version == 0 && pushBad sel 2 (cmd [(0, 1)]) &&
      Claims.issues (enqr 2 tldRing straddle) 0 .enqR (enqrW 2) && !pushBad straddle 2 tldRing &&
      slotRange straddle (cmdOperands tldRing (pushVl straddle) []) &&
      decide (((queued 2 (List.replicate 16 (entry tldX)) sel).queue 2).count ≥ 16)) = true := by decide

/-! ## Usher: steps, tasks, synchronisation -/

def taskDone : State := { base with ush := { base.ush with task := .running } }

theorem witness_step_instructions :
    (goes .stepWait (ins 0x34 0 2 9) [(2, 5)] && goes .stepEnd (ins 0x35 0 0 0) && goes .taskEnd (ins 0x3C 0 0 0) &&
      taskDone.queuesEmpty && taskDone.range.isEmpty && (taskDone.thread 3).st == .free &&
      ((modThread 0 (fun th => { th with st := .waitStep 0 }) base).thread 0).st == .waitStep 0 && base.clocked) = true := by decide

theorem test_step_wait : nx (exec (.stepWait 0) (at0 (ins 0x34 0 2 9) [(2, 5)])) (fun s => (s.thread 0).st == .waitStep 14) =
    true := by decide
theorem test_task_end : nx (exec .taskEnded taskDone) (fun s => s.ush.task == .ended) = true := by decide

/-- Object 5 holds 9, of which 2 are advances of this cycle. -/
def counted (s : State) : State := { s with sync := { s.sync with counts := ⟨0, [(5, 9)]⟩, adds := [(5, 2)] } }

/-- The operations of this cycle on objects 4 and 5 have been made. -/
def spent (s : State) : State := { s with sync := { s.sync with taken := [4, 5] } }

def syncAddW : Nat := ins 0x37 1 2 (0x2000 + 5)
def syncSetW : Nat := ins 0x37 0 2 (0x4000 + 4)
def syncRdW : Nat := ins 0x37 1 0 (0xA000 + 5)
def syncWaitW : Nat := ins 0x36 0 2 (0x800000 + 5)

theorem witness_sync_operations :
    (Claims.issues (counted (at0 syncAddW [(2, 3)])) 0 .syncAdd (bv32 syncAddW) && bitAt (bv32 syncAddW) 13 &&
      (bv32 syncAddW).toNat % 8192 == 5 && Claims.issues (counted (at0 syncSetW [(2, 3), (4, 5)])) 0 .syncSet (bv32 syncSetW) &&
      !bitAt (bv32 syncSetW) 13 && Claims.issues (counted (at0 syncRdW [])) 0 .syncRd (bv32 syncRdW) &&
      !(counted (at0 syncAddW [(2, 3)])).sync.taken.contains 5 && Claims.issues (spent (at0 syncAddW [(2, 3)])) 0 .syncAdd (bv32 syncAddW) &&
      Claims.issues (spent (at0 syncSetW [(2, 3), (4, 5)])) 0 .syncSet (bv32 syncSetW)) = true := by decide

/-- SYNC.ADD returns the count before the add and before the signals of its cycle (R276, R278). -/
theorem test_sync_add : nx (exec (.syncAdd 0) (counted (at0 syncAddW [(2, 3)]))) (fun s =>
    (s.thread 0).reg 1 == 7 && syncGet s 5 == 12) = true := by decide +kernel

def waiter (k : Option Nat) : State :=
  counted (modThread 1 (fun th => { th with st := .waitSync (.obj 5 10 k) }) base)

theorem witness_sync_waits :
    (Claims.issues (counted (at0 syncWaitW [(2, 9)])) 0 .syncWait (bv32 syncWaitW) && bitAt (bv32 syncWaitW) 23 &&
      ((waiter none).thread 1).st == .waitSync (.obj 5 10 none) && decide (0 ≤ ((11 : BitVec 32) - 10).toInt) &&
      ((waiter (some 0)).thread 1).st == .waitSync (.obj 5 10 (some 0)) && base.reaches .sync 0x48 &&
      mgmtMay .sync 0x48 == BitVec.allOnes 64 && base.sync.sel == 0) = true := by decide

def ctxOf (head res tail : Nat) (s : State) : State := modQue 4 (fun _ => ⟨true, 2, 0x1000, head, res, tail, []⟩) s
def queCfgW : Nat := ins 0x38 1 2 (3 * 2048)
def quePutW : Nat := ins 0x38 0 2 (3 * 2048 + 1)
def queGetW : Nat := ins 0x38 1 2 2

theorem witness_queues :
    (goes .queCfg queCfgW [(1, 4), (2, 0x201), (3, 0x1000)] && Claims.issues (ctxOf 3 3 3 (at0 queCfgW [(1, 4), (2, 0x200), (3, 0x1000)])) 0 .queCfg (bv32 queCfgW) &&
      !(ctxOf 3 3 3 base).queWaiters 4 && Claims.issues (ctxOf 0 3 3 (at0 quePutW [(2, 4), (3, 77)])) 0 .quePut (bv32 quePutW) &&
      Claims.issues (ctxOf 0 4 4 (at0 quePutW [(2, 4), (3, 77)])) 0 .quePut (bv32 quePutW) &&
      Claims.issues (ctxOf 5 7 6 (at0 queGetW [(2, 4)])) 0 .queGet (bv32 queGetW) &&
      Claims.issues (ctxOf 6 6 6 (at0 queGetW [(2, 4)])) 0 .queGet (bv32 queGetW) && ((ctxOf 0 3 3 base).que 4).en) = true := by decide

/-- QUE.GET reads the slot of index HEAD modulo the depth (R280). -/
theorem test_que_get : nx (exec (.queGet 0) (ctxOf 5 7 6 (at0 queGetW [(2, 4)]))) (fun s =>
    s.reqs.map (·.addr) == [0x1008] && (s.que 4).head == 6) = true := by decide

/-- An atomic word: op, scope, with rd S1, ra S2, rb S3, rc S4 for CAS. -/
def atomW (m op scope : Nat) : Nat := ins m 1 2 (3 * 2048 + (if op = 6 then 4 * 64 else 0) + op * 8 + scope * 2)

/-- The global address of the local word 0x1000 of cluster 0 and of another cluster. -/
def own : List (Fin 32 × Nat) := [(2, 0x1000), (3, 7)]
def other : List (Fin 32 × Nat) := [(2, 2 ^ 41 + 0x1000), (3, 7)]

theorem witness_atomics :
    (([UOp.atomAdd, .atomMax, .atomMin, .atomAnd, .atomOr, .atomSwap, .atomCas, .atomQput].zipIdx.all fun p =>
        goes p.1 (atomW 0x3A p.2 0) own && goes p.1 (atomW 0x3A p.2 3) other) &&
      ([(UOp.atomHAdd, 0), (.atomHSwap, 5), (.atomHCas, 6)].all fun p => goes p.1 (atomW 0x3B p.2 3) other)) = true := by decide

def atomOn (a : Nat) : AtomReq := ⟨5, 1, BitVec.ofNat 64 a, .add, 3, 0, .fb, false⟩
def openWrite : State := { base with nextId := 10, range := [⟨0, 0, 7, true, .usher, none, true⟩] }
def fenced (a : Nat) (own : Option Nat) : State :=
  modThread 0 (fun th => { th with st := .waitSync (.fence (atomOn a) own [0] []) }) base

/-- Thread 0 waits for the atomic on `a`, job 7, which has taken nothing yet. -/
def atomJob (a left due : Nat) : Job := ⟨7, .atomMem 0 (atomOn a) 0x100, [], left, 0, 0, none, [], 1, some 0, none, false, 0, due⟩
def atomReq7 : LineReq := ⟨3, 7, 0, 80, .usher, none, 0x1000, 8, none⟩
def atomPerforms : State :=
  modThread 0 (fun th => { th with st := .waitData (.atom 7) })
    { base with now := 10, jobs := [atomJob 0x1000 1 0], reqs := [atomReq7] }
def atomUsable : State := { atomPerforms with
  reqs := [], access := [⟨atomReq7, 9, cellsAt 0x1000 (leBytes 6 8), .clean, 0⟩] }
def atomDue : State := { atomPerforms with reqs := [], jobs := [atomJob 0x40000028 0 10] }

theorem witness_atomic_targets :
    ((atomOn 0x1000).isOwn base && (atomOn 0x1000).target? base == some (.word 0x1000) &&
      (atomOn 0x40000010).isOwn base && ((atomOn 0x40000010).target? base).isSome &&
      !(atomOn (2 ^ 41 + 0x1000)).isOwn base && decide (base.remoteAtoms < 16) &&
      ((fenced (2 ^ 41 + 0x1000) none).thread 0).st == .waitSync (.fence (atomOn (2 ^ 41 + 0x1000)) none [0] []) &&
      (fenced 0x1000 (some 9)).clocked && (fenced 0x1000 (some 9)).range.isEmpty) = true := by decide

theorem witness_atomic_fences :
    (([UOp.atomAdd, .atomMax, .atomMin, .atomAnd, .atomOr, .atomSwap, .atomCas, .atomQput].zipIdx.all fun p =>
        [own, other].all fun xs => Claims.issues (atOf 0 (atomW 0x3A p.2 3) xs openWrite) 0 p.1 (bv32 (atomW 0x3A p.2 3))) &&
      ([(UOp.atomHAdd, 0), (.atomHSwap, 5), (.atomHCas, 6)].all fun p =>
        Claims.issues (atOf 0 (atomW 0x3B p.2 3) other openWrite) 0 p.1 (bv32 (atomW 0x3B p.2 3))) &&
      Claims.olderWrites openWrite == [0]) = true := by decide

theorem witness_atomic_performed :
    (atomPerforms.clocked && atomPerforms.winner (bankIdx 0x1000) == some atomReq7 && atomPerforms.job? 7 == some (atomJob 0x1000 1 0) &&
      !atomPerforms.repairAsks (bankIdx 0x1000) && atomPerforms.powerAt 0x1000 == .on &&
      atomUsable.access.find? (fun y => y.req.id == 3) == some ⟨atomReq7, 9, cellsAt 0x1000 (leBytes 6 8), .clean, 0⟩ &&
      (atomUsable.thread 0).st == .waitData (.atom 7) && (atomOn 0x40000028).target? atomDue == some (.obj 5) &&
      (atomCount .add (syncBase atomDue 5) 3 0).isSome && !atomDue.sync.taken.contains 5) = true ∧ Memory.wf atomPerforms.mem := by
  decide

/-- An atomic on a sync object adds to its count and answers the count before it (R276, R283). -/
theorem test_atomic_object : (let s := performJob (atomJob 0x40000028 0 10) (counted atomDue)
    (syncGet s 5, (s.thread 0).reg 1, (s.thread 0).pc)) = (12, 7, 4) := by decide +kernel

/-! ## The arrays and the tile unit -/

/-- `base` in cycle 10, with a running task. -/
def at10 : State := { base with now := 10, ush := { base.ush with task := .running } }

def tileOf (fmt rows cols : Nat) : TileReg := ⟨some ⟨BitVec.ofNat 4 fmt, false, rows, cols⟩, ⟨127, []⟩, 0, 0⟩

/-- T0 and T1 hold INT8 tiles of 2 rows and 4 columns; bytes of T0's row 0 are 3, −2, 1, 0 and of T1's row 1 are 5, 7, −1, 9. -/
def tiled : State :=
  let h : TileShape := ⟨10, false, 2, 4⟩
  { at10 with tile := { at10.tile with
      regs := (at10.tile.regs.set 0 (tileOf 10 2 4)).set 1 (tileOf 10 2 4),
      words := (((SMap.zero 8).fill (h.place 0 0) 4 fun i => [3, 254, 1, 0].getD i 0).fill (h.place 1 1) 4 fun i =>
        [5, 7, 255, 9].getD i 0) } }

/-- OPX.INT8.Z of one 2 × 2 partition of 4 terms on bank 1. -/
def opxInt : Cmd := cmd [(0, 1), (19, 2), (21, 1), (22, 1), (26, 1), (42, 1), (49, 1), (60, 1), (84, 3)]

def opxState : State := queued 0 [entry opxInt] tiled

theorem witness_opx : (opxState.head? 0 == some (entry opxInt) && cOpc opxInt == 1 &&
    opxState.opaNext 0 (entry opxInt) == .go && opxState.shapeOf (opxOf opxInt).ta == some ⟨10, false, 2, 4⟩ &&
    opxState.shapeOf (opxOf opxInt).tb == some ⟨10, false, 2, 4⟩) = true := by decide

/-- Cell (0, 1) of the bank takes 3·5 − 2·7 − 1·1 + 0·9 = 0, and cell (1, 1) of a zero row 0 (R87, R89). -/
theorem test_opx_int8 : (let t := takeBeat tiled opxInt 0
    ((t.cell 0 1 7).1, (t.cell 1 1 7).1, t.commitAt)) = (0, 0, 48) := by decide +kernel

def clrCmd : Cmd := cmd [(0, 2), (5, 1), (6, 9), (19, 1), (20, 1)]
def heldOpa : State := modOpa 0 (fun x => { x with held := true }) (queued 0 [entry opxInt] tiled)
def readoutDue : State := modOpa 1 (fun x => { x with banks := x.banks.set 0 { x.banks[0] with pend := [⟨some 10, some 3⟩] } }) at10

theorem witness_array_control : ((queued 1 [entry clrCmd] at10).head? 1 == some (entry clrCmd) &&
    (queued 1 [entry clrCmd] at10).opaNext 1 (entry clrCmd) == .go && (readoutDue.opa[1].banks[0]).pend == [⟨some 10, some 3⟩] &&
    heldOpa.opa[0].held && heldOpa.reaches .opa0 0x40 && mgmtMay .opa0 0x40 == BitVec.allOnes 64) = true := by decide

/-- An accumulate form on the FP32 bank, and registers that hold no tile. -/
def opxKind : Cmd := cmd [(0, 1), (19, 2), (22, 1), (26, 1), (42, 1), (49, 1), (60, 1), (84, 3)]

theorem witness_opx_faults : ((queued 0 [entry opxKind] tiled).opaNext 0 (entry opxKind) == .bad 0x11 &&
    (queued 0 [entry opxInt] at10).opaNext 0 (entry opxInt) == .bad 0x10) = true := by decide

def tcfgCmd : Cmd := cmd [(0, 3), (19, 3), (23, 1), (27, 7), (37, 31)]
def trelCmd : Cmd := cmd [(0, 6), (19, 1)]
def cfgWaits (c : Cmd) : State := { tiled with tile := { tiled.tile with cfg := some (entry c, 5) } }

theorem witness_tile_configuration : ((queued 2 [entry tcfgCmd] tiled).head? 2 == some (entry tcfgCmd) &&
    (queued 2 [entry tcfgCmd] tiled).tileFree && !(tcfgShape tcfgCmd).bad && (queued 2 [entry trelCmd] tiled).tileFree &&
    !(cfgWaits tcfgCmd).opxUses 3 1 && !(cfgWaits tcfgCmd).loading 3 && !(cfgWaits trelCmd).loading 1) = true := by decide

/-- A TLD, and a TST, of the rows of T0 at 0x1000. -/
def moveCmd (store : Bool) : Cmd := cmd [(0, if store then 5 else 4), (23, 0x100), (44, 1), (56, 0), (74, 1)]
def moving (store : Bool) : State :=
  queued 2 [entry (moveCmd store)] { tiled with tile := { tiled.tile with regs := tiled.tile.regs.set 0 (tileOf 10 2 16) } }

theorem witness_tile_moves : ([true, false].all fun b => (moving b).head? 2 == some (entry (moveCmd b)) && (moving b).tileFree &&
    !(moving b).tile.pause && !(moving b).loadLate 0 && !(moving b).opxUses 0 1 &&
    canTake (moving b) (entry (moveCmd b)).operands && !moveBad (moving b) (tmoveOf (moveCmd b))) = true := by decide

def landing : State :=
  { moving false with
    tile := { (moving false).tile with landbuf := [⟨7, 1, List.replicate 64 9⟩] },
    jobs := [⟨7, .tld (entry (moveCmd false)), [], 1, 2, 0, none, [], 1, none, none, false, 0, 0⟩] }

theorem witness_tile_line : ((landing.job? 7).isSome && landing.shapeOf 0 == some ⟨10, false, 2, 16⟩ &&
    (⟨10, false, 2, 16⟩ : TileShape).bank 1 == 1 && !landing.landsAfter 0 ⟨10, false, 2, 16⟩ ⟨7, 1, List.replicate 64 9⟩ &&
    !landing.collectorBanks.contains 1) = true := by decide +kernel

def heldTile : State := { tiled with tile := { tiled.tile with held := some (entry (moveCmd false)), startRow := 1 } }

theorem witness_tile_control : (heldTile.reaches .tile 0x40 && mgmtMay .tile 0x40 == BitVec.allOnes 64 &&
    heldTile.tile.held.isSome && tiled.tile.held.isNone && !tiled.clu.live) = true := by decide

/-- A TREL leaves its register unconfigured and keeps its scales (R141). -/
theorem test_trel : nx (exec .tileCfgTakeEffect (cfgWaits trelCmd)) (fun s =>
    (s.tile.regs[1]).shape.isNone && (s.tile.regs[1]).scale == ⟨127, []⟩ && s.tile.cfg.isNone) = true := by decide +kernel

/-! ## The vector engine -/

/-- Lanes `xs` of V register `r`. -/
def lanes (r : Nat) (xs : List Nat) (s : State) : State :=
  { s with vec := { s.vec with v := s.vec.v.fill (65536 * r) xs.length fun i => bv32 (xs.getD i 0) } }

/-- VL is 32; V1 and V2 hold a few lanes. -/
def vecs : State :=
  lanes 2 [0x40000000, 0x7FC00001, 0x80000000] (lanes 1 [0x3F800000, 0x3F800000, 0] { at10 with vec := { at10.vec with vl := 32 } })

/-- A lane command V3 := V1 op V2. -/
def laneCmd (opc fn : Nat) (more : List (Nat × Nat) := []) : Cmd := cmd ([(0, opc), (23, 3), (28, 1), (33, 2), (43, fn)] ++ more)

def laneOf (c : Cmd) : State := queued 3 [entry c] vecs

/-- The command `c` heads queue 3 and may start. -/
def laneGoes (c : Cmd) : Bool := (laneOf c).vecHead == some (entry c) && (laneOf c).passReady (entry c)

/-- The command `c` has issued the first of its passes over 2,048 lanes. -/
def passed (c : Cmd) : VRun := ⟨{ entry c with vl := 2048 }, unitOf c, none, 2, [5], [], [], [], []⟩
def passedOf (c : Cmd) : State := { vecs with vec := { vecs.vec with runs := [passed c] } }
def passGoes (c : Cmd) : Bool :=
  (passed c).due 10 && !(passedOf c).runHeld 0 (passed c) && !(passedOf c).isBubble

theorem witness_vector_lanes :
    (((List.range 8).all fun n => laneGoes (laneCmd 0x0A n)) && ((List.range 12).all fun n => laneGoes (laneCmd 0x0B n)) &&
      ((List.range 3).all fun n => laneGoes (laneCmd 0x0D n)) && laneGoes (laneCmd 0x0F 0 [(51, 1)]) &&
      ((List.range 4).all fun n => laneGoes (laneCmd 0x10 n))) = true := by decide

theorem witness_vector_passes :
    (((List.range 8).all fun n => passGoes (laneCmd 0x0A n)) && ((List.range 12).all fun n => passGoes (laneCmd 0x0B n)) &&
      ((List.range 3).all fun n => passGoes (laneCmd 0x0D n)) && passGoes (laneCmd 0x0F 0 [(51, 1)]) &&
      ((List.range 4).all fun n => passGoes (laneCmd 0x10 n) && passGoes (laneCmd 0x13 n)) &&
      passGoes (laneCmd 0x0C 9) && passGoes (laneCmd 0x0E 3) && passGoes (laneCmd 0x11 1) && passGoes (laneCmd 0x12 1)) = true := by
  decide

/-- VADD whose result has been formed, and reaches V3 at cycle 14. -/
def formed : State :=
  { passedOf (laneCmd 0x0A 0) with
    now := 14,
    vec := { vecs.vec with
      runs := [{ passed (laneCmd 0x0A 0) with n := 1, issued := [10] }],
      writes := [⟨14, [⟨false, 3 * 65536, 0xFFFFFFFF, 7⟩]⟩] } }

theorem witness_results : (formed.vec.writes.all (fun w => w.at_ ≤ formed.now) &&
    (formed.vec.runs.all fun r => r.unit == .alu && r.issued == [10] && 10 + passLat formed.build r.e.raw == formed.now)) = true := by
  decide
theorem test_results : (applyWrites formed).lane 3 0 = 7 ∧ (endRuns formed).vec.runs = [] := by decide

theorem witness_min_max_nan :
    ((laneOf (laneCmd 0x0A 4)).active (laneCmd 0x0A 4) 1 && decide ((1 : Nat) < vecs.vec.vl) &&
      !bitAt (laneCmd 0x0A 4) 48 && decide (1 < vecs.build.vlen) && vecs.lane 1 1 == 0x3F800000 && vecs.lane 2 1 == 0x7FC00001 && vecs.lane 1 2 == 0 &&
      vecs.lane 2 2 == 0x80000000) = true := by decide

/-- The maximum of 1 and a NaN is 1, of +0 and −0 is +0 (R93); the sum of 1 and 2 is 3. -/
theorem test_vmax : nx (exec .vmax (laneOf (laneCmd 0x0A 5))) (fun s =>
    (applyWrites { s with now := 14 }).lane 3 1 == 0x3F800000 && (applyWrites { s with now := 14 }).lane 3 2 == 0) = true := by
  decide +kernel
theorem test_vadd : nx (exec .vadd (laneOf (laneCmd 0x0A 0))) (fun s =>
    (applyWrites { s with now := 13 }).lane 3 0 == 0 && (applyWrites { s with now := 14 }).lane 3 0 == 0x40400000) = true := by
  decide +kernel

def edges : State := lanes 1 [0, 0x80000000, 0x7F800000, 0xFF800000, 0x7FC00001, 0x43000000, 0xC2FC0001, 0xBF800000, 0x41000000] vecs

theorem witness_transcendentals :
    ((List.range 4).all fun n => (queued 3 [entry (laneCmd 0x10 n)] edges).vecHead == some (entry (laneCmd 0x10 n)) &&
      (queued 3 [entry (laneCmd 0x10 n)] edges).passReady (entry (laneCmd 0x10 n)) && edges.active (laneCmd 0x10 n) 8) = true := by
  decide

theorem witness_masks : (((List.range 4).all fun n => laneGoes (laneCmd 0x0E n)) &&
    ((List.range 24).all fun n => laneGoes (laneCmd 0x0C n))) = true := by decide

/-- An inspection session is live. -/
def liveIn (s : State) : State := { s with clu := { s.clu with live := true } }

/-- VPERM in inspection mode, its indices in V5 (all 0) or in V2. -/
def permIn (vb : Nat) : State := queued 3 [entry (cmd [(0, 0x13), (23, 3), (28, 1), (33, vb)])] (liveIn vecs)

theorem witness_permutes_scans : (((List.range 4).all fun n => laneGoes (laneCmd 0x13 n)) &&
    decide (fld (laneCmd 0x13 1) 49 16 < 32) && !vecs.clu.live && ([5, 2].all fun b => (permIn b).vecHead.isSome &&
      (permIn b).vecHead.all (permIn b).passReady) && decide (32 ≤ ((permIn 2).lane 2 0).toNat) &&
    ((List.range 32).all fun n => (permIn 5).lane 5 n == 0) &&
    ([0, 1, 9, 17, 25].all fun n => laneGoes (laneCmd 0x11 n)) && ([0, 1, 17].all fun n => laneGoes (laneCmd 0x12 n))) = true := by
  decide

def vldCmd : Cmd := cmd [(0, 0x14), (23, 3), (31, 0x100)]
def vstCmd : Cmd := cmd [(0, 0x15), (23, 1), (31, 0x100)]
def vldMxCmd : Cmd := cmd [(0, 0x16), (23, 3), (28, 5), (32, 0x100), (57, 0x2000)]
def vldxCmd : Cmd := cmd [(0, 0x18), (23, 3), (28, 4), (36, 0x100), (61, 63)]
def vstxCmd : Cmd := cmd [(0, 0x19), (23, 1), (28, 4), (36, 0x100), (61, 63)]

def memGoes (c : Cmd) : Bool :=
  let u := takeAtStart .vec (entry c).operands [] (laneOf c)
  laneGoes c && (laneOf c).mayTake (entry c) && u.2.storeFree u.1 (entry c)

/-- Job 7 of the load or store `c` over 2,048 lanes, whose first pass has issued and asked for nothing that still waits. -/
def memJob (c : Cmd) : Job :=
  ⟨7, if unitOf c = .write then .vstore (passed c).e else .vload (passed c).e, [], 0, 0, 0, none, [], 1, none, none, false, 0, 0⟩
def memOf (c : Cmd) : State :=
  { vecs with jobs := [memJob c], vec := { vecs.vec with runs := [{ passed c with job := some 7 }] } }
def memDue (c : Cmd) : Bool :=
  ((memOf c).job? 7).isSome && !(memOf c).regsHold 0 { passed c with job := some 7 } && !(memOf c).isBubble &&
    (memOf c).storeFree [] (passed c).e && (memOf c).portLoad (unitOf c == .write) == 0

theorem witness_vector_memory : (([vldCmd, vldMxCmd, vldxCmd, vstCmd, vstMxCmd, vstxCmd].all fun c => memGoes c && memDue c) &&
    ((List.range 32).all fun n => decide ((vecs.lane 4 n).toNat < vmWindow vldxCmd ∧ (vecs.lane 4 n).toNat < vmWindow vstxCmd))) =
    true := by decide

/-- A VLD of 32 lanes, all of whose data is there, and a store all of whose lines are written. -/
def loadedRun : VRun := ⟨entry vldCmd, .read, some 7, 1, [5], [], [], (List.range 32).map (takeLane vecs vldCmd), []⟩
def loadedOf : State :=
  { vecs with jobs := [{ memJob vldCmd with kind := .vload (entry vldCmd) }], vec := { vecs.vec with runs := [loadedRun] } }
def storedOf : State := { vecs with jobs := [memJob vstCmd] }

theorem witness_vector_memory_ends : ((loadedOf.job? 7).isSome && !loadedOf.passInFlight 7 0 && vmFmt vldCmd == 0 &&
    decide (32 ≤ loadedOf.build.vlen) && (storedOf.job? 7).isSome && storedOf.vec.runs.isEmpty) = true := by decide

def accCmd : Cmd := cmd [(0, 0x1A), (20, 1), (26, 1), (31, 3)]
def vcfgCmd : Cmd := cmd [(0, 0x1B), (19, 3)]
def heldVec (e : QEntry) : State := { laneOf e.raw with vec := { vecs.vec with held := true } }

/-- A VACC.RD of two cycles after its first. -/
def accRun : VRun := ⟨entry accCmd, .readout, none, 2, [9], [], [], [], []⟩
def accOf : State := { vecs with vec := { vecs.vec with runs := [accRun] } }

theorem witness_vector_control : ((laneOf accCmd).vecHead == some (entry accCmd) && (laneOf accCmd).readoutReady 0 1 1 &&
    (laneOf accCmd).passReady (entry accCmd) && accRun.due accOf.now && !accOf.runHeld 0 accRun && (laneOf vcfgCmd).vecHead == some (entry vcfgCmd) &&
    (heldVec (entry vldxCmd)).vec.held && (heldVec (entry vldxCmd)).reaches .vec 0x40 &&
    mgmtMay .vec 0x40 == BitVec.allOnes 64 && ((heldVec (entry vldxCmd)).queue 3).cmds.head? == some (entry vldxCmd)) = true := by
  decide

theorem test_vcfg : nx (exec .vcfg (laneOf vcfgCmd)) (fun s => s.vec.vl == 128) = true := by decide +kernel

/-! ## Flights and streams -/

/-- FLT.GO of one ReLU stage over V1, with W 32, and its destination record: FP32 rows at 0x1000 after stage 0. -/
def goCmd : Cmd := cmd [(0, 0x1E), (26, 1), (28, 1)]
def reluStage : Cmd := cmd [(0, 0x1C), (26, 6)]
def adrCmd : Cmd := cmd [(0, 0x1D), (22, 1), (23, 0x100), (48, 8)]
def trdCmd : Cmd := cmd [(0, 0x1F), (19, 5), (25, 0x100)]
def flt : QEntry := { entry goCmd with cap := List.replicate 8 reluStage ++ adrCmd :: List.replicate 5 0 }
def fltState (e : QEntry) : State := queued 3 [e] vecs

/-- A Flight of memory rows: 2 rows of 32 FP16 elements at 0x2000. -/
def fltMem : QEntry := { flt with
  raw := cmd [(0, 0x1E), (26, 2), (28, 1)],
  cap := List.replicate 8 reluStage ++ [adrCmd, 0, 0, 0, cmd [(22, 1), (23, 0x200), (48, 8), (68, 2)], 0] }

/-- Job 7 of the Flight with all its inputs; its first two values are 1 and −1. -/
def arrived (wr : Bool) : State := { fltState flt with
  jobs := [⟨7, .flight flt wr, cellsAt (srcKey 0) (leBytes 0xBF8000003F800000 8), 0, 0, 32, none, [9], 1, none, none, false, 0, 0⟩] }

/-- Its run, whose only read cycle was cycle 0; and one that has read no cycle. -/
def fltRun : VRun := ⟨flt, .flight, some 7, 1, [0], [], [0], [], []⟩
def fltUnread : VRun := { fltRun with issued := [], fall := [] }
def fltOf (r : VRun) : State := { arrived false with now := 100, vec := { vecs.vec with runs := [r] } }

/-- The image of a Tread that adds C0 = 1. -/
def addOne : List (BitVec 8) := leBytes (1 + 2 ^ 8 + (2 * 2 ^ 27 + 8 * 2 ^ 16) * 2 ^ 128 + 0x3F800000 * 2 ^ 1152) 192

def trdDone : State := { fltState (entry trdCmd) with
  jobs := [⟨7, .tread (entry trdCmd), cellsAt 0x1000 addOne, 0, 2, 0, none, [], 1, none, none, false, 0, 0⟩] }

theorem witness_flights : ((fltState (entry reluStage)).vecHead == some (entry reluStage) && cOpc reluStage == 0x1C &&
    (fltState (entry adrCmd)).vecHead == some (entry adrCmd) && cOpc adrCmd == 0x1D &&
    (fltState (entry trdCmd)).vecHead == some (entry trdCmd) && cOpc trdCmd == 0x1F &&
    canTake (fltState (entry trdCmd)) (entry trdCmd).operands &&
    !(fltState (entry trdCmd)).flightNames 5 && !(fltState (entry trdCmd)).loadingProg 5 &&
    ([flt, fltMem].all fun e => (fltState e).vecHead == some e && cOpc e.raw == 0x1E && (fltState e).flightReady e &&
      (goStages e.raw).all (fun i => stKind (capStage e.cap i) != 0x1F) && (treadOver (fltState e) e.raw e.cap).isNone &&
      !narrowsInt (fltState e) e.raw e.cap && !usesM1 e.raw e.cap) && goSrc fltMem.raw == 2 && goSrc flt.raw == 1) = true := by
  decide

theorem witness_flight_ends : ((arrived true).clocked && trdDone.clocked &&
    !treadBad (BitVec.ofNat 1536 (leNat (bufBytes (cellsAt 0x1000 addOne) (vmBase trdCmd) 192))) &&
    ((arrived false).job? 7).isSome && goCount flt.raw 32 == 32 && vmBase trdCmd == 0x1000 &&
    (fltOf fltRun).valuesLeave 7 fltRun && ((fltOf fltRun).job? 7).isSome && ((fltOf fltUnread).job? 7).isSome &&
    !(fltOf fltUnread).valuesLeave 7 fltUnread && (fltOf fltUnread).flightDue 7 fltUnread && goSrc flt.raw != 2 &&
    !usesM1 flt.raw flt.cap) = true := by decide

/-- FLT.STG writes entry 8·DEF + STG (R178); the loaded Tread adds one (R187). -/
theorem test_flt_stg : nx (exec .fltStg (fltState (entry reluStage))) (fun s => s.flt.defs.get 0 == reluStage) = true := by
  decide
theorem test_tread : nx (exec (.treadProgramLoaded 5) trdDone) (fun s =>
    runTread (s.flt.treads.get 5) 0x40000000 0 == 0x40400000 && s.jobs.isEmpty) = true := by decide +kernel

/-- The first destination row stores 1 and 0: ReLU of 1 and −1 (R183). -/
theorem test_flight_write : (((arrived false).jobs.map fun j => leaveFlight j fltRun (fltOf fltRun)).flatMap fun s =>
    s.reqs.flatMap fun q => q.wr.getD []).take 8 = cellsAt 0x1000 (leBytes 0x3F800000 8) := by decide +kernel

/-- A descriptor of `kind`: one row of 16 bytes from 0x1000 to 0x3000, with an index array at 0x5000. -/
def desc (kind : Nat) (last : Bool) : Desc :=
  BitVec.ofNat 512 (kind + (if last then 16 else 0) + 0x1000 * 2 ^ 128 + 0x3000 * 2 ^ 192 + (16 + 16 * 2 ^ 32) * 2 ^ 256 +
    (0x5000 + 2 ^ 32) * 2 ^ 320)

def gen (d : Desc) : Gen := ⟨some 12, 0, 0x2000, some (0x2000, List.replicate 16 d), none, false, 0, 1⟩

/-- Context 0 of engine 0 in state `st` with the generation `g` and tiles `ts`. -/
def ctxIn (st : CState) (g : Option Gen) (ts : List STile) : State :=
  modCtx 0 0 (fun x => { x with lookahead := 2, st := st, gen := g, tiles := ts }) at10

def cfg0 : Cmd := cmd [(0, 7), (21, 3), (40, 9)]
def arm0 : Cmd := cmd [(0, 8), (21, 0x2000)]
def cancel0 : Cmd := cmd [(0, 9)]

theorem witness_stream_commands : (([cfg0, arm0, cancel0].all fun c =>
      (queued (strmQ 0) [entry c] (ctxIn .idle none [])).head? (strmQ 0) == some (entry c) &&
      (queued (strmQ 0) [entry c] (ctxIn .active (some (gen (desc 1 true))) [])).head? (strmQ 0) == some (entry c)) &&
    cOpc cfg0 == 7 && cOpc arm0 == 8 && cOpc cancel0 == 9 && ((ctxIn .idle none []).ctx 0 0).pend.isNone &&
    ((modCtx 0 0 (fun x => { x with pend := some (gen 0) }) (ctxIn .active none [])).ctx 0 0).pend.isSome &&
    (at10.strm[0]).cfgAt != 11 && (((ctxIn .active (some { gen 0 with lastSeen := true }) []).ctx 0 0).gen.any (·.lastSeen)) &&
    ((ctxIn .cancelling none []).ctx 0 0).st == .cancelling && ((ctxIn .cancelling none []).ctx 0 0).tiles.isEmpty) = true := by
  decide

def walking (kind : Nat) (last : Bool) : State := ctxIn .active (some (gen (desc kind last))) []

theorem witness_descriptors : ([(0, false), (0, true), (1, false), (2, false), (3, false), (15, false)].all fun p =>
    (let s := walking p.1 p.2
     (s.ctx 0 0).nextDesc? == some (0x2000, desc p.1 p.2) && dKind (desc p.1 p.2) == p.1 && dLast (desc p.1 p.2) == p.2 &&
      s.mayIssue && s.strm[0].descAt != s.now + 1 && ((s.ctxOrder.takeWhile (· != 0)).all fun k => s.descGo 0 k == .no) &&
      s.descGo 0 0 == .start)) = true := by decide

/-- Tile job 7 and 8 of context 0, which have copied their rows. -/
def tileJob (id : Nat) : Job := ⟨id, .tile 0 0 (desc 1 false) 0x2000, [], 0, 2, 1, none, [], 1, none, none, false, 0, 0⟩
def sTile (id : Nat) : STile := ⟨id, desc 1 false, 0x2000, false, none, false⟩
def copied (ids : List Nat) (done : List Nat) : State :=
  { ctxIn .active (some (gen (desc 1 false))) (ids.map sTile) with
    jobs := ids.map fun i => if done.contains i then tileJob i else { tileJob i with left := 1 } }

/-- The block at `b` is due, and, with the job 3, read. -/
def fetching (old : Bool) (b : Nat) (id : Option Nat) : State :=
  modCtx 0 0 (fun x => { x with gen := some { gen 0 with block := if old then (gen 0).block else none, fetch := some (b, 0, id) } })
    { walking 1 true with now := 12, jobs := [⟨3, .block 0 0 b, [], 0, 0, 0, none, [], 1, none, none, false, 0, 0⟩] }

def heldCtx (id : Option Nat) : State :=
  { modCtx 0 0 (fun x => { x with held := [(id, 0x2000, desc 1 true)] }) (ctxIn .held (some (gen (desc 1 true))) [sTile 7]) with
    jobs := [tileJob 7] }

theorem witness_stream_progress : ((fetching false 0x2000 (some 3)).clocked && ((fetching true 0x2400 (some 3)).job? 3).isSome &&
    !(fetching false 0x2000 none).rangeFull && !(fetching false 0x2000 none).isBubble &&
    (copied [7] [7]).tileArrived (sTile 7) && ((copied [7] [7]).job? 7).isSome &&
    !((copied [7, 8] [8]).ctx 0 0).holds 8 && !(copied [7, 8] [8]).tileArrived (sTile 7) && (copied [7, 8] [8]).tileArrived (sTile 8) && ((copied [7, 8] [8]).job? 8).isSome &&
    (heldCtx none).reaches (Page.strm 0) 0x40 && mgmtMay (Page.strm 0) 0x40 == BitVec.allOnes 64 &&
    ((heldCtx (some 7)).ctx 0 0).st == .held && ((heldCtx (some 7)).job? 7).isSome && !(gen 0).lastSeen &&
    (let s := modCtx 0 0 (fun x => { x with st := .active, held := [] }) (heldCtx (some 7))
     let s := settleTile 7 (modJob 7 (fun j => { j with next := 0, buf := [], bad := none, sent := 0 }) s)
     !((s.ctx 0 0).gen.any (·.lastSeen)))) = true := by decide

/-- The LAST descriptor of a walk without tiles signals the ARM's object at once (R223, R236). -/
theorem test_nop_last : nx (exec (.descNop 0 0) (walking 0 true)) (fun s =>
    (s.ctx 0 0).st == .idle && syncGet s 12 == 1) = true := by decide +kernel
theorem test_copy_starts : nx (exec (.descCopy 0 0) (walking 1 true)) (fun s =>
    s.reqs.map (fun q => (q.addr, q.len)) == [(0x1000, 16)] && s.range.map (fun e => (e.lo, e.hi, e.wr)) ==
      [(0x1000, 0x100F, false), (0x3000, 0x300F, true)]) = true := by decide +kernel

/-! ## The fabric port, Galleries and links -/

def memWin : Window := ⟨true, false, true, true, true, true, 31, 0, 20, 0x8000, 0, 100, 0, 0, 0, 0, 0, 0⟩
def syncWin : Window := ⟨true, true, true, true, true, true, 31, 0x100, 12, 40, 0, 100, 0, 0, 0, 0, 0, 0⟩

/-- Every link up with credits; a MEM window at offset 0 and a SYNC window at 1 MiB. -/
def linked : State := { at10 with
  fab := { at10.fab with link := .up, version := 3, capPeer := 0x70303, credits := Vector.replicate 3 8 },
  gal := Vector.replicate 4 { at10.gal[0] with
    link := .up, version := 3, capPeer := 0x70303, modulesLive := 4, credits := Vector.replicate 3 8 },
  win := { at10.win with windows := (at10.win.windows.set 0 memWin).set 1 syncWin } }

def peer : Identity := ⟨3, 1, 2⟩

theorem witness_inbound : (linked.fabAccepts &&
    (match fabAdmit linked peer 0x2010 8 .rd none with | .ok w => w == 0 | _ => false) &&
    (match fabAdmit linked peer 0x2010 8 .wr none with | .ok w => w == 0 | _ => false) &&
    (match fabAdmit linked peer 0x2010 8 .atom none with | .ok w => w == 0 | _ => false) &&
    (match fabAdmit linked peer 0x100010 8 .atom none with | .ok w => w == 1 | _ => false) &&
    (match fabAdmit linked peer 0x200000 8 .rd none with | .error r => r == 1 | _ => false) &&
    memWin.target? 0x2010 == .mem 0xA010 && syncWin.target? 0x100010 == .obj 42 && linked.fab.version != 2 &&
    linked.fabFeature 17 && linked.fabFeature 18 && !linked.sync.taken.contains 42 &&
    ({ linked with sync := { linked.sync with taken := [42] } }).fabAccepts &&
    (match fabAdmit linked peer 0x100010 8 .rd none with | .ok w => w == 1 | _ => false) &&
    linked.win.windows[0] == memWin && linked.win.windows[1] == syncWin) = true := by decide

/-- An inbound ADD on a sync object answers the old count and performs it (R276, R281). -/
theorem test_inbound_add : nx (exec (.fabAtomReq peer 9 0x100010 ⟨.add, false⟩ 5 0) linked) (fun s =>
    syncGet s 42 == 5 && s.fab.tx == [.atomRsp 9 0]) = true := by decide +kernel

/-- The wheel's slot of this cycle has class `k`. -/
def wheelAt (k : Nat) (xs : List Xfer) (s : State) : State :=
  { s with fab := { s.fab with wheel := BitVec.ofNat 32 (k * 0x55555555), xfers := xs } }

def rdXfer : Xfer := ⟨.strm 0 0 7, .read 0x3000, 2 ^ 41 + 0x1000, 16, 0, none, 0, 4, false⟩
def wrXfer : Xfer := ⟨.strm 0 0 7, .write 0x3000 none, 2 ^ 41 + 0x1000, 16, 0, some 5, 0, 4, false⟩
def atomXfer : Xfer := ⟨.usher 0 1 2 false, .atom (atomOn (2 ^ 41 + 0x1000)), 2 ^ 41 + 0x1000, 8, 1, some 5, 0, 4, false⟩
def writing : State := { wheelAt 2 [wrXfer] linked with
  jobs := [{ tileJob 7 with buf := cellsAt (2 ^ 41 + 0x1000) (List.replicate 16 3) }] }
def answering : State := { wheelAt 3 [] linked with fab := { (wheelAt 3 [] linked).fab with remote := [⟨4, List.replicate 256 1, 0⟩] } }

theorem witness_fabric_slots : (linked.clocked && linked.fab.link == .up && !linked.fab.slotUsed &&
    (wheelAt 1 [rdXfer] linked).wheelClass == 1 && (wheelAt 1 [rdXfer] linked).wheelPick true == some (0, rdXfer) &&
    writing.wheelClass == 2 && writing.fab.rate == 0 && writing.wheelPick false == some (0, wrXfer) &&
    wrXfer.sent + 1 == wrXfer.slots && !writing.fabLacks wrXfer && (writing.job? 7).isSome && answering.wheelClass == 3 &&
    decide (0 < answering.fab.credits[2])) = true := by decide

/-- A tile of one row read over the fabric to 0x3000, whose read is outstanding under tag 5. -/
def fabDesc : Desc := BitVec.ofNat 512 (1 + 2 ^ 8 + (2 ^ 41 + 0x1000) * 2 ^ 128 + 0x3000 * 2 ^ 192)
def reading : State := { wheelAt 1 [{ rdXfer with tag := some 5, sent := 1 }] linked with
  jobs := [{ tileJob 7 with kind := .tile 0 0 fabDesc 0x2000, left := 1 }] }
def atomWaits (rd : Fin 32) : State :=
  modThread 0 (fun th => { th with st := .waitData (.atom 1) })
    (wheelAt 1 [{ atomXfer with holder := .usher 0 1 rd false }] linked)

theorem witness_fabric_responses : (linked.fab.link == .up && linked.alive && (reading.xferOf 5).isSome && (reading.job? 7).isSome &&
    dDstKind fabDesc == 0 && (wheelAt 2 [wrXfer] linked).xferOf 5 == some wrXfer &&
    ((atomWaits 2).xferOf 5).isSome && ((atomWaits 0).xferOf 5).isSome &&
    ((atomWaits 2).thread 0).st == .waitData (.atom 1)) = true := by decide

theorem test_atom_rsp : nx (exec (.fabAtomRsp 5 77) (atomWaits 2)) (fun s =>
    (s.thread 0).reg 2 == 77 && (s.thread 0).st == .ready && s.fab.xfers.isEmpty) = true := by decide +kernel

/-- Ring 0 has slots of 1 KiB at 0x8000, Gallery 0 perhaps a tile in its slot 0, relayed by entry 0 or not. -/
def flit (first last : Bool) : WriteFlit := ⟨⟨true, 0⟩, 0x100, first, last, 255, 7, none⟩
def tileOf0 (relay : Option (Fin 16)) (ended : Bool) : GalTile := ⟨1, 0, 0, relay, 7, memWin, 256, none, 0, ended⟩
def tileOpen (relay : Option (Fin 16)) (ts : List GalTile) : State :=
  let s := modRing 0 (fun r => { r with
    en := true, nslotM1 := 3, slotLog2 := 10, base := 0x8000, slots := List.replicate 4 ⟨.empty, 0, 0, 0, false⟩ })
      { linked with nextId := 10 }
  modGal 0 (fun x => { x with
    tiles := ts, relay := x.relay.set 0 (1 + 6 * 2 ^ 16), delta := x.delta.set 0 0x4000,
    rx := if relay.isSome then [flit false false] else [] }) s
def relaying : State := tileOpen (some 0) [tileOf0 (some 0) false]

theorem witness_gallery_arrivals : (linked.gal[0].link == .up && linked.clocked && linked.alive && linked.gal[0].rxSeq == 0 &&
    (tileOpen none [tileOf0 none false]).gal[0].openTile? == some (tileOf0 none false) &&
    (match flitFits (tileOpen none [tileOf0 none false]) (tileOf0 none false) (flit false true) with
      | .at_ a => a == 0x8100 | _ => false) &&
    (tileOpen none [tileOf0 none true]).gal[0].openTile? == none && !linked.flitLacks 0 (flit true false) &&
    (match galAdmit (tileOpen none []) 0 0x100 256 none with | .ok p => p == (0, 0x8100) | _ => false) &&
    flitSlot (tileOpen none []) 0x8100 256 == some (0, 0) && tagPermits (tileOpen none []) 0 0 true && !(tileOpen none []).rangeFull &&
    relaying.relayHead 0 == some (tileOf0 (some 0) false, 0, flit false false, 0x8100) &&
    relayOuts relaying.gal[0].relay[0] == [1, 2] &&
    ([1, 2].all fun o : Fin 4 => relaying.galFeature o 16 && relaying.relayTakes o && relaying.gal[o].hasTokens) &&
    linked.galReads 0 == 0 && inHall 0xA010 8 &&
    ([(0x2010, true), (0x200000, false)].all fun p =>
      match admission linked (.gal 0) (peerOf linked.gal[0]) p.1 8 .rd none with | .ok w => p.2 && w == 0 | _ => !p.2)) = true := by
  decide

/-- A relayed flit leaves with its address moved by DELTA (R253). -/
theorem test_relay : nx (exec (.relayForward 0) relaying) (fun s =>
    s.gal[1].pins == [.write { flit false false with addr := 0x4100 }] && s.gal[0].rx.isEmpty) = true := by decide +kernel

/-- Gallery 0 awaits the answer to flit 3 of tile job 7, or of a flit of Gallery 2 that it relays, or to a read. -/
def awaiting : State :=
  modGal 2 (fun x => { x with tiles := [{ tileOf0 (some 0) false with job := 9 }] })
    (modGal 0 (fun x => { x with
      acks := [⟨3, 7, 0x1000, 16⟩], relayAcks := [⟨4, 2, 9, 9, none⟩], reads := [⟨5, 7, 0x1000, 0x3000, 16, 0⟩] })
    { linked with jobs := [{ tileJob 7 with kind := .tile 0 0 fabDesc 0x2000, left := 1 }] })

theorem witness_gallery_answers : (awaiting.gal[0].acks.find? (fun a => a.seq == 3) == some ⟨3, 7, 0x1000, 16⟩ &&
    (awaiting.job? 7).isSome && awaiting.gal[0].acks.find? (fun a => a.seq == 4) == none &&
    awaiting.gal[0].relayAcks.find? (fun r => r.seq == 4) == some ⟨4, 2, 9, 9, none⟩ && awaiting.alive &&
    (awaiting.gal[2].tiles.any fun t => t.job == 9) &&
    awaiting.gal[0].reads.find? (fun r => r.seq == 5) == some ⟨5, 7, 0x1000, 0x3000, 16, 0⟩ &&
    ({ base with clu := { base.clu with phase := .pass } }).clu.phase == .pass) = true := by decide

/-- Gallery 0 of a cross-die cluster in state `l`. -/
def galIn (l : Link) (f : Gal → Gal) : State :=
  modGal 0 (fun x => f { x with link := l }) { linked with
    build := { base.build with crossDie := Vector.replicate 4 true }, ush := { linked.ush with task := .ended } }
def trainFab : State := { linked with
  fab := { linked.fab with link := .training }, ush := { linked.ush with task := .ended } }

theorem witness_link_states : ([Link.down, .up, .failed].all fun l =>
      (galIn l id).reaches (Page.gal 0) 0x40 && mgmtMay (Page.gal 0) 0x40 == BitVec.allOnes 64 && l.code < 8 && (galIn l id).ush.task == .ended) = true ∧
    (trainFab.reaches .fab 0x70 && mgmtMay .fab 0x70 == BitVec.allOnes 64 && trainFab.ush.task != .running &&
      trainFab.fab.link == .training && trainFab.fab.version != 0 &&
      trainFab.alive && (galIn .up id).alive && (galIn .training id).gal[0].link == .training && (galIn .training id).gal[0].version != 0 && (galIn .training id).build.crossDie[0] &&
      (galIn .up fun x => { x with recalEn := true }).gal[0].recalEn && (galIn .up id).gal[0].recalMod == 0 &&
      (galIn .up id).gal[0].recalAt == 0 && (galIn .up id).gal[0].modulesLive == 4 &&
      (galIn .up fun x => { x with recalMod := 2, modulesLive := 3 }).gal[0].recalMod != 0 &&
      (galIn .up id).gal[0].retired == 0 && !bitAt (galIn .up fun x => { x with retired := 2 }).gal[0].retired 0) = true := by decide

/-- A module that fails its return is retired (R260). -/
theorem test_recal_fails : nx (exec (.moduleRecalDone 0 false 0) (galIn .up fun x => { x with recalMod := 2, modulesLive := 3 }))
    (fun s => s.gal[0].retired == 2 && s.gal[0].modulesLive == 3 && s.gal[0].link == .up) = true := by decide +kernel

/-- Ring 0 of `tileOpen`, a relay entry enabled, no task. -/
def relayed : State := tileOpen none []
def offLinks : State := { base with win := linked.win }

theorem witness_link_registers : (relayed.reaches .win 0x100 && mgmtMay .win 0x100 == BitVec.allOnes 64 &&
    !winBad relayed 0 memWin && memWin.en && !relayed.win.windows[2].en && relayed.win.windows[1].en &&
    relayed.reaches .win 0x108 && mgmtMay .win 0x108 == BitVec.allOnes 64 && relayed.reaches .win 0x148 &&
    offLinks.reaches .fab 0x50 && mgmtMay .fab 0x50 == BitVec.allOnes 64 && !offLinks.anyLinkUp &&
    offLinks.reaches .fab 0x40 && mgmtMay .fab 0x40 == BitVec.allOnes 64 && offLinks.ush.task != .running &&
    relayed.reaches (Page.gal 0) 0x100 && mgmtMay (Page.gal 0) 0x100 == BitVec.allOnes 64 &&
    relayed.gal[0].relay[0].toNat % 2 == 1 && !relayed.relayBusy 0 0 && relayed.gal[1].relay[0].toNat % 2 == 0 &&
    !relayBad relayed 1 0 ((1 + 5 * 2 ^ 16) &&& 0x00001FFF001F3F01)) = true := by decide

/-! ## Hall, Lower Hall, Landings -/

/-- Thread 0 loads 8 bytes at `a` into S2, or stores there, as job 7 and request 3. -/
def loadJob : Job := ⟨7, .load 0 2 0x1000 8 false 0x100, [], 1, 0, 0, none, [], 0, none, none, false, 0, 0⟩
def storeJob : Job := { loadJob with kind := .store 0 0x100 }
def req (a : Nat) (wr : Option (List Host.Cell)) : LineReq := ⟨3, 7, 0, 5, .usher, none, a, 8, wr⟩
def asks (a : Nat) (wr : Option (List Host.Cell)) : State :=
  memWrite 0x1000 (leBytes 0x8877665544332211 8)
    (modThread 0 (fun th => { th with pend := [(7, 2)], st := .waitData (.reg 2) })
      { at10 with jobs := [if wr.isSome then storeJob else loadJob], reqs := [req a wr] })
def bankOf (a : Nat) : LineBank := if a < 0x1800000 then .hall (Fin.ofNat 96 (bankIdx a)) else .channel (Fin.ofNat 16 (bankIdx a - 96))

theorem witness_line_grants : ([(0x1000, none), (0x1000, some (cellsAt 0x1000 (leBytes 5 8))), (Config.lhallBase, none)].all fun p =>
      (let s := asks p.1 p.2
       let b := LineBank.idx (bankOf p.1)
       s.winner b == some (req p.1 p.2) && s.clocked && !s.granted.contains b && !s.repairAsks b &&
        s.powerAt p.1 == .on && ((s.job? 7).bind Job.atom?).isNone)) = true ∧
    Memory.wf (asks 0x1000 none).mem ∧ Memory.wf (asks Config.lhallBase none).mem ∧
    (at10.winner 4 == none && !at10.hall.scrubBusy && !at10.lhall.scrubBusy) = true := by decide +kernel

/-- The access of request 3 at 0x1000, in correction phase `e`, due. -/
def access (wr : Option (List Host.Cell)) (e : EccPhase) : Access :=
  ⟨req 0x1000 wr, 8, if wr.isSome then [] else cellsAt 0x1000 (leBytes 0x8877665544332211 8), e, 1⟩
def ending (wr : Option (List Host.Cell)) (e : EccPhase) : State := { asks 0x1000 wr with reqs := [], access := [access wr e] }

theorem witness_accesses : ((ending none .clean).access.find? (fun a => a.req.id == 3) == some (access none .clean) &&
    (ending none .clean).clocked && (ending none .clean).job? 7 == some loadJob && ((ending none .clean).thread 0).pend.contains (7, 2) &&
    (ending (some []) .clean).job? 7 == some storeJob &&
    ([EccPhase.flagged, .reread].all fun e => (ending none e).access.find? (fun a => a.req.id == 3) == some (access none e) &&
      !(ending none e).granted.contains (bankIdx 0x1000) &&
      ((ending none e).repairs (bankIdx 0x1000)).find? (fun a => a.req.unit != .scrub) == some (access none e))) = true := by decide

/-- A load's data goes to its register (R50), and a line with one flagged word stores nothing it should not. -/
theorem test_load_data : nx (exec (.hallReadDataUsable 3) (ending none .clean)) (fun s =>
    (s.thread 0).reg 2 == 0x8877665544332211 && (s.thread 0).st == .ready && s.jobs.isEmpty) = true := by decide

theorem witness_hall_maintenance : ([Tier.hall, .lower].all fun t =>
      base.reaches (Page.tier t) 0x60 && mgmtMay (Page.tier t) 0x60 == BitVec.allOnes 64 && !(base.tier t).scrubBusy &&
      base.reaches (Page.tier t) 0x40 && mgmtMay (Page.tier t) 0x40 == BitVec.allOnes 64 &&
      (let s := modTier t (fun h => { h with scrubBusy := true }) base
       let b := match t with | .hall => 4 | .lower => 100
       s.clocked && (s.tier t).scrubBusy && s.scrubNext b == some 0 && (s.winner b).isNone && s.powerAt (scrubAddr b 0) == .on &&
        !s.repairAsks b && s.granted.isEmpty && s.access.isEmpty) &&
      (let s := modTier t (fun h => { h with scrubBusy := true, scrubPtr := Vector.replicate 96 (scrubLen base.build t) }) base
       (List.range (scrubBanks t)).all fun k => (s.scrubNext (bankBase t + k)).isNone) &&
      ((modTier t (fun h => { h with live := h.live.set 1 (.waking 5) }) at10).tier t).live[1] == .waking 5) = true ∧
    (!base.step.enable && base.range.isEmpty && base.hall.tgtPend.isNone && base.lhall.tgtPend.isNone &&
      ({ base with step := { base.step with enable := true } }).step.enable) = true ∧ Memory.wf base.mem := by decide

/-- Group 0 with power code 2 goes OFF, and code 0 wakes it in 2,048 cycles (R208). -/
theorem test_hall_off : nx (exec (.hallPwrWrite .mgmt .hall 2) base) (fun s =>
    s.hall.live[0] == .off && nx (exec (.hallPwrWrite .mgmt .hall 0) s) (fun u => u.hall.live[0] == .waking 2048)) = true := by
  decide +kernel

def full (e : BitVec 32) : Slot := ⟨.full, e, 0, 0, false⟩
/-- Ring 0: four slots of 1 KiB at 0x8000; a Landing whose region holds up to 16 entries at 2⁴¹. -/
def landing0 (wseq rseq : BitVec 32) (slots : List Slot) (region : List (BitVec 32 × Bool)) (s : State) : State :=
  modRing 0 (fun r => { r with
    en := true, kind := true, nslotM1 := 3, reads := 1, slotLog2 := 10, base := 0x8000, ovfEn := true, ovfLog2 := 4,
    ovfBase := 0x20000000, wseq := wseq, rseq := rseq, slots := slots, region := region }) s
def cfgV : BitVec 64 := BitVec.ofNat 64 (1 + 3 * 2 ^ 8 + 2 ^ 16 + 10 * 2 ^ 20 + 0x8000 * 2 ^ 32)
def openRing : State := landing0 4 0 ((List.range 4).map fun i => full (BitVec.ofNat 32 i)) [] base
def bufferRing : State := modRing 0 (fun r => { r with kind := false }) openRing

theorem witness_landing_registers : (base.reaches .land 0x100 && mgmtMay .land 0x100 == BitVec.allOnes 64 && !(base.ring 0).en &&
    !ringBad base 0 ((base.ring 0).withCfg cfgV) && ringBad base 0 ((base.ring 0).withCfg 1) && (openRing.ring 0).en &&
    base.reaches .land 0x108 && mgmtMay .land 0x108 == BitVec.allOnes 64 && base.reaches .land 0x48 &&
    mgmtMay .land 0x48 == BitVec.allOnes 64 && (bufferRing.ring 0).slots[1]? == some (full 1) && decide (1 < (bufferRing.ring 0).nslot) &&
    !(bufferRing.ring 0).kind && (bufferRing.ring 0).en && !slotHeld bufferRing 0 1) = true := by decide

/-- A TLD whose rows lie in slot 0 of the ring, which waits for it; and its TST, which writes there. -/
def waitsRing (store : Bool) (s : State) : State :=
  queued 2 [entry (cmd [(0, if store then 5 else 4), (23, 0x800), (44, 1), (56, 0), (74, 1)])]
    { s with now := 10, ush := { s.ush with task := .running },
             tile := { s.tile with regs := s.tile.regs.set 0 (tileOf 10 2 16) } }

/-- Slot 0 holds entry 0 and a store waits to write entry 4 there: a spill; slot 0 is EMPTY and a load waits for entry 4,
which lies in the region: a refill. -/
def spills : State := waitsRing true openRing
def refills : State := waitsRing false (landing0 5 4 (⟨.empty, 0, 0, 0, false⟩ :: (List.range 3).map fun i => full (BitVec.ofNat 32 (i + 1))) [(4, true)] base)

def inMove (spill hallDone : Bool) (k : JobKind) (left : Nat) (s : State) : State :=
  modRing 0 (fun r => { r with
    xfer := some ⟨spill, if spill then 0 else 4, 0, 7, hallDone⟩,
    slots := r.slots.modify 0 fun x => { x with tag := if spill then .spilling else .refilling, entry := if spill then 0 else 4 } })
    { s with jobs := [{ tileJob 7 with kind := k, left := left, top := 0 }] }
def spillRead7 : State := { inMove true false (.spill 0) 0 spills with fab := { base.fab with
  xfers := [⟨.landing 0 7, .write 0 none, 2 ^ 41, 1024, 0, none, 0, 0, false⟩] } }
def spillLeft : State := modRing 0 (fun r => { r with region := [(0, false)] }) (inMove true true (.spill 0) 0 spills)
def refilled : State := inMove false false (.refill 0) 0 refills

theorem witness_landing_moves : (spills.nextMove 0 == some (.spill 0) && (spills.ring 0).slots[0]? == some (full 0) &&
    (spillRead7.ring 0).xfer == some ⟨true, 0, 0, 7, false⟩ && (spillRead7.job? 7).isSome && spillRead7.outOf 7 == 1 &&
    spillLeft.outOf 7 == 0 && (spillLeft.ring 0).region == [(0, false)] && refills.nextMove 0 == some (.refill 4) &&
    (refills.ring 0).slotFor 4 == 0 && (refilled.ring 0).xfer == some ⟨false, 4, 0, 7, false⟩ && (refilled.job? 7).isSome &&
    refilled.outOf 7 == 0) = true := by decide

/-! ## Steps, Usher control, power -/

/-- An open step with marks enabled, in phase `ph`, in mark-time cycle `mt`. -/
def inStep (ph : StepPhase) (mt : Nat) (s : State) : State := { s with step := { s.step with
  enable := true, phase := ph, cycle := 9, mtime := BitVec.ofNat 32 mt, rdy := decide (ph = .ready),
  rdyAt := if ph = .ready then some 7 else none } }
def idle : State := { base with now := 10 }

theorem witness_step_progress : (
    (let s := inStep .run 9 idle
     s.clocked && s.step.enable && !s.step.rdy && !s.evt.valid && s.step.phase == .run && s.step.cycle != 0 && s.stepDone) &&
    !(inStep .run 9 { idle with range := [⟨0, 0, 7, true, .usher, none, true⟩] }).stepDone &&
    (let s := inStep .run 0x10001 idle
     decide (s.step.len.toNat < s.step.mtime.toNat + s.step.lead.toNat) && s.step.phase == .run && !s.step.rdy) &&
    (let s := inStep .run 0x11FC1 idle
     s.stepOpen && !s.step.rdy && !s.step.overrun && s.tagWaits.isEmpty &&
      decide (s.step.len.toNat + s.step.guard.toNat + 1 ≤ s.step.mtime.toNat + s.step.lead.toNat)) &&
    (let s := { idle with pwr := { idle.pwr with switching := true } }
     s.pwr.switching && s.pwr.switchLeft == 0 && !s.pwr.coolStopped)) = true := by decide

/-- An overrun comes at L + G − A + 1 and not one cycle earlier (R28). -/
theorem test_overrun : nx (exec .stepOverrun (inStep .run 0x11FC1 idle)) (fun s => s.step.overrun && s.evt.code == 0x20) = true ∧
    nx (exec .stepOverrun (inStep .run 0x11FC0 idle)) (fun s => !s.step.overrun) = true := by decide +kernel

theorem witness_step_marks : (!base.step.enable && ([StepPhase.ready, .run, .late].all fun ph =>
      (let s := inStep ph 9 idle
       s.step.enable && s.clocked && s.step.shadow.isEmpty && s.hall.tgtPend.isNone && s.lhall.tgtPend.isNone && s.stepOpen &&
        !s.evt.valid && s.step.phase == ph && s.step.rdy == decide (ph = .ready))) &&
    idle.ush.task != .ended && ({ idle with ush := { idle.ush with task := .ended } }).ush.task == .ended) = true := by decide

theorem test_mark_opens : nx (exec (.stepMarkNormal 300 2) (inStep .ready 9 idle)) (fun s =>
    s.step.index == 1 && s.step.cycle == 0 && s.step.phase == .run && !s.step.rdy) = true := by decide +kernel

/-- The originators and states from which a register write at an offset of a page reaches it. -/
def writesAll (xs : List (Page × Nat)) (s : State) : Bool :=
  xs.all fun x => s.reaches x.1 x.2 && mgmtMay x.1 x.2 == BitVec.allOnes 64

theorem witness_step_registers : (
    writesAll [(.step, 0x40), (.step, 0x48), (.step, 0x50), (.step, 0x58), (.lat, 0x40), (.pwr, 0x40), (.pwr, 0x48), (.pwr, 0x70)] idle &&
    writesAll [(.step, 0x40), (.pwr, 0x40)] (inStep .run 9 idle) && (inStep .run 9 idle).stepOpen && !idle.stepOpen &&
    ({ idle with step := { idle.step with enable := true } }).step.enable && idle.step.shadow.isEmpty) = true := by decide

/-- Firmware measured and locked; Usher released or held. -/
def measured (run : Bool) : State := { idle with
  clu := { idle.clu with hashDone := true, hashLocked := true, fwidValid := true, ifMajor := 1, fwVersion := 7 },
  ush := { idle.ush with run := run, fwTop := 4 } }
def watched : State := { measured true with clu := { (measured true).clu with wdogEn := true, wdogPeriod := 5, wdogLeft := 0 } }
def recorded : State := { idle with evt := { idle.evt with valid := true, count := 3 } }
def loaded : State := { measured true with ush := { (measured true).ush with task := .loaded } }

theorem witness_usher_control : (writesAll [(.ush, 0x40), (.ush, 0x48), (.ush, 0x50), (.ush, 0x180), (.ush, 0x1F0)] idle &&
    writesAll [(.ush, 0x40), (.ush, 0x180)] (measured true) && writesAll [(.ush, 0x40)] (measured false) &&
    (measured false).clu.phase == .ready && (measured false).clu.hashDone && (measured false).clu.hashLocked &&
    !(measured false).ush.run && !idle.clu.hashDone && !idle.evt.valid && recorded.evt.valid && (taskStateOf 1).isSome &&
    writesAll [(.ush, 0x50)] recorded && ((measured true).thread 0).st == .free && (measured true).ush.run &&
    (modThread 0 (fun th => { th with st := .ready }) idle).usherActs == false) = true := by decide

theorem witness_watchdog : (writesAll [(.clu, 0x48), (.clu, 0x40)] idle && watched.clu.wdogEn && watched.clu.wdogLeft == 0 &&
    !watched.pwr.coolStopped && !idle.clu.wdogEn &&
    (let s := { measured true with ush := { (measured true).ush with restartPending := true } }
     s.ush.restartPending && s.ush.run && s.range.isEmpty && s.clocked)) = true := by decide

/-- A thread started from LOADED makes its task RUNNING (R67, R78). -/
theorem test_thread_start : nx (exec (.threadStart .mgmt 0 0x1000400) loaded) (fun s =>
    (s.thread 0).st == .ready && (s.thread 0).pc == 0x400 && s.ush.task == .running) = true := by decide +kernel

def drooping (req held : Fin 4) : State := { idle with pwr := { idle.pwr with reqLevel := req, heldLevel := held } }
def sampling (op : BitVec 3) : State := { idle with pwr := { idle.pwr with op := op, iMt := 1024 }, step := { idle.step with freeMt := 1024 } }

theorem witness_power_events : (!idle.pwr.coolStopped && ({ idle with pwr := { idle.pwr with coolStopped := true } }).pwr.coolStopped &&
    (drooping 1 2).pwr.reqLevel.val < (drooping 1 2).pwr.heldLevel.val && (drooping 1 2).pwr.holdLeft == 0 &&
    ([(0, 0, 720000), (2, 2, 740000), (0, 2, 740000)].all fun (p : Fin 4 × Fin 4 × Nat) =>
      (drooping p.1 p.2.1).pwr.reqLevel == p.1 && vMin (drooping p.1 p.2.1).pwr.op == 750) &&
    idle.started && idle.clu.phase != .reset &&
    ([2, 3].all fun op => (sampling op).clu.phase == .ready && !(sampling op).step.enable && (sampling op).clocked &&
      !(sampling op).step.mode && (sampling op).step.freeMt == 1024 && (sampling op).pwr.iMt == 1024)) = true := by decide

/-- 720 mV lies below V_min − 15 mV of point 2, and above V_min − 40 mV (R319). -/
theorem test_droop : nx (exec (.droopCrossing 720000) (drooping 0 0)) (fun s =>
    s.pwr.heldLevel == 2 && s.pwr.holdLeft == 64) = true := by decide

theorem witness_events_registers : (writesAll [(.evt, 0x40), (.ush, 0x50), (.fab, 0x10)] recorded && !recorded.stepOpen &&
    recorded.setNow.isEmpty && recorded.reaches .fab 0x40 && Page.slot .step == 2 && recorded.evt.count == 3 &&
    (measured true).usherActs && (measured true).clocked && (measured true).clu.phase == .ready && (measured true).ush.run) = true := by decide

/-! ## Management, inspection, test ports, start-up -/

def portWord (s : State) (a : Nat) : Bool :=
  s.clu.phase == .ready && s.clocked && !s.mgmtBusy && inSram s.build a 8 && !s.granted.contains (bankIdx a) && !s.repairAsks (bankIdx a) &&
    s.powerAt a == .on

/-- Thread 15 serves the command `c` with EXPECT `e` and arguments. -/
def serving (c e : Nat) (args : List Nat) (s : State) : State :=
  modThread 15 (fun th => { th with st := .ready }) { s with mgmt := { s.mgmt with
    pending := true, reqCmd := BitVec.ofNat 8 c, reqExpect := BitVec.ofNat 8 e, reqSeq := 5,
    args := #v[BitVec.ofNat 64 (args.getD 0 0), BitVec.ofNat 64 (args.getD 1 0), 0, 0] } }
def flagged : State := countEvt .fab 3 (measured true)

/-- A request of the port whose line is read again. -/
def mgmtReplays : State := { idle with jobs := [{ tileJob 7 with kind := .mgmt 0x1000 none }] }

theorem witness_management : (mgmtReplays.mgmtBusy && !mgmtReplays.pwr.coolStopped && !inPages 0x1000 8 &&
    (serving 2 1 [0x1000, 3] loaded).clearOf 0x1000 128 false && (serving 3 0 [0x1000, 48] flagged).clearOf 0x1000 24 true &&
    (measured true).clu.hashLocked && !idle.clu.hashLocked && portWord idle 0x1000 && portWord idle Config.lhallBase && Memory.wf idle.mem &&
    writesAll [(.mgmt, 0x48)] idle && writesAll [(.mgmt, 0x48)] (serving 1 0 [] (measured true)) && !idle.mgmt.pending &&
    !idle.mgmt.reqSyncEn && (serving 1 0 [] (measured true)).usherActs &&
    mayWrite (serving 1 0 [] (measured true)) (.thread 15) .mgmt 0x70 == BitVec.allOnes 64 &&
    mayWrite (measured true) (.thread 15) .mgmt 0x70 == BitVec.allOnes 64 && (measured true).usherActs &&
    (serving 1 0 [] (measured true)).serves 1 && (serving 2 1 [0x1000, 3] loaded).serves 2 &&
    hallBuffer (serving 2 1 [0x1000, 3] loaded) 0x1000 128 && loaded.step.phase == .idle && !loaded.step.enable &&
    ((List.finRange 15).all fun t => memNat loaded (0x1000 + 8 * t.val) 8 % 4 == 0 && (loaded.thread t.castSucc).st == .free) &&
    (serving 3 0 [0x1000, 48] flagged).serves 3 && (Page.all.filter flagged.pendBit).take 2 == [.fab] &&
    hallBuffer (serving 3 0 [0x1000, 48] flagged) 0x1000 24 &&
    (let s := modThread 2 (fun th => { th with st := .halted }) (serving 4 3 [2, 0x400] (measured true))
     let l := { s with clu := { s.clu with live := true } }
     s.serves 4 && l.serves 4 && (l.thread 2).st == .halted && (l.thread 2).st.code < 16)) = true := by decide +kernel

/-- PING answers the identity, the version and bit 63 (R382). -/
theorem test_ping : nx (exec .mgmtPing (serving 1 0 [] (measured true))) (fun s =>
    s.mgmt.data[0] == 0x8000000000010007 && !s.mgmt.pending && s.mgmt.rspSeq == 5) = true := by decide +kernel

def inspected : State := { idle with clu := { idle.clu with live := true } }

theorem witness_inspection : ([idle, inspected].all fun s => writesAll [(.test, 0x100)] s && (s.thread 3).st == .free &&
    (s.vecState == 0 || s.vecState == 5) && (s.tileState == 0 || s.tileState == 4) && !s.tileInUse 3 &&
    (s.opaState 0 == 0 || s.opaState 0 == 5) && (s.opaState 1 == 0 || s.opaState 1 == 5)) = true := by decide

def marching : State := { idle with test := { idle.test with mbistBusy := true } }
theorem witness_test_ports : marching.test.mbistBusy = true := by decide

def inPhase (p : Phase) : State := { base with clu := { base.clu with phase := p } }
theorem witness_start_up : ([Phase.reset, .fuse, .clock, .selftest].all fun p => (inPhase p).clu.phase == p &&
    !(inPhase p).pwr.coolStopped) = true ∧ writesAll [(.clu, 0x58)] base = true := by decide

/-- A reset that finds no loaded shadow starts with the fuses; a bad image fails with cause 1 (R341, R342). -/
theorem test_reset_release : nx (exec .resetRelease State.reset) (fun s => s.clu.phase == .fuse) = true := by decide

def hashing : State := { idle with clu := { idle.clu with hashBusy := true }, ush := { idle.ush with fwTop := 1 } }
theorem witness_firmware : (writesAll [(.clu, 0x70), (.clu, 0x60)] idle && (measured true).usherActs &&
    mayWrite (measured true) (.thread 15) .clu 0xB0 == BitVec.allOnes 64 && writesAll [(.clu, 0x60)] inspected &&
    idle.ush.fwTop == 0 && !idle.ush.run && !idle.clu.hashBusy && hashing.clu.hashBusy && hashing.clocked &&
    ({ hashing with now := 80 * 33 }).clocked && !idle.stepOpen && idle.queuesEmpty && !idle.someHeld && !idle.clu.inspect &&
    idle.ush.task != .running && !(measured false).ush.run && (measured false).ush.fwTop != 0) = true := by decide

/-- SHA-384 of no bytes begins with the bytes 38 b0 60 a7 51 ac 96 38 (FIPS 180-4), the first lowest. -/
theorem test_sha384 : (sha384 idle 0)[0] = 0x3896AC51A760B038 := by decide +kernel

theorem witness_memory : Memory.wf base.mem ∧ Memory.wf (memWrite 0x1000 [1, 0, 2] base).mem ∧ Memory.wf State.reset.mem := by
  decide +kernel

end Sys2Proof.Tests
end

/-! SUPPORT and PROOF of O48: what an abort leaves of the step unit and of the job-fatal record, what an occurrence does to
its page and to the record, and when the step unit's rows act. -/

namespace Sys2Proof.Machine

/-! ## What stops the engines leaves the step unit and the job-fatal record alone -/

/-- The step unit and the event unit, which hold all that R23, R28 and R328 speak of. -/
def State.stepEvt (s : State) : Step × Evt := (s.step, s.evt)

/-- A fold whose every step keeps both keeps both. -/
theorem foldl_stepEvt {α : Type} (f : State → α → State) (h : ∀ s x, (f s x).stepEvt = s.stepEvt) (l : List α) (s : State) :
    (l.foldl f s).stepEvt = s.stepEvt :=
  List.foldlRecOn l f (motive := fun b => b.stepEvt = s.stepEvt) rfl fun b hb x _ => (h b x).trans hb

@[simp] theorem modJob_stepEvt (id : Nat) (f : Job → Job) (s : State) : (modJob id f s).stepEvt = s.stepEvt := rfl
@[simp] theorem dropJob_stepEvt (id : Nat) (s : State) : (dropJob id s).stepEvt = s.stepEvt := rfl
@[simp] theorem dropReqs_stepEvt (id : Nat) (k : LineReq → Bool) (s : State) : (dropReqs id k s).stepEvt = s.stepEvt := rfl
@[simp] theorem dropXfers_stepEvt (mine : Holder → Bool) (s : State) : (dropXfers mine s).stepEvt = s.stepEvt := rfl
@[simp] theorem dropFlits_stepEvt (id : Nat) (s : State) : (dropFlits id s).stepEvt = s.stepEvt := rfl
@[simp] theorem modCtx_stepEvt (n c : Fin 4) (f : Ctx → Ctx) (s : State) : (modCtx n c f s).stepEvt = s.stepEvt := rfl
@[simp] theorem modRing_stepEvt (l : Fin 64) (f : Ring → Ring) (s : State) : (modRing l f s).stepEvt = s.stepEvt := rfl
@[simp] theorem setSlot_stepEvt (l : Fin 64) (k : Nat) (f : Slot → Slot) (s : State) :
    (setSlot l k f s).stepEvt = s.stepEvt := rfl
@[simp] theorem recordStartRow_stepEvt (e : QEntry) (row cause : Nat) (s : State) :
    (recordStartRow e row cause s).stepEvt = s.stepEvt := rfl

@[simp] theorem release_stepEvt (id : Nat) (ok : Bool) (s : State) : (release id ok s).stepEvt = s.stepEvt := by
  unfold release
  split
  · rfl
  · dsimp only
    split <;> rfl

@[simp] theorem releaseAll_stepEvt (ids : List Nat) (ok : Bool) (s : State) :
    (releaseAll ids ok s).stepEvt = s.stepEvt :=
  foldl_stepEvt _ (fun s i => release_stepEvt i ok s) ids s

@[simp] theorem discardQueues_stepEvt (s : State) : (discardQueues s).stepEvt = s.stepEvt :=
  releaseAll_stepEvt _ _ s

@[simp] theorem retireMove_stepEvt (e : QEntry) (s : State) : (retireMove e s).stepEvt = s.stepEvt := by
  simp only [retireMove]
  split <;> rfl

@[simp] theorem reapMove_stepEvt (id : Nat) (s : State) : (reapMove id s).stepEvt = s.stepEvt := by
  unfold reapMove
  (repeat' split) <;> simp

theorem stopRows_stepEvt (j : Job) (s : State) : (stopRows j s).2.stepEvt = s.stepEvt := by
  simp only [stopRows]
  (repeat' split) <;> simp

@[simp] theorem stopTiles_stepEvt (s : State) : (stopTiles s).stepEvt = s.stepEvt := by
  refine foldl_stepEvt _ (fun s j => ?_) s.jobs s
  have rows := stopRows_stepEvt j s
  split
  · rfl
  · split
    · rfl
    · split <;> rename_i stopped <;> rw [stopped] at rows <;> simpa using rows

@[simp] theorem reapTile_stepEvt (id : Nat) (s : State) : (reapTile id s).stepEvt = s.stepEvt := by
  unfold reapTile
  (repeat' split) <;> simp

@[simp] theorem dropBlock_stepEvt (g : Gen) (s : State) : (dropBlock g s).stepEvt = s.stepEvt := by
  simp only [dropBlock]
  (repeat' split) <;> simp

@[simp] theorem cancelCtx_stepEvt (n c : Fin 4) (s : State) : (cancelCtx n c s).stepEvt = s.stepEvt := by
  unfold cancelCtx
  dsimp only
  split
  · rfl
  · refine (foldl_stepEvt _ (fun s t => by simp) _ _).trans ?_
    split <;> simp

@[simp] theorem cancelAll_stepEvt (s : State) : (cancelAll s).stepEvt = s.stepEvt := by
  unfold cancelAll
  generalize allCtx = contexts
  exact foldl_stepEvt _ (fun s nc => cancelCtx_stepEvt nc.1 nc.2 s) contexts s

@[simp] theorem reapLanding_stepEvt (l : Fin 64) (s : State) : (reapLanding l s).stepEvt = s.stepEvt := by
  unfold reapLanding
  (repeat' split) <;> simp

@[simp] theorem stopLandings_stepEvt (s : State) : (stopLandings s).stepEvt = s.stepEvt := by
  refine foldl_stepEvt _ (fun s l => ?_) (List.finRange 64) s
  split
  · rfl
  · split <;> simp

/-- The engines' stop of R29 and R69 reaches neither the step unit nor the job-fatal record. -/
@[simp] theorem stopEngines_stepEvt (s : State) : (stopEngines s).stepEvt = s.stepEvt := by
  simp [stopEngines]

/-! ## Occurrences and the job-fatal record -/

@[simp] theorem State.shiftSrc_valid (s : State) (p : Page) (k : Nat) : (s.shiftSrc p k).evt.valid = s.evt.valid := by
  unfold State.shiftSrc
  split <;> rfl

@[simp] theorem State.hdrOf_setHdr_same (s : State) (p : Page) (h : PageHdr) : (s.setHdr p h).hdrOf p = h := by
  simp [State.hdrOf, State.setHdr]

@[simp] theorem State.hdrOf_noteSet (s : State) (p q : Page) (b : Nat) : (s.noteSet p b).hdrOf q = s.hdrOf q := rfl

@[simp] theorem State.hdrOf_shiftSrc (s : State) (p q : Page) (k : Nat) : (s.shiftSrc p k).hdrOf q = s.hdrOf q := by
  simp [State.hdrOf]

@[simp] theorem countEvt_valid (p : Page) (b : Nat) (s : State) : (countEvt p b s).evt.valid = s.evt.valid := by
  simp [countEvt]

/-- An occurrence sets its flag. -/
theorem countEvt_flag (p : Page) (b : Nat) (s : State) :
    ((countEvt p b s).hdrOf p).evt = (s.hdrOf p).evt ||| BitVec.ofNat 32 (2 ^ b) := by
  simp [countEvt]

/-- The log is no part of the job-fatal record. -/
@[simp] theorem logEvt_evt (p : Page) (b : Nat) (log : BitVec 64) (s : State) :
    (logEvt p b log s).evt = (countEvt p b s).evt := by
  simp only [logEvt]
  split <;> simp

theorem logEvt_flag (p : Page) (b : Nat) (log : BitVec 64) (s : State) :
    ((logEvt p b log s).hdrOf p).evt = (s.hdrOf p).evt ||| BitVec.ofNat 32 (2 ^ b) := by
  simp only [logEvt]
  split <;> simp [countEvt_flag]

/-- After a job-fatal event a record is held: the new one, or the one that it does not replace (R328). -/
@[simp] theorem jobFatal_valid (p : Page) (c : Nat) (q : BitVec 32) (s : State) : (jobFatal p c q s).evt.valid = true := by
  simp only [jobFatal]
  split
  · rfl
  · rename_i keeps
    have held : s.evt.valid = true := by simp_all [State.fatalWins]
    exact held

/-- The first job-fatal event writes the record. -/
theorem jobFatal_record {s : State} (h : s.evt.valid = false) (p : Page) (c : Nat) (q : BitVec 32) :
    let e := (jobFatal p c q s).evt
    e.valid = true ∧ e.code = BitVec.ofNat 8 c ∧ e.page = BitVec.ofNat 6 p.slot.val ∧ e.tIndex = s.step.index ∧
      e.tMtime = s.step.mtime := by
  simp [jobFatal, State.fatalWins, h]

@[simp] theorem jobFatal_overrun (p : Page) (c : Nat) (q : BitVec 32) (s : State) :
    (jobFatal p c q s).step.overrun = s.step.overrun := rfl

@[simp] theorem jobEvent_overrun (p : Page) (b c d : Nat) (s : State) :
    (jobEvent p b c d s).step.overrun = s.step.overrun := by
  simp [jobEvent]

@[simp] theorem jobEvent_valid (p : Page) (b c d : Nat) (s : State) : (jobEvent p b c d s).evt.valid = true := by
  simp [jobEvent]

@[simp] theorem jobEvent_ush (p : Page) (b c d : Nat) (s : State) : (jobEvent p b c d s).ush = s.ush := by
  simp [jobEvent]

@[simp] theorem jobEvent_vec (p : Page) (b c d : Nat) (s : State) : (jobEvent p b c d s).vec = s.vec := by
  simp [jobEvent]

/-- A job event sets its flag. -/
theorem jobEvent_flag (p : Page) (b c d : Nat) (s : State) :
    ((jobEvent p b c d s).hdrOf p).evt = (s.hdrOf p).evt ||| BitVec.ofNat 32 (2 ^ b) :=
  logEvt_flag p b _ s

/-- The first job event of a job is what its record names (R328). -/
theorem jobEvent_record {s : State} (h : s.evt.valid = false) (p : Page) (b c d : Nat) :
    let e := (jobEvent p b c d s).evt
    e.valid = true ∧ e.code = BitVec.ofNat 8 c ∧ e.page = BitVec.ofNat 6 p.slot.val ∧ e.tIndex = s.step.index ∧
      e.tMtime = s.step.mtime := by
  have none_held : (logEvt p b (defaultLog c d 0) s).evt.valid = false := by simpa using h
  simpa [jobEvent] using jobFatal_record none_held p c ((logEvt p b (defaultLog c d 0) s).seqOf p b)

/-- What a task abort changes before it counts TASK_ABORT leaves the step unit and the record as they were. -/
theorem taskAbort_eq_countEvt (s : State) : ∃ s', taskAbort s = countEvt .ush 2 s' ∧ s'.stepEvt = s.stepEvt :=
  ⟨_, rfl, (stopEngines_stepEvt _).trans (releaseAll_stepEvt _ _ s)⟩

/-- A task abort leaves the step unit alone and a held record held. -/
theorem taskAbort_frame (s : State) : (taskAbort s).step = s.step ∧ (taskAbort s).evt.valid = s.evt.valid := by
  obtain ⟨s', aborted, kept⟩ := taskAbort_eq_countEvt s
  obtain ⟨step, evt⟩ := Prod.mk.inj kept
  simp [aborted, step, evt]

/-! ## The overrun (R28) -/

/-- A step is open whose step-ready is still low at L + G − A + 1, and which has raised no overrun yet. -/
def State.overrunDue (s : State) : Prop :=
  s.stepOpen = true ∧ s.pwr.coolStopped = false ∧ s.step.rdy = false ∧ s.step.overrun = false ∧
    s.step.len.toNat + s.step.guard.toNat + 1 ≤ s.step.mtime.toNat + s.step.lead.toNat

/-- `s` once its open step has overrun: no later cycle of the step raises it again. -/
def State.markOverrun (s : State) : State := { s with step := { s.step with overrun := true } }

/-- Before its time, or where it is not due, the overrun changes nothing. -/
theorem overrun_of_not_due {s : State} (h : ¬ s.overrunDue) : overrun s = s := by
  unfold overrun
  exact if_neg fun due => h (by simpa [State.overrunDue, and_assoc] using due)

@[simp] theorem markOverrun_overrun (s : State) : s.markOverrun.step.overrun = true := rfl

/-- A due overrun that no access waiting on a tag joins is a job event. -/
theorem overrun_of_no_hazard {s : State} (h : s.overrunDue) (no_hazard : s.markOverrun.hazard? = none) :
    overrun s = jobEvent .step 0 0x20 0 s.markOverrun := by
  unfold overrun
  rw [if_pos (by simpa [State.overrunDue, and_assoc] using h)]
  dsimp only
  split
  · rfl
  · rename_i found
    exact absurd (no_hazard.symm.trans found) (by simp)

/-- Beside an access that waits on a tag it comes after SLOT_HAZARD, and aborts a running task (R213). -/
theorem overrun_of_hazard {s : State} (h : s.overrunDue) {g : Fin 64 × Nat × Bool}
    (hazard : s.markOverrun.hazard? = some g) :
    let s' := jobEvent .step 0 0x20 0 (slotHazard g s.markOverrun)
    overrun s = if s'.ush.task = .running then taskAbort s' else s' := by
  unfold overrun
  rw [if_pos (by simpa [State.overrunDue, and_assoc] using h)]
  dsimp only
  split
  · rename_i none_found
    exact absurd (hazard.symm.trans none_found) (by simp)
  · rename_i found
    cases hazard.symm.trans found
    rfl

theorem hazard_of_no_tagWaits {s : State} (quiet : s.tagWaits = []) : s.markOverrun.hazard? = none := by
  have same : s.markOverrun.tagWaits = s.tagWaits := rfl
  simp [State.hazard?, same, quiet]

@[simp] theorem slotHazard_overrun (g : Fin 64 × Nat × Bool) (s : State) :
    (slotHazard g s).step.overrun = s.step.overrun := by
  simp [slotHazard]

/-- A due overrun is noted, so that it comes once, and is job-fatal. -/
theorem overrun_noted {s : State} (h : s.overrunDue) :
    (overrun s).step.overrun = true ∧ (overrun s).evt.valid = true := by
  cases hazard : s.markOverrun.hazard? with
  | none => simp [overrun_of_no_hazard h hazard]
  | some g =>
    rw [overrun_of_hazard h hazard]
    split
    · simp [taskAbort_frame]
    · simp

/-! ## Step-ready, the late limit and the clock restart -/

/-- Bit `i` of a word, as arithmetic says it. -/
theorem bitAt_eq_true_iff {w : Nat} (v : BitVec w) (i : Nat) : bitAt v i = true ↔ v.toNat / 2 ^ i % 2 = 1 := by
  simp [bitAt, BitVec.getLsbD, Nat.testBit_eq_decide_div_mod_eq]

theorem threadsEnded_iff (s : State) : s.threadsEnded = true ↔
    ∀ t : Fin 16, s.step.mask.toNat / 2 ^ t.val % 2 = 1 → s.step.ended.toNat / 2 ^ t.val % 2 = 1 ∨
      (s.thread t).st = .halted ∨ (s.thread t).st = .free := by
  simp only [State.threadsEnded, allThreads, List.all_eq_true, List.mem_finRange, true_imp_iff, ← bitAt_eq_true_iff]
  refine forall_congr' fun t => ?_
  cases bitAt s.step.mask t.val
  · simp
  · cases (s.thread t).st <;> simp

/-- The conditions of R23 that `stepDone` stands for. -/
theorem stepDone_conditions {s : State} (h : s.stepDone = true) :
    s.threadsEnded = true ∧ s.queuesEmpty = true ∧ s.range = [] ∧ ∀ l, (s.ring l).xfer = none := by
  simp only [State.stepDone, State.enginesIdle, State.movesIdle, Bool.and_eq_true, List.isEmpty_iff, List.all_eq_true,
    Option.isNone_iff_eq_none] at h
  obtain ⟨⟨⟨threads, engines⟩, range⟩, moves⟩ := h
  exact ⟨threads, by tauto, range, fun l => moves.1.1 _ (by simp [State.ring])⟩

/-- Step-ready rises in the open step once its conditions hold, and the step is READY. -/
theorem readyRise_of_run {s : State} (clocked : s.clocked = true) (enabled : s.step.enable = true)
    (low : s.step.rdy = false) (no_record : s.evt.valid = false) (run : s.step.phase = .run) (after_c0 : s.step.cycle ≠ 0)
    (done : s.stepDone = true) : readyRise s =
      { s with step := { s.step with rdy := true, rdyAt := some s.step.mtime.toNat, phase := .ready } } := by
  have rises : (s.clocked && s.step.enable && !s.step.rdy && !s.evt.valid && !s.stopHeld &&
      (s.stepClosed || s.step.cycle != 0) && s.stepDone) = true := by
    simpa [clocked, enabled, low, no_record, done, State.stopHeld, State.stepClosed, run] using after_c0
  rw [readyRise, if_pos rises]
  simp [State.stepOpen, State.stepClosed, run]

/-- Step-ready stays as it is while a condition of R23 fails, in c0, and while a job-fatal record is held (R329). -/
theorem readyRise_of_held {s : State}
    (h : s.stepDone = false ∨ s.step.cycle = 0 ∧ s.stepOpen = true ∨ s.evt.valid = true) : readyRise s = s := by
  unfold readyRise
  rcases h with waits | ⟨c0, opened⟩ | record
  · simp [waits]
  · have closed : s.stepClosed = false := by simpa [State.stepOpen] using opened
    simp [c0, closed]
  · simp [record]

/-- Past L − A a running step without step-ready is LATE. -/
theorem lateLimit_of_run {s : State} (run : s.step.phase = .run) (alive : s.pwr.coolStopped = false)
    (low : s.step.rdy = false) (late : s.step.len.toNat < s.step.mtime.toNat + s.step.lead.toNat) :
    lateLimit s = { s with step := { s.step with phase := .late } } := by
  simp [lateLimit, run, alive, low, late]

/-- The clock restarts at the point that R313 puts in force, and c0 finds step-ready low. -/
theorem clockRestart_of_ended {s : State} (switching : s.pwr.switching = true) (ended : s.pwr.switchLeft = 0)
    (alive : s.pwr.coolStopped = false) : clockRestart s =
      relevel { s with
        pwr := { s.pwr with switching := false, op := s.pointWanted }, step := { s.step with rdy := false } } := by
  simp [clockRestart, switching, ended, alive]

/-! ## The rows of the step unit -/

theorem exec_stepReadyRise (s : State) : exec .stepReadyRise s = .next (readyRise s) := rfl
theorem exec_stepLateLimit (s : State) : exec .stepLateLimit s = .next (lateLimit s) := rfl
theorem exec_stepOverrun (s : State) : exec .stepOverrun s = .next (overrun s) := rfl
theorem exec_opChangeClockRestart (s : State) : exec .opChangeClockRestart s = .next (clockRestart s) := rfl

theorem pointOf_mode (s : State) : Claims.pointOf s s.step.mode = s.pointWanted := by
  unfold Claims.pointOf State.pointWanted
  cases s.step.mode <;> simp

end Sys2Proof.Machine

namespace Sys2Proof

open Sys2Proof.Machine

/-- Settles O48: a clause for each row of the step unit, by what the row says when it acts and when it does not. -/
theorem stepProgress : Obligations.StepProgress := by
  intro s
  refine ⟨fun clocked enabled low no_record run after_c0 done => ?rises, fun held => ?stays, fun done => ?conditions,
    fun run alive low late => ?late, fun opened alive low fresh due quiet => ?overruns,
    fun opened alive low fresh due => ?fatal, fun early => ?early, fun switching ended alive => ?restarts⟩
  case rises => rw [exec_stepReadyRise, readyRise_of_run clocked enabled low no_record run after_c0 done]
  case stays => rw [exec_stepReadyRise, readyRise_of_held held]
  case conditions =>
    obtain ⟨threads, queues, range, moves⟩ := stepDone_conditions done
    exact ⟨(threadsEnded_iff s).mp threads, queues, range, moves⟩
  case late => rw [exec_stepLateLimit, lateLimit_of_run run alive low late]
  case overruns =>
    rw [exec_stepOverrun, overrun_of_no_hazard ⟨opened, alive, low, fresh, due⟩ (hazard_of_no_tagWaits quiet)]
    refine ⟨_, rfl, jobEvent_overrun .., ?flag, fun no_record => ?record, jobEvent_mem .., jobEvent_ush .., jobEvent_vec ..⟩
    case flag =>
      rw [jobEvent_flag, BitVec.toNat_or]
      simp [Nat.or_mod_two_eq_one]
    case record => exact jobEvent_record (s := s.markOverrun) no_record .step 0 0x20 0
  case fatal => exact ⟨_, exec_stepOverrun s, overrun_noted ⟨opened, alive, low, fresh, due⟩⟩
  case early =>
    have not_due : ¬ s.overrunDue := fun ⟨_, alive, low, _, due⟩ => by
      rcases early with ready | early | stopped
      · simp [ready] at low
      · omega
      · simp [stopped] at alive
    rw [exec_stepOverrun, overrun_of_not_due not_due]
  case restarts => rw [exec_opChangeClockRestart, clockRestart_of_ended switching ended alive, pointOf_mode]

end Sys2Proof

/-! SUPPORT and PROOF of O54: bytes and fields of words, what an abort leaves of Usher, the port's grants, register writes of an
originator who may write the whole register, and the firmware's mailbox commands. -/

namespace Sys2Proof.Machine

/-! ## Bytes and the numbers they hold (R5) -/

theorem leNat_lt (bs : List (BitVec 8)) : leNat bs < 256 ^ bs.length := by
  induction bs with
  | nil => simp [leNat]
  | cons b bs ih =>
    have byte : b.toNat < 256 := b.isLt
    simp only [leNat, List.length_cons, Nat.pow_succ]
    omega

/-- Byte `i` of a number in little-endian order. -/
theorem leNat_byte (bs : List (BitVec 8)) (i : Nat) : leNat bs / 256 ^ i % 256 = (bs[i]?.getD 0).toNat := by
  induction bs generalizing i with
  | nil => simp [leNat]
  | cons b bs ih =>
    have byte : b.toNat < 256 := b.isLt
    cases i with
    | zero => simp only [leNat, Nat.pow_zero, Nat.div_one, List.getElem?_cons_zero, Option.getD_some]; omega
    | succ i =>
      have rest : leNat (b :: bs) / 256 = leNat bs := by simp only [leNat]; omega
      rw [Nat.pow_succ', ← Nat.div_div_eq_div_mul, rest, ih, List.getElem?_cons_succ]

@[simp] theorem leBytes_length (v n : Nat) : (leBytes v n).length = n := by simp [leBytes]

theorem leNat_leBytes (v n : Nat) : leNat (leBytes v n) = v % 256 ^ n := by
  induction n generalizing v with
  | zero => simp [leBytes, leNat, Nat.mod_one]
  | succ n ih =>
    have split : leBytes v (n + 1) = BitVec.ofNat 8 v :: leBytes (v / 256) n := by
      simp [leBytes, List.range_succ_eq_map, Function.comp_def, Nat.pow_succ', Nat.div_div_eq_div_mul]
    rw [split, leNat, ih, Nat.pow_succ', Nat.mod_mul]
    simp

/-- Byte `i` of a word, as `leBytes` lists it. -/
theorem leBytes_toNat_getElem (v : BitVec 64) {i : Nat} (h : i < (leBytes v.toNat 8).length) :
    (leBytes v.toNat 8)[i] = v.extractLsb' (8 * i) 8 := by
  have power : 256 ^ i = 2 ^ (8 * i) := by rw [Nat.pow_mul]
  simp [leBytes, BitVec.extractLsb', Nat.shiftRight_eq_div_pow, power]

@[simp] theorem memRead_length (s : State) (a n : Nat) : (memRead s a n).length = n := by simp [memRead]

/-- What is loaded depends on memory alone. -/
theorem memNat_of_mem {s s' : State} (same : s'.mem = s.mem) (a n : Nat) : memNat s' a n = memNat s a n := by
  simp only [memNat, memRead, memByte, same]

/-- A loaded doubleword holds the eight bytes of memory at its address. -/
theorem extractLsb'_memNat (s : State) (a : Nat) {i : Nat} (h : i < 8) :
    (BitVec.ofNat 64 (memNat s a 8)).extractLsb' (8 * i) 8 = memByte s (a + i) := by
  have fits : memNat s a 8 < 2 ^ 64 := by simpa [memNat] using leNat_lt (memRead s a 8)
  have power : 2 ^ (8 * i) = 256 ^ i := by rw [Nat.pow_mul]
  apply BitVec.eq_of_toNat_eq
  rw [BitVec.extractLsb'_toNat, BitVec.toNat_ofNat, Nat.mod_eq_of_lt fits, Nat.shiftRight_eq_div_pow, power, memNat]
  refine (leNat_byte _ i).trans ?_
  simp [memRead, h]

/-! ## Memory after a store of consecutive bytes -/

theorem mem_cellsAt {a : Nat} {bytes : List (BitVec 8)} {c : Host.Cell} (h : c ∈ cellsAt a bytes) :
    a ≤ c.1 ∧ c.1 < a + bytes.length := by
  obtain ⟨i, lt, rfl⟩ := List.mem_mapIdx.mp h
  simpa using lt

/-- A stored byte reads as it was stored. -/
theorem memByte_memWrite_at {s : State} (wf : Memory.wf s.mem) (a : Nat) (bytes : List (BitVec 8)) {i : Nat}
    (h : i < bytes.length) : memByte (memWrite a bytes s) (a + i) = bytes[i] := by
  have distinct : (cellsAt a bytes).Pairwise fun x y => x.1 ≠ y.1 := by
    simp only [cellsAt, List.pairwise_iff_getElem, List.getElem_mapIdx]
    omega
  have listed : (a + i, bytes[i]) ∈ cellsAt a bytes := List.mem_mapIdx.mpr ⟨i, h, rfl⟩
  exact memStore_get _ _ wf distinct listed

/-- A byte outside the store keeps its value. -/
theorem memByte_memWrite_frame {s : State} (wf : Memory.wf s.mem) {a : Nat} {bytes : List (BitVec 8)} {k : Nat}
    (h : k < a ∨ a + bytes.length ≤ k) : memByte (memWrite a bytes s) k = memByte s k :=
  memStore_frame _ _ wf k fun c hc => by have := mem_cellsAt hc; omega

/-- A read inside a store finds that part of what was stored. -/
theorem memRead_memWrite {s : State} (wf : Memory.wf s.mem) (a : Nat) (bytes : List (BitVec 8)) {off n : Nat}
    (h : off + n ≤ bytes.length) : memRead (memWrite a bytes s) (a + off) n = (bytes.drop off).take n := by
  have length : (memRead (memWrite a bytes s) (a + off) n).length = ((bytes.drop off).take n).length := by
    rw [memRead_length, List.length_take, List.length_drop]
    omega
  refine List.ext_getElem length fun i lt _ => ?_
  have inside : off + i < bytes.length := by
    rw [memRead_length] at lt
    omega
  simpa [memRead, Nat.add_assoc] using memByte_memWrite_at wf a bytes inside

/-- The doubleword `v`, stored at `a`, lies there byte by byte, and no other byte changes. -/
theorem memWrite_doubleword {s s' : State} (wf : Memory.wf s.mem) {a : Nat} {v : BitVec 64}
    (stored : s'.mem = (memWrite a (leBytes v.toNat 8) s).mem) :
    (∀ i < 8, memByte s' (a + i) = v.extractLsb' (8 * i) 8) ∧
    ∀ k, (k < a ∨ a + 8 ≤ k) → memByte s' k = memByte s k := by
  have reads (k : Nat) : memByte s' k = memByte (memWrite a (leBytes v.toNat 8) s) k := by simp only [memByte, stored]
  refine ⟨fun i lt => ?_, fun k out => ?_⟩
  · rw [reads, memByte_memWrite_at wf a _ (by simpa using lt), leBytes_toNat_getElem]
  · rw [reads, memByte_memWrite_frame wf (by simpa using out)]

/-- Of parts of `n` elements each, laid end to end, part `i` begins at element `n * i`. -/
theorem take_drop_flatMap {α β : Type} {f : α → List β} {n : Nat} (len : ∀ x, (f x).length = n) {l : List α} {i : Nat}
    {x : α} (h : l[i]? = some x) : ((l.flatMap f).drop (n * i)).take n = f x := by
  induction l generalizing i with
  | nil => simp at h
  | cons y l ih =>
    cases i with
    | zero =>
      obtain rfl : y = x := by simpa using h
      simp [← len y]
    | succ i =>
      have later : ((l.flatMap f).drop (n * i)).take n = f x := ih (by simpa using h)
      have skip : n * (i + 1) = (f y).length + n * i := by rw [len, Nat.mul_succ, Nat.add_comm]
      have past : (f y).drop (n * (i + 1)) = [] := List.drop_eq_nil_of_le (by omega)
      have rest : n * (i + 1) - (f y).length = n * i := by omega
      rw [List.flatMap_cons, List.drop_append, past, rest, List.nil_append, later]

/-! ## Fields of a register's word -/

theorem extractLsb'_eq_ofNat {w : Nat} (v : BitVec w) (lo len : Nat) :
    v.extractLsb' lo len = BitVec.ofNat len (v.toNat / 2 ^ lo) := by
  simp [BitVec.extractLsb', Nat.shiftRight_eq_div_pow]

theorem fld_eq_toNat_extractLsb' {w : Nat} (v : BitVec w) (lo len : Nat) : fld v lo len = (v.extractLsb' lo len).toNat := by
  simp [fld, BitVec.extractLsb']

/-- A mask that holds a whole field leaves it as it is. -/
theorem extractLsb'_and_mask {v m : BitVec 64} {lo len : Nat} (h : m.extractLsb' lo len = BitVec.allOnes len) :
    (v &&& m).extractLsb' lo len = v.extractLsb' lo len := by
  rw [BitVec.extractLsb'_and, h, BitVec.and_allOnes]

/-- A field put above the bits in use adds to the word. -/
theorem toNat_or_put {x : BitVec 64} {lo n : Nat} (low : x.toNat < 2 ^ lo) (fits : 2 ^ lo * n < 2 ^ 64) :
    (x ||| put lo n).toNat = x.toNat + 2 ^ lo * n := by
  have high : (put lo n).toNat = 2 ^ lo * n := by
    rw [put, BitVec.toNat_ofNat, Nat.shiftLeft_eq, Nat.mul_comm, Nat.mod_eq_of_lt fits]
  rw [BitVec.toNat_or, high, Nat.or_comm, ← Nat.two_pow_add_eq_or_of_lt low, Nat.add_comm]

theorem toNat_put_zero {n : Nat} (fits : n < 2 ^ 64) : (put 0 n).toNat = n := by
  simpa [put] using fits

/-! ## What an abort leaves of Usher (R69) -/

@[simp] theorem dropXfers_ush (mine : Holder → Bool) (s : State) : (dropXfers mine s).ush = s.ush := rfl
@[simp] theorem dropFlits_ush (id : Nat) (s : State) : (dropFlits id s).ush = s.ush := rfl
@[simp] theorem recordStartRow_ush (e : QEntry) (row cause : Nat) (s : State) :
    (recordStartRow e row cause s).ush = s.ush := rfl

/-- A fold whose every step leaves Usher alone leaves it alone. -/
theorem foldl_ush {α : Type} (f : State → α → State) (h : ∀ s x, (f s x).ush = s.ush) (l : List α) (s : State) :
    (l.foldl f s).ush = s.ush :=
  List.foldlRecOn l f (motive := fun b => b.ush = s.ush) rfl fun b hb x _ => (h b x).trans hb

@[simp] theorem release_ush (id : Nat) (ok : Bool) (s : State) : (release id ok s).ush = s.ush := by
  unfold release
  split
  · rfl
  · dsimp only
    split <;> rfl

@[simp] theorem releaseAll_ush (ids : List Nat) (ok : Bool) (s : State) : (releaseAll ids ok s).ush = s.ush :=
  foldl_ush _ (fun s i => release_ush i ok s) ids s

@[simp] theorem retireMove_ush (e : QEntry) (s : State) : (retireMove e s).ush = s.ush := by
  simp only [retireMove]
  split <;> rfl

@[simp] theorem reapMove_ush (id : Nat) (s : State) : (reapMove id s).ush = s.ush := by
  unfold reapMove
  (repeat' split) <;> simp

theorem stopRows_ush (j : Job) (s : State) : (stopRows j s).2.ush = s.ush := by
  simp only [stopRows]
  (repeat' split) <;> simp

@[simp] theorem stopTiles_ush (s : State) : (stopTiles s).ush = s.ush := by
  refine foldl_ush _ (fun s j => ?_) s.jobs s
  have rows := stopRows_ush j s
  split
  · rfl
  · split
    · rfl
    · split <;> rename_i stopped <;> rw [stopped] at rows <;> simpa using rows

@[simp] theorem reapTile_ush (id : Nat) (s : State) : (reapTile id s).ush = s.ush := by
  unfold reapTile
  (repeat' split) <;> simp

@[simp] theorem dropBlock_ush (g : Gen) (s : State) : (dropBlock g s).ush = s.ush := by
  simp only [dropBlock]
  (repeat' split) <;> simp

@[simp] theorem cancelCtx_ush (n c : Fin 4) (s : State) : (cancelCtx n c s).ush = s.ush := by
  unfold cancelCtx
  dsimp only
  split
  · rfl
  · refine (foldl_ush _ (fun s t => by simp) _ _).trans ?_
    split <;> simp

@[simp] theorem cancelAll_ush (s : State) : (cancelAll s).ush = s.ush := by
  unfold cancelAll
  generalize allCtx = contexts
  exact foldl_ush _ (fun s nc => cancelCtx_ush nc.1 nc.2 s) contexts s

@[simp] theorem reapLanding_ush (l : Fin 64) (s : State) : (reapLanding l s).ush = s.ush := by
  unfold reapLanding
  (repeat' split) <;> simp

@[simp] theorem stopLandings_ush (s : State) : (stopLandings s).ush = s.ush := by
  refine foldl_ush _ (fun s l => ?_) (List.finRange 64) s
  split
  · rfl
  · split <;> simp

/-- Stopping the engines empties their queues, and leaves the rest of Usher alone. -/
theorem stopEngines_ush (s : State) :
    (stopEngines s).ush = { s.ush with queues := Vector.replicate 8 ⟨[], none⟩ } := by
  simp [stopEngines, discardQueues]

/-- The line that no code corrects aborts a running task (R206). -/
theorem memAbort_task_of_running {s : State} (running : s.ush.task = .running) (p : Page) (code : Nat) (seq : BitVec 32) :
    (memAbort p code seq s).ush.task = .aborted := by
  have alive : s.ush.task ≠ .aborted := by simp [running]
  simp [memAbort, abortFor, running, taskAbort, stopEngines_ush]

/-! ## The port's answer -/

@[simp] theorem respond_rstat (st : MgStat) (s : State) : (respond st s).mgmt.rstat = st := rfl
@[simp] theorem respond_ush (st : MgStat) (s : State) : (respond st s).ush = s.ush := rfl
@[simp] theorem respond_vec (st : MgStat) (s : State) : (respond st s).vec = s.vec := rfl
@[simp] theorem respondData_rstat (v : BitVec 64) (s : State) : (respondData v s).mgmt.rstat = .ok := rfl
@[simp] theorem respondData_rdata (v : BitVec 64) (s : State) : (respondData v s).mgmt.rdata = v := rfl
@[simp] theorem respondData_ush (v : BitVec 64) (s : State) : (respondData v s).ush = s.ush := rfl
@[simp] theorem respondData_vec (v : BitVec 64) (s : State) : (respondData v s).vec = s.vec := rfl
@[simp] theorem respondData_granted (v : BitVec 64) (s : State) : (respondData v s).granted = s.granted := rfl

@[simp] theorem memEvent_ush (a : Nat) (u : MemUnit) (words : Nat) (off : Bool) (s : State) :
    (memEvent a u words off s).ush = s.ush := by
  simp [memEvent]

/-! ## A grant of the port (R201, R204 to R206, R358) -/

/-- `s` once the bank of `a` has granted a management access, which the counters note. -/
def State.portGrant (s : State) (a : Nat) : State :=
  let u := modTier (tierOf a) (fun h => { h with mgmt := h.mgmt + 1 }) (useBank (bankIdx a) (s.askers (bankIdx a)) s)
  { u with mgmt := { u.mgmt with cntMem := u.mgmt.cntMem + 1 } }

/-- The energy of a line grant to the port (R317). -/
def State.portSpend (s : State) (a : Nat) : State := s.spend (.grant (unitCode .mgmt) (a ≥ Config.hallSize)) none 1

@[simp] theorem State.portSpend_mem (s : State) (a : Nat) : (s.portSpend a).mem = s.mem := rfl
@[simp] theorem State.portSpend_ush (s : State) (a : Nat) : (s.portSpend a).ush = s.ush := rfl
@[simp] theorem State.portSpend_vec (s : State) (a : Nat) : (s.portSpend a).vec = s.vec := rfl
@[simp] theorem State.portSpend_granted (s : State) (a : Nat) : (s.portSpend a).granted = s.granted := rfl

@[simp] theorem State.portGrant_mem (s : State) (a : Nat) : (s.portGrant a).mem = s.mem := by
  simp [State.portGrant, useBank]
@[simp] theorem State.portGrant_ush (s : State) (a : Nat) : (s.portGrant a).ush = s.ush := by
  simp [State.portGrant, useBank]
@[simp] theorem State.portGrant_vec (s : State) (a : Nat) : (s.portGrant a).vec = s.vec := by
  simp [State.portGrant, useBank]
@[simp] theorem State.portGrant_granted (s : State) (a : Nat) : (s.portGrant a).granted = bankIdx a :: s.granted := by
  simp [State.portGrant, useBank]
@[simp] theorem State.portGrant_jobs (s : State) (a : Nat) : (s.portGrant a).jobs = s.jobs := by
  simp [State.portGrant, useBank]
@[simp] theorem State.portGrant_access (s : State) (a : Nat) : (s.portGrant a).access = s.access := by
  simp [State.portGrant, useBank]
@[simp] theorem State.portGrant_rstat (s : State) (a : Nat) : (s.portGrant a).mgmt.rstat = s.mgmt.rstat := by
  simp [State.portGrant, useBank]

/-- The counters of a tier say nothing of its power states. -/
@[simp] theorem State.portGrant_powerAt (s : State) (a b : Nat) : (s.portGrant a).powerAt b = s.powerAt b := by
  unfold State.portGrant useBank
  cases tierOf a <;> cases tierOfBank (bankIdx a) <;> rfl

/-- The line request of a management access that a replay delays. -/
def portReq (id job a : Nat) (wr : Option (BitVec 64)) : LineReq :=
  ⟨id, job, 0, rankOf .mgmt, .mgmt, none, a, 8, mgmtCells a wr⟩

/-- `s` with the job of a management access that a replay delays. -/
def State.portJob (s : State) (a : Nat) (wr : Option (BitVec 64)) : State :=
  (modJob s.nextId (fun x => { x with left := 1 }) (addJob (.mgmt a wr) [] 0 none none s).2).fresh.2

@[simp] theorem State.portJob_mem (s : State) (a : Nat) (wr : Option (BitVec 64)) : (s.portJob a wr).mem = s.mem := rfl
@[simp] theorem State.portJob_mgmt (s : State) (a : Nat) (wr : Option (BitVec 64)) : (s.portJob a wr).mgmt = s.mgmt := rfl
@[simp] theorem State.portJob_access (s : State) (a : Nat) (wr : Option (BitVec 64)) : (s.portJob a wr).access = s.access := rfl
@[simp] theorem State.portJob_powerAt (s : State) (a b : Nat) (wr : Option (BitVec 64)) :
    (s.portJob a wr).powerAt b = s.powerAt b := rfl

/-- The job of the access is the last. -/
theorem State.portJob_kinds (s : State) (a : Nat) (wr : Option (BitVec 64)) :
    (s.portJob a wr).jobs.map (·.kind) = s.jobs.map (·.kind) ++ [.mgmt a wr] := by
  have same (id : Nat) (l : List Job) :
      (l.map fun j => if j.id = id then { j with left := 1 } else j).map (·.kind) = l.map (·.kind) := by
    rw [List.map_map]
    exact List.map_congr_left fun j _ => by simp only [Function.comp]; split <;> rfl
  refine (same s.nextId _).trans ?_
  simp [addJob]

/-- While the port has a job, later requests wait. -/
theorem mgmtBusy_of_kind {s : State} {a : Nat} {wr : Option (BitVec 64)} (h : .mgmt a wr ∈ s.jobs.map (·.kind)) :
    s.mgmtBusy = true := by
  obtain ⟨j, listed, kind⟩ := List.mem_map.mp h
  exact List.any_eq_true.mpr ⟨j, listed, by simp only [kind]⟩

/-- Where its word can be accessed, a request of the port gets its grant. -/
theorem mgmtMem_of_portWord {s : State} {a : Nat} (h : Claims.portWord s a) (wr : Option (BitVec 64)) (flagged : BitVec 10) :
    mgmtMem wr a flagged s = mgmtGranted wr a flagged s := by
  obtain ⟨ready, clocked, idle, sram, free, no_repair, on⟩ := h
  have alive : s.pwr.coolStopped = false := by
    simp only [State.clocked, Bool.and_eq_true, Bool.not_eq_true'] at clocked
    exact clocked.1
  have below : a + 8 ≤ 0x20000000 := by
    simp only [inSram, inHall, inLower, Bool.or_eq_true, Bool.and_eq_true, decide_eq_true_eq] at sram
    unfold Config.hallSize Config.lhallBase Config.tierSize at sram
    omega
  have no_page : inPages a 8 = false := by
    have under : ¬ Config.pageBase ≤ a := by unfold Config.pageBase; omega
    simp [inPages, under]
  have no_imem : inImem a 8 = false := by
    have under : ¬ Config.imemBase ≤ a := by unfold Config.imemBase; omega
    simp [inImem, under]
  simp [mgmtMem, no_page, ready, alive, idle, no_imem, sram, on, clocked, free, no_repair]

theorem powerAt_of_portWord {s : State} {a : Nat} (h : Claims.portWord s a) : s.powerAt a = .on := by
  obtain ⟨-, -, -, -, -, -, on⟩ := h
  exact on

section
variable {s : State} {a : Nat} (on : s.powerAt a = .on)
include on

theorem mgmtGranted_read_of_clean {flagged : BitVec 10} (clean : eccOf flagged = .clean) :
    mgmtGranted none a flagged s = respondData (BitVec.ofNat 64 (memNat s a 8)) ((s.portGrant a).portSpend a) := by
  have power : (s.portGrant a).powerAt a = .on := by simp [on]
  have same : memNat ((s.portGrant a).portSpend a) a 8 = memNat s a 8 := memNat_of_mem (by simp) a 8
  rw [← same]
  simp only [State.portGrant, State.portSpend] at power ⊢
  simp only [mgmtGranted, power, clean]

theorem mgmtGranted_write_of_clean (v : BitVec 64) {flagged : BitVec 10} (clean : eccOf flagged = .clean) :
    mgmtGranted (some v) a flagged s = respond .ok (memWrite a (leBytes v.toNat 8) ((s.portGrant a).portSpend a)) := by
  have power : (s.portGrant a).powerAt a = .on := by simp [on]
  simp only [State.portGrant, State.portSpend] at power ⊢
  simp only [mgmtGranted, power, clean]

theorem mgmtGranted_of_uncorrectable (wr : Option (BitVec 64)) {flagged : BitVec 10} {n : Nat}
    (lost : eccOf flagged = .uncorrectable n) :
    let u := memEvent a .mgmt n false ((s.portGrant a).portSpend a)
    mgmtGranted wr a flagged s = respond .uncorr (memAbort (tierPage a) 0x18 (u.seqOf (tierPage a) 0) u) := by
  have power : (s.portGrant a).powerAt a = .on := by simp [on]
  simp only [State.portGrant, State.portSpend] at power ⊢
  simp only [mgmtGranted, power, lost]

theorem mgmtGranted_of_flagged (wr : Option (BitVec 64)) {flagged : BitVec 10} (replay : eccOf flagged = .flagged) :
    ∃ id job, mgmtGranted wr a flagged s = grantReq (portReq id job a wr) 0 flagged ((s.portGrant a).portJob a wr) := by
  have power : (s.portGrant a).powerAt a = .on := by simp [on]
  refine ⟨(s.portGrant a).nextId + 1, (s.portGrant a).nextId, ?_⟩
  simp only [State.portGrant] at power ⊢
  simp only [mgmtGranted, power, replay]
  rfl

end

/-- Fewer than a line's cells are no whole line. -/
theorem portReq_whole (id job a : Nat) (wr : Option (BitVec 64)) : (portReq id job a wr).whole = false := by
  cases wr <;> simp [portReq, LineReq.whole, mgmtCells, cellsAt]

/-- The port's grant of a flagged line stores nothing: the access waits for its re-read, with the words that were flagged. -/
theorem grantReq_portReq_of_flagged {s : State} {id job a : Nat} {wr : Option (BitVec 64)} {flagged : BitVec 10}
    (on : s.powerAt a = .on) (replay : eccOf flagged = .flagged) (inner : Nat) :
    let s' := grantReq (portReq id job a wr) inner flagged s
    s'.mem = s.mem ∧ s'.mgmt = s.mgmt ∧ s'.jobs = s.jobs ∧
      ∃ x, s'.access = s.access ++ [x] ∧ x.ecc = .flagged ∧ x.words = flagged ∧ x.req = portReq id job a wr := by
  have whole := portReq_whole id job a wr
  have power : { s with reqs := s.reqs.filter fun x => x.id != (portReq id job a wr).id }.powerAt
      (portReq id job a wr).addr = .on := on
  have unit : (portReq id job a wr).unit = .mgmt := rfl
  simp [grantReq, power, whole, replay, noteGrant, unit, spendGrant]

/-- A line with one or two flagged words: the access goes on as a job of the port, behind which later requests wait. -/
theorem portMem_of_flagged {s : State} {a : Nat} (h : Claims.portWord s a) (wr : Option (BitVec 64)) {flagged : BitVec 10}
    (replay : eccOf flagged = .flagged) :
    let s' := mgmtMem wr a flagged s
    s'.mem = s.mem ∧ s'.mgmt.rstat = s.mgmt.rstat ∧ s'.mgmtBusy = true ∧
      s'.jobs.map (·.kind) = s.jobs.map (·.kind) ++ [.mgmt a wr] ∧
      ∃ x, s'.access = s.access ++ [x] ∧ x.ecc = .flagged ∧ x.words = flagged ∧ x.req.addr = a ∧ x.req.unit = .mgmt := by
  have on := powerAt_of_portWord h
  have power : ((s.portGrant a).portJob a wr).powerAt a = .on := by simp [on]
  obtain ⟨id, job, granted⟩ := mgmtGranted_of_flagged on wr replay
  obtain ⟨mem, mgmt, jobs, x, access, ecc, words, req⟩ :=
    grantReq_portReq_of_flagged (id := id) (job := job) (wr := wr) power replay 0
  have kinds := (s.portGrant a).portJob_kinds a wr
  rw [← granted, ← mgmtMem_of_portWord h] at mem mgmt jobs access
  rw [← jobs, State.portGrant_jobs] at kinds
  exact ⟨by simp [mem], by simp [mgmt], mgmtBusy_of_kind (a := a) (wr := wr) (by simp [kinds]), kinds,
    x, by simpa using access, ecc, words, by simp [req, portReq], by simp [req, portReq]⟩

/-! ## The rows of the port's memory accesses -/

theorem exec_mgmtMemRead (d : BitVec 29) (flagged : BitVec 10) (s : State) :
    exec (.mgmtMemRead d flagged) s = .next (mgmtMem none (d.toNat * 8) flagged s) := rfl
theorem exec_mgmtMemWrite (d : BitVec 29) (v : BitVec 64) (flagged : BitVec 10) (s : State) :
    exec (.mgmtMemWrite d v flagged) s = .next (mgmtMem (some v) (d.toNat * 8) flagged s) := rfl

/-- The flagged words of a line, counted as arithmetic says it. -/
theorem popWords_eq (w : BitVec 10) : popWords w = ((List.range 10).filter fun i => w.toNat / 2 ^ i % 2 = 1).length := by
  unfold popWords
  congr 2
  funext i
  rw [Bool.eq_iff_iff, bitAt_eq_true_iff, decide_eq_true_iff]

theorem eccOf_clean {w : BitVec 10} (h : popWords w = 0) : eccOf w = .clean := by
  simp [eccOf, h]
theorem eccOf_flagged {w : BitVec 10} (some_word : 1 ≤ popWords w) (two : popWords w ≤ 2) : eccOf w = .flagged := by
  simp [eccOf, two, Nat.ne_of_gt some_word]
theorem eccOf_uncorrectable {w : BitVec 10} (h : 3 ≤ popWords w) : eccOf w = .uncorrectable (popWords w) := by
  simp [eccOf, show popWords w ≠ 0 by omega, show ¬ popWords w ≤ 2 by omega]

/-- A read of a clean line answers the word, and stores nothing. -/
theorem portRead_of_clean {s : State} {a : Nat} (h : Claims.portWord s a) {flagged : BitVec 10}
    (clean : eccOf flagged = .clean) :
    let s' := mgmtMem none a flagged s
    s'.mem = s.mem ∧ s'.mgmt.rstat = .ok ∧ (∀ i < 8, (s'.mgmt.rdata).extractLsb' (8 * i) 8 = memByte s (a + i)) ∧
      s'.granted = bankIdx a :: s.granted ∧ s'.ush = s.ush ∧ s'.vec = s.vec := by
  rw [mgmtMem_of_portWord h, mgmtGranted_read_of_clean (powerAt_of_portWord h) clean]
  exact ⟨by simp, rfl, fun i lt => extractLsb'_memNat s a lt, by simp, by simp, by simp⟩

/-- A write of a clean line stores the word. -/
theorem portWrite_of_clean {s : State} {a : Nat} (h : Claims.portWord s a) (wf : Memory.wf s.mem) (v : BitVec 64)
    {flagged : BitVec 10} (clean : eccOf flagged = .clean) :
    let s' := mgmtMem (some v) a flagged s
    s'.mgmt.rstat = .ok ∧ (∀ i < 8, memByte s' (a + i) = v.extractLsb' (8 * i) 8) ∧
      (∀ k, (k < a ∨ a + 8 ≤ k) → memByte s' k = memByte s k) ∧ s'.ush = s.ush ∧ s'.vec = s.vec := by
  rw [mgmtMem_of_portWord h, mgmtGranted_write_of_clean (powerAt_of_portWord h) v clean]
  obtain ⟨stored, frame⟩ := memWrite_doubleword wf (a := a) (v := v)
    (s' := respond .ok (memWrite a (leBytes v.toNat 8) ((s.portGrant a).portSpend a))) (by simp [memWrite])
  exact ⟨rfl, stored, frame, by simp, by simp⟩

/-- A line that no code corrects keeps its bytes, and a running task is aborted. -/
theorem portMem_of_uncorrectable {s : State} {a : Nat} (h : Claims.portWord s a) (wr : Option (BitVec 64)) {flagged : BitVec 10}
    {n : Nat} (lost : eccOf flagged = .uncorrectable n) :
    let s' := mgmtMem wr a flagged s
    s'.mem = s.mem ∧ s'.mgmt.rstat = .uncorr ∧ (s.ush.task = .running → s'.ush.task = .aborted) := by
  rw [mgmtMem_of_portWord h, mgmtGranted_of_uncorrectable (powerAt_of_portWord h) wr lost]
  exact ⟨by simp, rfl, fun running => memAbort_task_of_running (by simp [running]) _ _ _⟩

/-- Behind an access in replay a request of the port waits. -/
theorem mgmtMem_of_busy {s : State} {a : Nat} (busy : s.mgmtBusy = true) (no_page : inPages a 8 = false)
    (ready : s.clu.phase = .ready) (alive : s.pwr.coolStopped = false) (wr : Option (BitVec 64)) (flagged : BitVec 10) :
    mgmtMem wr a flagged s = s := by
  simp [mgmtMem, busy, no_page, ready, alive]

/-- A write of instruction memory: a locked doubleword keeps its bytes (R346). -/
theorem mgmtMem_imem_write {s : State} {a : Nat} (low : 0x20000000 ≤ a) (high : a + 8 ≤ 0x20040000)
    (ready : s.clu.phase = .ready) (alive : s.pwr.coolStopped = false) (idle : s.mgmtBusy = false) (v : BitVec 64)
    (flagged : BitVec 10) :
    mgmtMem (some v) a flagged s =
      respond .ok (if imemLocked s a then cluBad s else memWrite a (leBytes v.toNat 8) s) := by
  have no_page : inPages a 8 = false := by
    have under : ¬ Config.pageBase ≤ a := by unfold Config.pageBase; omega
    simp [inPages, under]
  have imem : inImem a 8 = true := by
    have inside : Config.imemBase ≤ a ∧ a + 8 ≤ Config.imemBase + Config.imemSize := by
      unfold Config.imemBase Config.imemSize; omega
    simpa [inImem] using inside
  simp [mgmtMem, no_page, ready, alive, idle, imem, mgmtImem, apply_ite (respond .ok)]

theorem imemLocked_iff (s : State) (a : Nat) :
    imemLocked s a = true ↔ s.clu.hashLocked = true ∧ a < 0x20000000 + 4096 * s.ush.fwTop.toNat := by
  rw [imemLocked, Bool.and_eq_true, decide_eq_true_iff, State.fwBytes, Nat.mul_comm, Config.imemBase]

/-- What a write of instruction memory stores: nothing where it is locked, else the doubleword. -/
theorem portImem_write {s : State} {a : Nat} (low : 0x20000000 ≤ a) (high : a + 8 ≤ 0x20040000)
    (ready : s.clu.phase = .ready) (alive : s.pwr.coolStopped = false) (idle : s.mgmtBusy = false) (wf : Memory.wf s.mem)
    (v : BitVec 64) (flagged : BitVec 10) :
    let s' := mgmtMem (some v) a flagged s
    s'.mgmt.rstat = .ok ∧
      (s.clu.hashLocked = true → a < 0x20000000 + 4096 * s.ush.fwTop.toNat → s'.mem = s.mem) ∧
      ((s.clu.hashLocked = false ∨ 0x20000000 + 4096 * s.ush.fwTop.toNat ≤ a) →
        (∀ i < 8, memByte s' (a + i) = v.extractLsb' (8 * i) 8) ∧
        ∀ k, (k < a ∨ a + 8 ≤ k) → memByte s' k = memByte s k) := by
  rw [mgmtMem_imem_write low high ready alive idle]
  refine ⟨rfl, fun locked inside => ?locked, fun free => ?free⟩
  case locked =>
    rw [if_pos ((imemLocked_iff s a).mpr ⟨locked, inside⟩)]
    simp [cluBad]
  case free =>
    have unlocked : ¬ imemLocked s a = true := fun h => by
      obtain ⟨locked, inside⟩ := (imemLocked_iff s a).mp h
      rcases free with off | past
      · simp [off] at locked
      · omega
    rw [if_neg unlocked]
    exact memWrite_doubleword wf rfl

/-! ## Register writes whose every bit the originator may write -/

theorem refusedStore_of_mayWrite {s : State} {t : Fin 16} {p : Page} {off : Nat}
    (all : mayWrite s (.thread t) p off = BitVec.allOnes 64) (v : BitVec 64) : refusedStore s t p off v = false := by
  simp [refusedStore, all]

/-- Who may write every bit of the register, at a time when the page is free for it, performs the write and has its answer. -/
theorem regStore_of_writes {o : Originator} {p : Page} {off : Nat} {s : State} (h : Claims.writes o p off s) (v : BitVec 64) :
    regStore o p off v s = Claims.answered o p (regWrite o p off v s) := by
  cases o with
  | mgmt =>
    obtain ⟨reaches, -⟩ := h
    simp [regStore, reaches, Claims.answered, respond, usePage]
  | thread t =>
    obtain ⟨acts, all, free⟩ := h
    simp [regStore, acts, free, refusedStore_of_mayWrite all, Claims.answered, usePage]

theorem mayWrite_of_writes {o : Originator} {p : Page} {off : Nat} {s : State} (h : Claims.writes o p off s) :
    mayWrite s o p off = BitVec.allOnes 64 := by
  cases o with
  | mgmt => exact h.2
  | thread t => exact h.2.1

/-- The bits of a register that a write can act on. -/
def Access3.all (f : Access3) : BitVec 64 := f.rw ||| f.wo ||| f.w1c

/-- A write to a page's own register by one who may write all of it acts with the bits that have a meaning. -/
theorem regWrite_of_mayWrite {o : Originator} {p : Page} {off : Nat} {s : State} (all : mayWrite s o p off = BitVec.allOnes 64)
    (own : ¬ off < 0x40) (fields : (regFields s.build p off).all ≠ 0) (v : BitVec 64) :
    regWrite o p off v s = pageWrite (o == .mgmt) p off (v &&& (regFields s.build p off).all) s := by
  unfold Access3.all at fields ⊢
  simp only [regWrite, all, BitVec.and_allOnes, if_neg fields, if_neg own, BitVec.not_allOnes, BitVec.and_zero, BitVec.or_zero]

/-! ## The mailbox's headers (R381, R382) -/

theorem regWrite_reqHdr {o : Originator} {s : State} (h : Claims.writes o .mgmt 0x48 s) (v : BitVec 64) :
    regWrite o .mgmt 0x48 v s = reqHdr (v &&& bitsMask 0 32) s := by
  have fields : (regFields s.build .mgmt 0x48).all = bitsMask 0 32 := by simp [regFields, mgmtFields, rwOnly, Access3.all]
  have some_field : (regFields s.build .mgmt 0x48).all ≠ 0 := by rw [fields]; decide
  rw [regWrite_of_mayWrite (mayWrite_of_writes h) (by decide) some_field, fields]
  rfl

/-- The fields of MGMT_RSP_HDR. -/
def rspHdrMask : BitVec 64 := bitsMask 0 8 ||| bitsMask 16 16

theorem regWrite_rspHdr {o : Originator} {s : State} (h : Claims.writes o .mgmt 0x70 s) (v : BitVec 64) :
    regWrite o .mgmt 0x70 v s = rspHdr (v &&& rspHdrMask) s := by
  have fields : (regFields s.build .mgmt 0x70).all = rspHdrMask := by
    simp [regFields, mgmtFields, rwOnly, Access3.all, rspHdrMask]
  have some_field : (regFields s.build .mgmt 0x70).all ≠ 0 := by rw [fields]; decide
  rw [regWrite_of_mayWrite (mayWrite_of_writes h) (by decide) some_field, fields]
  rfl

theorem exec_mgmtReqHdrWrite {o : Originator} {s : State} (h : Claims.writes o .mgmt 0x48 s) (v : BitVec 64) :
    exec (.mgmtReqHdrWrite o v) s = .next (Claims.answered o .mgmt (reqHdr (v &&& bitsMask 0 32) s)) := by
  rw [← regWrite_reqHdr h, ← regStore_of_writes h]
  rfl

theorem exec_mgmtRspHdrWrite {o : Originator} {s : State} (h : Claims.writes o .mgmt 0x70 s) (v : BitVec 64) :
    exec (.mgmtRspHdrWrite o v) s = .next (Claims.answered o .mgmt (rspHdr (v &&& rspHdrMask) s)) := by
  rw [← regWrite_rspHdr h, ← regStore_of_writes h]
  rfl

/-- A request that finds one pending is refused. -/
theorem reqHdr_of_pending {s : State} (pending : s.mgmt.pending = true) (v : BitVec 64) : reqHdr v s = countEvt .mgmt 1 s := by
  simp [reqHdr, pending]

/-- `s` with the request that a write of `v` to MGMT_REQ_HDR makes pending. -/
def State.requested (s : State) (v : BitVec 64) : State :=
  { s with mgmt := { s.mgmt with
    pending := true, reqCmd := BitVec.ofNat 8 v.toNat, reqExpect := BitVec.ofNat 8 (v.toNat / 2 ^ 8),
    reqSeq := BitVec.ofNat 16 (v.toNat / 2 ^ 16) } }

theorem reqHdr_of_free {s : State} (free : s.mgmt.pending = false) (v : BitVec 64) :
    reqHdr (v &&& bitsMask 0 32) s =
      if s.mgmt.reqSyncEn then signal s.mgmt.reqSync.toNat (s.requested v) else s.requested v := by
  have cmd : (v &&& bitsMask 0 32).extractLsb' 0 8 = BitVec.ofNat 8 v.toNat := by
    rw [extractLsb'_and_mask (by decide), extractLsb'_eq_ofNat, Nat.pow_zero, Nat.div_one]
  have expect : (v &&& bitsMask 0 32).extractLsb' 8 8 = BitVec.ofNat 8 (v.toNat / 2 ^ 8) := by
    rw [extractLsb'_and_mask (by decide), extractLsb'_eq_ofNat]
  have seq : (v &&& bitsMask 0 32).extractLsb' 16 16 = BitVec.ofNat 16 (v.toNat / 2 ^ 16) := by
    rw [extractLsb'_and_mask (by decide), extractLsb'_eq_ofNat]
  simp only [reqHdr, free, cmd, expect, seq]
  rfl

/-- The sequence number that a write of `v` to MGMT_RSP_HDR answers. -/
theorem rspHdr_seq (v : BitVec 64) :
    (v &&& rspHdrMask).extractLsb' 16 16 = BitVec.ofNat 16 (v.toNat / 2 ^ 16) := by
  rw [extractLsb'_and_mask (by decide), extractLsb'_eq_ofNat]

theorem rspHdr_of_pending {s : State} {v : BitVec 64} (pending : s.mgmt.pending = true)
    (seq : v.toNat / 2 ^ 16 % 65536 = s.mgmt.reqSeq.toNat) :
    rspHdr (v &&& rspHdrMask) s = countEvt .mgmt 0 { s with mgmt := { s.mgmt with
      pending := false, rspStatus := BitVec.ofNat 8 v.toNat, rspSeq := s.mgmt.reqSeq } } := by
  have status : (v &&& rspHdrMask).extractLsb' 0 8 = BitVec.ofNat 8 v.toNat := by
    rw [extractLsb'_and_mask (by decide), extractLsb'_eq_ofNat, Nat.pow_zero, Nat.div_one]
  have answers : BitVec.ofNat 16 (v.toNat / 2 ^ 16) = s.mgmt.reqSeq := BitVec.eq_of_toNat_eq seq
  simp only [rspHdr, rspHdr_seq, status, answers, pending, and_self, if_true]

theorem rspHdr_of_mismatch {s : State} {v : BitVec 64}
    (h : s.mgmt.pending = false ∨ v.toNat / 2 ^ 16 % 65536 ≠ s.mgmt.reqSeq.toNat) :
    rspHdr (v &&& rspHdrMask) s = countEvt .mgmt 2 s := by
  have refused : ¬ (s.mgmt.pending = true ∧ BitVec.ofNat 16 (v.toNat / 2 ^ 16) = s.mgmt.reqSeq) := by
    rintro ⟨pending, answers⟩
    rcases h with free | other
    · simp [free] at pending
    · exact other (congrArg BitVec.toNat answers)
  simp only [rspHdr, rspHdr_seq, if_neg refused]

/-! ## The firmware's answer (R382) -/

section
variable (status : Nat) (d0 d1 : Option (BitVec 64)) (s : State)

@[simp] theorem answer_ush : (answer status d0 d1 s).ush = s.ush := by
  cases d0 <;> cases d1 <;> simp [answer]
@[simp] theorem answer_step : (answer status d0 d1 s).step = s.step := by
  cases d0 <;> cases d1 <;> simp [answer]
@[simp] theorem answer_thread (t : Fin 16) : (answer status d0 d1 s).thread t = s.thread t := by
  simp [State.thread]

/-- An answer ends the request, under its sequence number. -/
theorem answer_done (small : status < 256) :
    (answer status d0 d1 s).mgmt.pending = false ∧ (answer status d0 d1 s).mgmt.rspStatus.toNat = status ∧
      (answer status d0 d1 s).mgmt.rspSeq = s.mgmt.reqSeq := by
  cases d0 <;> cases d1 <;> simp [answer, Nat.mod_eq_of_lt small]

end

@[simp] theorem answer_data_zero (status : Nat) (v : BitVec 64) (d1 : Option (BitVec 64)) (s : State) :
    (answer status (some v) d1 s).mgmt.data[0] = v := by
  cases d1 <;> simp [answer]

@[simp] theorem answer_data_one (status : Nat) (d0 : Option (BitVec 64)) (v : BitVec 64) (s : State) :
    (answer status d0 (some v) s).mgmt.data[1] = v := by
  cases d0 <;> simp [answer]

/-- A firmware that serves a request runs, and has reported itself with interface major 1. -/
theorem serves_conditions {s : State} {cmd : Nat} (h : s.serves cmd = true) :
    s.ush.run = true ∧ s.clu.fwidValid = true ∧ s.clu.ifMajor = 1 := by
  simp only [State.serves, State.usherActs, Bool.and_eq_true, beq_iff_eq] at h
  obtain ⟨⟨⟨⟨⟨-, ⟨-, run⟩⟩, -⟩, valid⟩, major⟩, -⟩ := h
  exact ⟨run, valid, major⟩

/-! ## PING -/

theorem exec_mgmtPing (s : State) : exec .mgmtPing s = .next (mgmtPing s) := rfl

/-- CLU_FWID of a firmware of interface major 1 that has reported itself (R348). -/
theorem plainRead_fwid {s : State} (valid : s.clu.fwidValid = true) (major : s.clu.ifMajor = 1) :
    (plainRead s .clu 0xB0).toNat = s.clu.fwVersion.toNat + 2 ^ 16 + 2 ^ 63 := by
  have version : s.clu.fwVersion.toNat < 2 ^ 16 := s.clu.fwVersion.isLt
  have reads : plainRead s .clu 0xB0 = put 0 s.clu.fwVersion.toNat ||| put 16 1 ||| put 63 1 := by
    simp [plainRead, pageRead, cluRead, valid, major, b2n]
  have first : (put 0 s.clu.fwVersion.toNat).toNat = s.clu.fwVersion.toNat := toNat_put_zero (by omega)
  have second : (put 0 s.clu.fwVersion.toNat ||| put 16 1).toNat = s.clu.fwVersion.toNat + 2 ^ 16 * 1 := by
    rw [toNat_or_put (by omega) (by decide), first]
  rw [reads, toNat_or_put (by omega) (by decide), second, Nat.mul_one, Nat.mul_one]

/-! ## The start of a thread through its control register (R67) -/

/-- The word of USH_THR_CTL that starts a thread in state `code` at `pc`. -/
def startWord (pc code : Nat) : BitVec 64 := put 0 pc ||| put 20 code ||| put 24 1

/-- The fields of USH_THR_CTL. -/
def threadCtlMask : BitVec 64 := bitsMask 0 18 ||| bitsMask 20 4 ||| bitsMask 24 2

theorem startWord_toNat {pc code : Nat} (hpc : pc < 2 ^ 18) (hcode : code < 16) :
    (startWord pc code).toNat = pc + 2 ^ 20 * code + 2 ^ 24 := by
  have first : (put 0 pc).toNat = pc := toNat_put_zero (by omega)
  have second : (put 0 pc ||| put 20 code).toNat = pc + 2 ^ 20 * code := by
    rw [toNat_or_put (by omega) (by omega), first]
  rw [startWord, toNat_or_put (by omega) (by decide), second, Nat.mul_one]

theorem fld_and_threadCtlMask {v : BitVec 64} {lo len : Nat} (h : threadCtlMask.extractLsb' lo len = BitVec.allOnes len) :
    fld (v &&& threadCtlMask) lo len = v.toNat / 2 ^ lo % 2 ^ len := by
  rw [fld_eq_toNat_extractLsb', extractLsb'_and_mask h, extractLsb'_eq_ofNat, BitVec.toNat_ofNat]

/-- A start under the thread's own state, at an aligned pc, while Usher is released. -/
theorem threadCtl_startWord {s : State} {t : Fin 16} {pc : Nat} (startable : (s.thread t).st.canStart = true)
    (small : pc < 2 ^ 18) (aligned : pc % 4 = 0) (run : s.ush.run = true) :
    threadCtl t (startWord pc (s.thread t).st.code &&& threadCtlMask) s = startThread t (BitVec.ofNat 18 pc) s := by
  have code : (s.thread t).st.code < 16 := by cases (s.thread t).st <;> simp [TState.code]
  have word := startWord_toNat small code
  have state : fld (startWord pc (s.thread t).st.code &&& threadCtlMask) 20 4 = (s.thread t).st.code := by
    rw [fld_and_threadCtlMask (by decide), word]; omega
  have action : fld (startWord pc (s.thread t).st.code &&& threadCtlMask) 24 2 = 1 := by
    rw [fld_and_threadCtlMask (by decide), word]; omega
  have low : fld (startWord pc (s.thread t).st.code &&& threadCtlMask) 0 2 = 0 := by
    rw [fld_and_threadCtlMask (by decide), word]; omega
  have target : (startWord pc (s.thread t).st.code &&& threadCtlMask).extractLsb' 0 18 = BitVec.ofNat 18 pc := by
    rw [extractLsb'_and_mask (by decide), extractLsb'_eq_ofNat, word]
    apply BitVec.eq_of_toNat_eq
    simp only [BitVec.toNat_ofNat]
    omega
  simp [threadCtl, state, action, low, target, startable, run]

/-- The firmware writes the control register of each task thread whole. -/
theorem regWrite_threadCtl {t : Fin 16} (task : t ≠ 15) (v : BitVec 64) (s : State) :
    regWrite (.thread fwThread) .ush (0x180 + 8 * t.val) v s = threadCtl t (v &&& threadCtlMask) s := by
  have small : t.val < 15 := by
    rw [ne_eq, Fin.ext_iff] at task
    omega
  have rights (i : Nat) (lt : i < 15) : firmwareMay s .ush (0x180 + 8 * i) = BitVec.allOnes 64 := by
    interval_cases i <;> rfl
  have all : mayWrite s (.thread fwThread) .ush (0x180 + 8 * t.val) = BitVec.allOnes 64 := by
    rw [mayWrite, if_pos rfl]
    exact rights t.val small
  have writable : regFields s.build .ush (0x180 + 8 * t.val) = woOnly threadCtlMask := by fin_cases t <;> rfl
  have fields : (regFields s.build .ush (0x180 + 8 * t.val)).all = threadCtlMask := by
    simp [writable, woOnly, Access3.all]
  have some_field : (regFields s.build .ush (0x180 + 8 * t.val)).all ≠ 0 := by rw [fields]; decide
  rw [regWrite_of_mayWrite all (by omega) some_field, fields]
  fin_cases t <;> rfl

/-- The start of a task thread changes the thread, and a loaded task runs from it on. -/
theorem startThread_of_task {t : Fin 16} (task : t ≠ 15) (pc : BitVec 18) (s : State) :
    startThread t pc s = { s with ush := { s.ush with
      threads := s.ush.threads.set t (Claims.begun s t pc),
      task := if s.ush.task = .loaded then .running else s.ush.task } } := by
  have firmware : ¬ t = fwThread := task
  by_cases loaded : s.ush.task = .loaded <;>
    simp [startThread, firmware, loaded, modThread, Claims.begun, State.thread]

theorem startThread_thread {t : Fin 16} (task : t ≠ 15) (u : Fin 16) (pc : BitVec 18) (s : State) :
    (startThread t pc s).thread u = if u = t then Claims.begun s t pc else s.thread u := by
  rw [← modThread_thread t u (fun _ => Claims.begun s t pc), startThread_of_task task]
  rfl

/-! ## TASK_START -/

theorem exec_mgmtTaskStart (s : State) : exec .mgmtTaskStart s = .next (mgmtTaskStart s) := rfl

theorem ofNat_mod_pow (w n : Nat) : BitVec.ofNat w (n % 2 ^ w) = BitVec.ofNat w n :=
  BitVec.eq_of_toNat_eq (by simp)

/-- A free task thread whose listed pc is aligned starts there. -/
theorem startListed_of_free {pcs : Nat} {acc : Nat × State} {t : Fin 16} (task : t ≠ 15) (run : acc.2.ush.run = true)
    (free : (acc.2.thread t).st = .free) (aligned : memNat acc.2 (pcs + 8 * t.val) 8 % 4 = 0) :
    (startListed pcs acc t).2 = startThread t (BitVec.ofNat 18 (memNat acc.2 (pcs + 8 * t.val) 8)) acc.2 := by
  have startable : (acc.2.thread t).st.canStart = true := by rw [free]; rfl
  have small : memNat acc.2 (pcs + 8 * t.val) 8 % 2 ^ 18 < 2 ^ 18 := Nat.mod_lt _ (by decide)
  have low : memNat acc.2 (pcs + 8 * t.val) 8 % 2 ^ 18 % 4 = 0 := by omega
  have write := (regWrite_threadCtl task _ acc.2).trans (threadCtl_startWord startable small low run)
  rw [ofNat_mod_pow] at write
  rw [← write]
  exact congrArg Prod.snd (if_pos ⟨startable, low⟩)

/-- What the starts of the threads `l`, each at the pc that the table at `pcs` gives it, make of `s`. -/
structure Started (pcs : Nat) (l : List (Fin 16)) (s s' : State) : Prop where
  mem : s'.mem = s.mem
  step : s'.step = s.step
  mgmt : s'.mgmt = s.mgmt
  listed : ∀ t ∈ l, (s'.thread t).st = .ready ∧ (s'.thread t).pc = BitVec.ofNat 18 (memNat s (pcs + 8 * t.val) 8)
  rest : ∀ t, t ∉ l → s'.thread t = s.thread t
  running : l ≠ [] ∨ s.ush.task = .running → s'.ush.task = .running

theorem started_startListed {pcs : Nat} (l : List (Fin 16)) (distinct : l.Nodup) (acc : Nat × State)
    (run : acc.2.ush.run = true) (task : acc.2.ush.task = .loaded ∨ acc.2.ush.task = .running)
    (each : ∀ t ∈ l, t ≠ 15 ∧ (acc.2.thread t).st = .free ∧ memNat acc.2 (pcs + 8 * t.val) 8 % 4 = 0) :
    Started pcs l acc.2 (l.foldl (startListed pcs) acc).2 := by
  induction l generalizing acc with
  | nil => exact ⟨rfl, rfl, rfl, by simp, fun _ _ => rfl, by simp⟩
  | cons t l ih =>
    obtain ⟨fresh, distinct⟩ := List.nodup_cons.mp distinct
    obtain ⟨no_fw, free, aligned⟩ := each t (List.mem_cons_self ..)
    have start := startListed_of_free no_fw run free aligned
    have shape := startThread_of_task no_fw (BitVec.ofNat 18 (memNat acc.2 (pcs + 8 * t.val) 8)) acc.2
    have threads (u : Fin 16) := startThread_thread no_fw u (BitVec.ofNat 18 (memNat acc.2 (pcs + 8 * t.val) 8)) acc.2
    rw [← start] at shape threads
    have mem : (startListed pcs acc t).2.mem = acc.2.mem := by rw [shape]
    have runs : (startListed pcs acc t).2.ush.task = .running := by
      rw [shape]; rcases task with h | h <;> simp [h]
    have later := ih distinct (startListed pcs acc t) (by rw [shape]; exact run) (.inr runs) fun u hu => by
      have other : u ≠ t := fun e => fresh (e ▸ hu)
      rw [threads, if_neg other, memNat_of_mem mem]
      exact each u (List.mem_cons_of_mem _ hu)
    refine ⟨later.mem.trans mem, later.step.trans (by rw [shape]), later.mgmt.trans (by rw [shape]), fun u hu => ?listed,
      fun u hu => ?rest, fun _ => later.running (.inr runs)⟩
    case listed =>
      rcases List.mem_cons.mp hu with rfl | hu
      · rw [List.foldl_cons, later.rest _ fresh, threads, if_pos rfl]
        exact ⟨rfl, rfl⟩
      · rw [List.foldl_cons, ← memNat_of_mem mem]
        exact later.listed u hu
    case rest =>
      obtain ⟨other, hu⟩ : u ≠ t ∧ u ∉ l := by simpa using hu
      rw [List.foldl_cons, later.rest u hu, threads, if_neg other]

/-- The fields of STEP_CFG. -/
def stepCfgMask : BitVec 64 := bitsMask 0 2 ||| bitsMask 16 32

theorem regWrite_stepCfg (v : BitVec 64) (s : State) :
    regWrite (.thread fwThread) .step 0x40 v s = stepCfg (v &&& stepCfgMask) s := by
  have fields : (regFields s.build .step 0x40).all = stepCfgMask := by simp [regFields, rwOnly, Access3.all, stepCfgMask]
  have some_field : (regFields s.build .step 0x40).all ≠ 0 := by rw [fields]; decide
  rw [regWrite_of_mayWrite rfl (by decide) some_field, fields]
  rfl

/-- A write that sets ENABLE in IDLE sets it, and reaches neither Usher, nor memory, nor the mailbox. -/
theorem stepCfg_enables {s : State} (idle : s.step.phase = .idle) (off : s.step.enable = false) {v : BitVec 64}
    (enable : bitAt v 1 = true) :
    (stepCfg v s).step.enable = true ∧ (stepCfg v s).ush = s.ush ∧ (stepCfg v s).mem = s.mem ∧
      (stepCfg v s).mgmt = s.mgmt := by
  have closed : s.stepOpen = false := by simp [State.stepOpen, State.stepClosed, idle]
  simp [stepCfg, closed, enable, off, shadowPut]

/-- `s` once the firmware has written the listed threads and ENABLE to STEP_CFG (R67). -/
def State.taskConfigured (s : State) : State :=
  regWrite (.thread fwThread) .step 0x40
    ((plainRead s .step 0x40 &&& ~~~(bitsMask 16 16)) ||| put 16 (fld s.mgmt.args[1] 0 15) ||| put 1 1) s

theorem taskConfigured_enables {s : State} (idle : s.step.phase = .idle) (off : s.step.enable = false) :
    s.taskConfigured.step.enable = true ∧ s.taskConfigured.ush = s.ush ∧ s.taskConfigured.mem = s.mem ∧
      s.taskConfigured.mgmt = s.mgmt := by
  unfold State.taskConfigured
  rw [regWrite_stepCfg]
  refine stepCfg_enables idle off ?_
  have one : (put 1 1).getLsbD 1 = true := by decide
  have field : stepCfgMask.getLsbD 1 = true := by decide
  simp [bitAt, one, field]

/-- The task threads that the request lists. -/
def State.listedThreads (s : State) : List (Fin 16) :=
  allThreads.filter fun t => t != fwThread && Nat.testBit (fld s.mgmt.args[1] 0 15) t

theorem mem_listedThreads (s : State) (t : Fin 16) :
    t ∈ s.listedThreads ↔ t ≠ 15 ∧ s.mgmt.args[1].toNat / 2 ^ t.val % 2 = 1 := by
  have bit : Nat.testBit (fld s.mgmt.args[1] 0 15) t = true ↔ t.val < 15 ∧ s.mgmt.args[1].toNat / 2 ^ t.val % 2 = 1 := by
    rw [fld, Nat.shiftRight_zero, Nat.testBit_mod_two_pow, Bool.and_eq_true, decide_eq_true_eq,
      Nat.testBit_eq_decide_div_mod_eq, decide_eq_true_eq]
  have task : t ≠ 15 → t.val < 15 := fun h => by
    rw [ne_eq, Fin.ext_iff] at h
    omega
  simp only [State.listedThreads, allThreads, fwThread, List.mem_filter, List.mem_finRange, true_and, Bool.and_eq_true,
    bne_iff_ne, bit]
  tauto

theorem listedThreads_ne_nil {s : State} (some_bit : s.mgmt.args[1].toNat % 2 ^ 15 ≠ 0) : s.listedThreads ≠ [] := by
  obtain ⟨i, hi⟩ := Nat.exists_testBit_of_ne_zero some_bit
  rw [Nat.testBit_mod_two_pow, Bool.and_eq_true, decide_eq_true_eq, Nat.testBit_eq_decide_div_mod_eq, decide_eq_true_eq] at hi
  refine List.ne_nil_of_mem (a := ⟨i, by omega⟩) ((mem_listedThreads s _).mpr ⟨?_, hi.2⟩)
  simp only [ne_eq, Fin.ext_iff]
  omega

section
variable {s : State} (serves : s.serves 0x02 = true)
include serves

/-- Under another state than EXPECT the task is not started. -/
theorem mgmtTaskStart_of_stale (stale : s.mgmt.reqExpect.toNat ≠ s.ush.task.code) :
    mgmtTaskStart s = answer 2 (some (put 0 s.ush.task.code)) none s := by
  simp [mgmtTaskStart, serves, stale]

theorem mgmtTaskStart_of_not_loaded (expected : s.mgmt.reqExpect.toNat = s.ush.task.code) (idle : s.ush.task ≠ .loaded) :
    mgmtTaskStart s = answer 3 none none s := by
  simp [mgmtTaskStart, serves, expected, idle]

theorem mgmtTaskStart_of_loaded (expected : s.mgmt.reqExpect = 1) (loaded : s.ush.task = .loaded)
    (buffer : hallBuffer s s.mgmt.args[0].toNat 128 = true) (clear : s.clearOf s.mgmt.args[0].toNat 128 false = true) :
    ∃ started, mgmtTaskStart s = answer 0 (some (put 0 started)) none
      (s.listedThreads.foldl (startListed s.mgmt.args[0].toNat) (0, s.taskConfigured)).2 := by
  have code : s.mgmt.reqExpect.toNat = s.ush.task.code := by rw [expected, loaded]; rfl
  refine ⟨(s.listedThreads.foldl (startListed s.mgmt.args[0].toNat) (0, s.taskConfigured)).1, ?_⟩
  unfold mgmtTaskStart
  simp only [serves, code, loaded, buffer, clear]
  rfl

end

section
variable {s : State} (idle : s.step.phase = .idle) (off : s.step.enable = false)
include idle off

/-- The listed threads of a loaded task, all free, start from the state with the step unit configured. -/
theorem started_taskConfigured (run : s.ush.run = true) (loaded : s.ush.task = .loaded) {pcs : Nat}
    (each : ∀ t, t ≠ 15 → (s.thread t).st = .free ∧ memNat s (pcs + 8 * t.val) 8 % 4 = 0) :
    Started pcs s.listedThreads s.taskConfigured
      (s.listedThreads.foldl (startListed pcs) (0, s.taskConfigured)).2 := by
  obtain ⟨-, ush, mem, -⟩ := taskConfigured_enables idle off
  have threads (t : Fin 16) : s.taskConfigured.thread t = s.thread t := by simp only [State.thread, ush]
  have distinct : s.listedThreads.Nodup := (List.nodup_finRange 16).filter _
  refine started_startListed s.listedThreads distinct (0, s.taskConfigured) (by simp only [ush, run]) (by simp [ush, loaded])
    fun t ht => ?_
  obtain ⟨task, -⟩ := (mem_listedThreads s t).mp ht
  rw [threads, memNat_of_mem mem]
  exact ⟨task, each t task⟩

/-- The started task: every listed thread READY at its pc, the others as they were, and the step unit enabled (R67). -/
theorem mgmtTaskStart_starts (serves : s.serves 0x02 = true) (expected : s.mgmt.reqExpect = 1)
    (loaded : s.ush.task = .loaded) (buffer : hallBuffer s s.mgmt.args[0].toNat 128 = true)
    (clear : s.clearOf s.mgmt.args[0].toNat 128 false = true)
    (each : ∀ t, t ≠ 15 → (s.thread t).st = .free ∧ memNat s (s.mgmt.args[0].toNat + 8 * t.val) 8 % 4 = 0) :
    let s' := mgmtTaskStart s
    (s'.mgmt.pending = false ∧ s'.mgmt.rspStatus.toNat = 0 ∧ s'.mgmt.rspSeq = s.mgmt.reqSeq) ∧
      s'.step.enable = true ∧ s'.mem = s.mem ∧
      (∀ t, t ≠ 15 → s.mgmt.args[1].toNat / 2 ^ t.val % 2 = 1 → (s'.thread t).st = .ready ∧
        (s'.thread t).pc = BitVec.ofNat 18 (memNat s (s.mgmt.args[0].toNat + 8 * t.val) 8)) ∧
      (∀ t, (t = 15 ∨ s.mgmt.args[1].toNat / 2 ^ t.val % 2 = 0) → s'.thread t = s.thread t) ∧
      (s.mgmt.args[1].toNat % 2 ^ 15 ≠ 0 → s'.ush.task = .running) := by
  obtain ⟨started, result⟩ := mgmtTaskStart_of_loaded serves expected loaded buffer clear
  obtain ⟨enable, ush, mem, mgmt⟩ := taskConfigured_enables idle off
  obtain ⟨run, -, -⟩ := serves_conditions serves
  have starts := started_taskConfigured idle off run loaded each
  rw [result]
  refine ⟨?answered, ?enabled, ?memory, fun t task bit => ?listed, fun t out => ?rest, fun some_bit => ?running⟩
  case answered =>
    have done := answer_done 0 (some (put 0 started)) none
      (s.listedThreads.foldl (startListed s.mgmt.args[0].toNat) (0, s.taskConfigured)).2 (by decide)
    rwa [starts.mgmt, mgmt] at done
  case enabled => rw [answer_step, starts.step, enable]
  case memory => rw [answer_mem, starts.mem, mem]
  case listed =>
    rw [answer_thread, ← memNat_of_mem mem]
    exact starts.listed t ((mem_listedThreads s t).mpr ⟨task, bit⟩)
  case rest =>
    have unlisted : t ∉ s.listedThreads := fun h => by
      obtain ⟨task, bit⟩ := (mem_listedThreads s t).mp h
      rcases out with firmware | no_bit
      · exact task firmware
      · omega
    rw [answer_thread, starts.rest t unlisted, State.thread, ush, State.thread]
  case running =>
    rw [answer_ush]
    exact starts.running (.inl (listedThreads_ne_nil some_bit))

end

/-! ## EVT_SWEEP (R333) -/

theorem exec_mgmtEvtSweep (s : State) : exec .mgmtEvtSweep s = .next (mgmtEvtSweep s) := rfl

@[simp] theorem sweepRecord_length (s : State) (p : Page) : (sweepRecord s p).length = 24 := by simp [sweepRecord]

theorem flatMap_sweepRecord_length (s : State) (pages : List Page) :
    (pages.flatMap (sweepRecord s)).length = 24 * pages.length := by
  simp [List.length_flatMap, Nat.mul_comm]

/-- The pages of a sweep with room for `n` records. -/
def State.sweptPages (s : State) (n : Nat) : List Page := (Page.all.filter s.pendBit).take n

theorem sweptPages_length_le (s : State) (n : Nat) : (s.sweptPages n).length ≤ 30 := by
  have all : (Page.all.filter s.pendBit).length ≤ Page.all.length := List.length_filter_le _ _
  rw [State.sweptPages, List.length_take]
  exact (Nat.min_le_right ..).trans all

theorem mgmtEvtSweep_of_buffer {s : State} (serves : s.serves 0x03 = true)
    (buffer : hallBuffer s s.mgmt.args[0].toNat (24 * (s.sweptPages (s.mgmt.args[1].toNat / 24)).length) = true)
    (clear : s.clearOf s.mgmt.args[0].toNat (24 * (s.sweptPages (s.mgmt.args[1].toNat / 24)).length) true = true) :
    let pages := s.sweptPages (s.mgmt.args[1].toNat / 24)
    mgmtEvtSweep s = answer 0 (some s.evtPend) (some (put 0 pages.length))
      (memWrite s.mgmt.args[0].toNat (pages.flatMap (sweepRecord s)) s) := by
  rw [← flatMap_sweepRecord_length s] at buffer clear
  unfold mgmtEvtSweep
  rw [if_neg (by simp [serves])]
  exact (if_pos buffer).trans (if_neg (by rw [Bool.not_eq_true', Bool.not_eq_false]; exact clear))

theorem headerRead_seq (s : State) (p : Page) :
    (headerRead s p 0x38).toNat = (s.hdrOf p).seq.toNat + 2 ^ 32 * (s.hdrOf p).logSeq.toNat := by
  have seq : (s.hdrOf p).seq.toNat < 2 ^ 32 := (s.hdrOf p).seq.isLt
  have logSeq : (s.hdrOf p).logSeq.toNat < 2 ^ 32 := (s.hdrOf p).logSeq.isLt
  have first : (put 0 (s.hdrOf p).seq.toNat).toNat = (s.hdrOf p).seq.toNat := toNat_put_zero (by omega)
  rw [headerRead, toNat_or_put (by omega) (by omega), first]

/-- A word of the record of page `p`, which is record `i` of the sweep. -/
theorem memNat_sweep {s : State} (wf : Memory.wf s.mem) (a : Nat) {pages : List Page} {i : Nat} {p : Page}
    (h : pages[i]? = some p) {off n : Nat} (inside : off + 8 ≤ 24) (fits : n < 2 ^ 64)
    (word : ((sweepRecord s p).drop off).take 8 = leBytes n 8) :
    memNat (memWrite a (pages.flatMap (sweepRecord s)) s) (a + 24 * i + off) 8 = n := by
  obtain ⟨lt, -⟩ := List.getElem?_eq_some_iff.mp h
  have bound : 24 * i + off + 8 ≤ (pages.flatMap (sweepRecord s)).length := by
    rw [flatMap_sweepRecord_length]; omega
  have record := take_drop_flatMap (sweepRecord_length s) h
  have part : ((pages.flatMap (sweepRecord s)).drop (24 * i + off)).take 8 = leBytes n 8 := by
    rw [← word, ← record, List.drop_take, List.drop_drop, List.take_take, Nat.min_eq_left (by omega)]
  rw [memNat, Nat.add_assoc, memRead_memWrite wf a _ bound, part, leNat_leBytes, Nat.mod_eq_of_lt (by omega)]

/-- What a sweep leaves in memory: each record, and no other byte. -/
theorem sweep_memory {s s' : State} (wf : Memory.wf s.mem) (a : Nat) (pages : List Page)
    (stored : s'.mem = (memWrite a (pages.flatMap (sweepRecord s)) s).mem) :
    (∀ i p, pages[i]? = some p → memNat s' (a + 24 * i) 8 = p.slot.val ∧
      memNat s' (a + 24 * i + 8) 8 = (s.hdrOf p).seq.toNat + 2 ^ 32 * (s.hdrOf p).logSeq.toNat ∧
      memNat s' (a + 24 * i + 16) 8 = (s.hdrOf p).log.toNat) ∧
    ∀ k, (k < a ∨ a + 24 * pages.length ≤ k) → memByte s' k = memByte s k := by
  have reads := memNat_of_mem stored
  refine ⟨fun i p h => ⟨?slot, ?seq, ?log⟩, fun k out => ?frame⟩
  case slot =>
    have small : p.slot.val < 30 := p.slot.isLt
    exact (reads _ _).trans (memNat_sweep wf a h (off := 0) (by omega) (by omega) (by simp [sweepRecord]))
  case seq =>
    rw [reads, memNat_sweep wf a h (by omega) (headerRead s p 0x38).isLt (by simp [sweepRecord]), headerRead_seq]
  case log =>
    have word : ((sweepRecord s p).drop 16).take 8 = leBytes (headerRead s p 0x30).toNat 8 := by
      simp [sweepRecord, List.drop_append, List.drop_eq_nil_of_le]
    rw [reads, memNat_sweep wf a h (by omega) (headerRead s p 0x30).isLt word]
    rfl
  case frame =>
    have same : memByte s' k = memByte (memWrite a (pages.flatMap (sweepRecord s)) s) k := by simp only [memByte, stored]
    rw [same, memByte_memWrite_frame wf (by rwa [flatMap_sweepRecord_length])]

/-! ## THREAD_RESTART -/

theorem exec_mgmtThreadRestart (s : State) : exec .mgmtThreadRestart s = .next (mgmtThreadRestart s) := rfl

section
variable {s : State} (serves : s.serves 0x04 = true) {t : Fin 16} (task : t ≠ 15) (names : s.mgmt.args[0].toNat = t.val)
include serves task names

/-- A restart of a task thread: under its live state, in inspection mode, of a thread that can start, at an aligned pc. -/
theorem mgmtThreadRestart_of_task :
    mgmtThreadRestart s =
      if s.mgmt.reqExpect.toNat ≠ (s.thread t).st.code then answer 2 (some (put 0 (s.thread t).st.code)) none s
      else if !s.clu.live ∨ !(s.thread t).st.canStart ∨ fld s.mgmt.args[1] 0 18 % 4 ≠ 0 then answer 3 none none s
      else answer 0 none none (regWrite (.thread fwThread) .ush (0x180 + 8 * t.val)
        (startWord (fld s.mgmt.args[1] 0 18) (s.thread t).st.code) s) := by
  have named : Fin.ofNat 16 s.mgmt.args[0].toNat = t := by rw [names]; exact Fin.ofNat_val_eq_self t
  have low : ¬ 15 ≤ s.mgmt.args[0].toNat := by
    rw [ne_eq, Fin.ext_iff] at task
    omega
  unfold mgmtThreadRestart
  rw [if_neg (by simp [serves])]
  dsimp only
  rw [named, if_neg low]
  rfl

theorem mgmtThreadRestart_of_stale (stale : s.mgmt.reqExpect.toNat ≠ (s.thread t).st.code) :
    mgmtThreadRestart s = answer 2 (some (put 0 (s.thread t).st.code)) none s := by
  rw [mgmtThreadRestart_of_task serves task names, if_pos stale]

theorem mgmtThreadRestart_of_halted (expected : s.mgmt.reqExpect.toNat = (s.thread t).st.code) (live : s.clu.live = true)
    (halted : (s.thread t).st = .halted) (aligned : s.mgmt.args[1].toNat % 4 = 0) :
    mgmtThreadRestart s = answer 0 none none (startThread t (BitVec.ofNat 18 s.mgmt.args[1].toNat) s) := by
  have pc : fld s.mgmt.args[1] 0 18 = s.mgmt.args[1].toNat % 2 ^ 18 := rfl
  have startable : (s.thread t).st.canStart = true := by rw [halted]; rfl
  have target : s.mgmt.args[1].toNat % 2 ^ 18 % 4 = 0 := by omega
  obtain ⟨run, -, -⟩ := serves_conditions serves
  rw [mgmtThreadRestart_of_task serves task names, if_neg (not_not.mpr expected), pc,
    if_neg (by simp [live, startable, aligned]), regWrite_threadCtl task,
    threadCtl_startWord startable (Nat.mod_lt _ (by decide)) target run, ofNat_mod_pow]

end

end Sys2Proof.Machine

namespace Sys2Proof

open Sys2Proof.Machine

/-- Settles O54: the port's accesses by what the bank read, the mailbox headers by whether a request is pending, and each
command of the firmware by its conditions. -/
theorem management : Obligations.Management := by
  refine ⟨fun d v flagged s => ?port, fun o s v => ?headers, fun s => ?commands⟩
  case port =>
    intro a n
    have count : n = popWords flagged := (popWords_eq flagged).symm
    refine ⟨fun word clean wf => ?clean, fun word one two => ?flagged, fun busy no_page ready alive => ?waits,
      fun word three => ?uncorrectable, fun low high ready alive idle wf => ?imem⟩
    case clean =>
      have ecc := eccOf_clean (count ▸ clean)
      exact ⟨⟨_, exec_mgmtMemRead d flagged s, portRead_of_clean word ecc⟩,
        _, exec_mgmtMemWrite d v flagged s, portWrite_of_clean word wf v ecc⟩
    case flagged =>
      have ecc := eccOf_flagged (count ▸ one) (count ▸ two)
      exact ⟨⟨_, exec_mgmtMemRead d flagged s, portMem_of_flagged word none ecc⟩,
        _, exec_mgmtMemWrite d v flagged s, portMem_of_flagged word (some v) ecc⟩
    case waits =>
      rw [exec_mgmtMemRead, exec_mgmtMemWrite, mgmtMem_of_busy busy no_page ready alive,
        mgmtMem_of_busy busy no_page ready alive]
      exact ⟨rfl, rfl⟩
    case uncorrectable =>
      exact ⟨_, exec_mgmtMemWrite d v flagged s,
        portMem_of_uncorrectable word (some v) (eccOf_uncorrectable (count ▸ three))⟩
    case imem =>
      exact ⟨_, exec_mgmtMemWrite d v flagged s, portImem_write low (by omega) ready alive idle wf v flagged⟩
  case headers =>
    refine ⟨fun writes => ⟨fun pending => ?_, fun free no_sync => ?_, fun free sync => ?_⟩,
      fun writes => ⟨fun pending seq => ?_, fun mismatch => ?_⟩⟩
    · rw [exec_mgmtReqHdrWrite writes, reqHdr_of_pending pending]
    · rw [exec_mgmtReqHdrWrite writes, reqHdr_of_free free, if_neg (by simp [no_sync])]
      rfl
    · rw [exec_mgmtReqHdrWrite writes, reqHdr_of_free free, if_pos sync]
      rfl
    · rw [exec_mgmtRspHdrWrite writes, rspHdr_of_pending pending seq]
    · rw [exec_mgmtRspHdrWrite writes, rspHdr_of_mismatch mismatch]
  case commands =>
    refine ⟨fun serves => ?ping, fun serves => ⟨fun stale => ?stale, fun expected idle => ?not_loaded,
      fun expected loaded buffer clear idle off each => ?start⟩, fun serves wf => ?sweep,
      fun serves t task names => ⟨fun stale => ?restart_stale, fun expected live halted aligned => ?restart⟩⟩
    case ping =>
      obtain ⟨-, valid, major⟩ := serves_conditions serves
      have result : mgmtPing s = answer 0 (some (plainRead s .clu 0xB0)) none s := if_pos serves
      rw [exec_mgmtPing, result]
      exact ⟨_, rfl, answer_done 0 _ _ s (by decide), by simp, by simp,
        by rw [answer_data_zero, plainRead_fwid valid major]⟩
    case stale =>
      rw [exec_mgmtTaskStart, mgmtTaskStart_of_stale serves stale]
      exact ⟨_, rfl, answer_done 2 _ _ s (by decide), by simp, by simp⟩
    case not_loaded =>
      rw [exec_mgmtTaskStart, mgmtTaskStart_of_not_loaded serves expected idle]
      exact ⟨_, rfl, answer_done 3 _ _ s (by decide), by simp, by simp⟩
    case start =>
      exact ⟨_, exec_mgmtTaskStart s, mgmtTaskStart_starts idle off serves expected loaded buffer clear each⟩
    case sweep =>
      intro a pages buffer clear
      have few := sweptPages_length_le s (s.mgmt.args[1].toNat / 24)
      obtain ⟨records, frame⟩ := sweep_memory wf a pages (answer_mem ..)
      rw [exec_mgmtEvtSweep, mgmtEvtSweep_of_buffer serves buffer clear]
      exact ⟨_, rfl, answer_done 0 _ _ _ (by decide), by simp,
        by rw [answer_data_one]; exact toNat_put_zero (by omega), by simp, records, frame⟩
    case restart_stale =>
      rw [exec_mgmtThreadRestart, mgmtThreadRestart_of_stale serves task names stale]
      exact ⟨_, rfl, answer_done 2 _ _ s (by decide), by simp⟩
    case restart =>
      rw [exec_mgmtThreadRestart, mgmtThreadRestart_of_halted serves task names expected live halted aligned]
      refine ⟨_, rfl, ?_, ?_, fun u other => ?_, by simp⟩
      · have done := answer_done 0 none none (startThread t (BitVec.ofNat 18 s.mgmt.args[1].toNat) s) (by decide)
        rwa [startThread_of_task task] at done ⊢
      · rw [answer_thread, startThread_thread task, if_pos rfl]
        rfl
      · rw [answer_thread, startThread_thread task, if_neg other]

end Sys2Proof


/-! PROOF of O59: every command, and every cycle of the clock, keeps the canonical form of memory. -/

namespace Sys2Proof.Machine

/-! ## What the instructions of Usher may leave -/

/-- A choice between two results of canonical memory. -/
theorem Res.ite_wf {p : Prop} [Decidable p] {x y : Res} (hx : x.wf) (hy : y.wf) : (if p then x else y).wf := by
  split <;> assumption

/-- Every result of the instruction body leaves memory in its form. -/
def Body.KeepsForm (body : Body) : Prop := ∀ t w s, Memory.wf s.mem → (body t w s).wf

theorem jumpTo_wf (target : Int) (s : State) (h : Memory.wf s.mem) : (jumpTo target s).wf := Res.ite_wf h trivial

theorem jumpFull_wf (a : BitVec 64) (s : State) (h : Memory.wf s.mem) : (jumpFull a s).wf :=
  Res.ite_wf trivial (jumpTo_wf _ s h)

theorem regBody_keepsForm (f : BitVec 64 → BitVec 64 → BitVec 64) : (regBody f).KeepsForm := fun _ _ _ h => h

theorem immBody_keepsForm (f : BitVec 64 → BitVec 32 → BitVec 64) : (immBody f).KeepsForm := fun _ _ _ h => h

theorem branchBody_keepsForm (c : BitVec 64 → BitVec 64 → Bool) : (branchBody c).KeepsForm := fun t w s h => by
  have target := jumpTo_wf ((s.thread t).pc.toNat + 4 * (wImm w).toInt) s h
  unfold branchBody
  split
  case h_1 e => rwa [e] at target
  case h_2 => exact target

theorem loadBody_keepsForm (n : Nat) (signed : Bool) : (loadBody n signed).KeepsForm := fun t w s h => by
  unfold loadBody
  dsimp only
  split
  case h_1 => trivial
  case h_2 =>
    split
    · exact Res.ite_wf trivial (wf_of_mem (regRead_mem _ _ s) h)
    · exact h
  case h_3 => exact Res.ite_wf trivial (wf_of_mem (by simp) h)

theorem storeBody_keepsForm (n : Nat) : (storeBody n).KeepsForm := fun t w s h => by
  unfold storeBody
  dsimp only
  split
  case h_1 => trivial
  case h_2 =>
    split
    · exact Res.ite_wf trivial (Res.ite_wf trivial (regWrite_wf _ _ _ _ s h))
    · exact h
  case h_3 => exact Res.ite_wf trivial (wf_of_mem (by simp) h)

theorem enqBody_wf (q : Fin 8) (c : Cmd) (len : BitVec 18) (t : Fin 16) (s : State) (h : Memory.wf s.mem) :
    (enqBody q c len t s).wf := by
  have push := tryPush_mem t q c s
  unfold enqBody
  split
  case h_1 e => rw [e] at push; exact wf_of_mem push h
  case h_2 e => rw [e] at push; exact wf_of_mem push h
  case h_3 => exact h
  case h_4 => exact h

theorem enqHBody_keepsForm : Body.KeepsForm enqHBody := fun _ _ _ h =>
  Res.ite_wf trivial (Res.ite_wf trivial (Res.ite_wf trivial (wf_of_mem (by simp) h)))

theorem syncOpBody_keepsForm (wr : Bool) (f : BitVec 32 → BitVec 32 → Option (BitVec 32)) : (syncOpBody wr f).KeepsForm :=
  fun t w s h => by
  unfold syncOpBody
  dsimp only
  cases objOf5 w (s.thread t) with
  | none => trivial
  | some n => refine wf_of_mem ?_ h; split <;> split <;> simp

theorem syncChangeBody_keepsForm (wr : Bool) (f : BitVec 32 → BitVec 32 → Option (BitVec 32)) :
    (syncChangeBody wr f).KeepsForm := fun t w s h => by
  unfold syncChangeBody
  dsimp only
  cases objOf5 w (s.thread t) with
  | none => trivial
  | some n => exact Res.ite_wf (wf_of_mem (by simp) h) (syncOpBody_keepsForm wr f t w s h)

theorem syncWaitBody_keepsForm : Body.KeepsForm syncWaitBody := fun t w s h => by
  unfold syncWaitBody
  dsimp only
  split
  · trivial
  · exact Res.ite_wf h h

theorem queCfgBody_keepsForm : Body.KeepsForm queCfgBody := fun _ _ _ h => Res.ite_wf trivial (Res.ite_wf trivial h)

theorem quePutBody_keepsForm : Body.KeepsForm quePutBody := fun _ _ _ h =>
  Res.ite_wf trivial (Res.ite_wf trivial (Res.ite_wf trivial (wf_of_mem (quePutNow_mem ..) h)))

theorem queGetBody_keepsForm : Body.KeepsForm queGetBody := fun _ _ _ h =>
  Res.ite_wf trivial (Res.ite_wf trivial (Res.ite_wf trivial (wf_of_mem (by simp) h)))

theorem atomBody_keepsForm (home : Bool) (op : AtomOp) : (atomBody home op).KeepsForm := fun _ _ _ h =>
  Res.ite_wf trivial (Res.ite_wf trivial (Res.ite_wf trivial
    (Res.ite_wf (wf_of_mem (by simp) h) (wf_of_mem (by simp) h))))

theorem stepWaitBody_keepsForm : Body.KeepsForm stepWaitBody := fun _ _ _ h => Res.ite_wf h h

/-! ## What the other commands may leave -/

/-- The outcome is no state, or one of canonical memory. -/
def outcomeWf : Host.Outcome State Fault Refusal → Prop
  | .next s => Memory.wf s.mem
  | _ => True

theorem releaseFenceClear_wf (t : Fin 16) (s : State) (h : Memory.wf s.mem) : outcomeWf (execReleaseFenceClear t s) := by
  unfold execReleaseFenceClear
  split
  · exact ite_wf (wf_of_mem (sendAtom_mem ..) h) h
  · exact h

/-- CMD.X runs as the push it is. -/
theorem cmdX_wf (t : Fin 16) (s : State) (h : Memory.wf s.mem) : outcomeWf (execCmdX t s) := by
  unfold execCmdX
  dsimp only
  split
  · exact ite_wf (wf_of_mem (owedPush_mem t s) h) h
  · have inline : outcomeWf (execEnqI t s) := usherRow_wf _ _ (by exact fun t w s h => enqBody_wf _ _ _ t s h) t s h
    have pair : outcomeWf (execEnqR t s) := usherRow_wf _ _ (by exact fun t w s h => enqBody_wf _ _ _ t s h) t s h
    split
    · split
      · exact inline
      · exact h
    · split
      · exact pair
      · exact h
    · exact h

theorem mgmtRegRead_wf (a : Nat) (s : State) (h : Memory.wf s.mem) : Memory.wf (mgmtRegRead a s).mem := by
  unfold mgmtRegRead
  refine ite_wf ?_ ?_
  · split
    · exact ite_wf h h
    · exact ite_wf (wf_of_mem (regRead_mem _ _ s) h) h
  · exact h

/-- A crossing that any voltage brings leaves memory alone. -/
theorem droop_keeps_mem (microvolts : Nat) (s : State) : (droop microvolts s).mem = s.mem := by
  unfold droop
  exact ite_mem rfl (relevel_mem _)

/-- A register row is a write that its originator performs (R369). -/
theorem regRow_wf (o : Originator) (p : Page) (off : Nat) (v : BitVec 64) (s : State) (h : Memory.wf s.mem) :
    outcomeWf (regRow o p off v s) := regStore_wf o p off v s h

/-- Every command keeps the canonical form: an instruction of Usher by its body, a register row by what a write may do, an
operation that stores by its own law, and every other as it leaves memory alone. -/
theorem exec_wf (i : Instr) (s : State) (h : Memory.wf s.mem) : outcomeWf (exec i s) := by
  cases i
  case add t | sub t | and t | or t | xor t | shl t | shr t | sra t | slt t | sltu t | min t | max t | mul t | mulhu t =>
    exact usherRow_wf _ _ (regBody_keepsForm _) t s h
  case addi t | andi t | ori t | xori t | shi t | slti t => exact usherRow_wf _ _ (immBody_keepsForm _) t s h
  case movz t | movk t => exact usherRow_wf _ _ (by exact fun _ _ _ h => h) t s h
  case ldB t | ldBu t | ldH t | ldHu t | ldW t | ldWu t | ldD t => exact usherRow_wf _ _ (loadBody_keepsForm _ _) t s h
  case stB t | stH t | stW t | stD t => exact usherRow_wf _ _ (storeBody_keepsForm _) t s h
  case beq t | bne t | blt t | bge t | bltu t | bgeu t => exact usherRow_wf _ _ (branchBody_keepsForm _) t s h
  case j t | jal t => exact usherRow_wf _ _ (by exact fun _ _ _ h => jumpTo_wf _ _ h) t s h
  case jr t | fwRet t => exact usherRow_wf _ _ (by exact fun _ _ _ h => jumpFull_wf _ _ h) t s h
  case enqI t | enqR t => exact usherRow_wf _ _ (by exact fun t _ s h => enqBody_wf _ _ _ t s h) t s h
  case enqH t => exact usherRow_wf _ _ enqHBody_keepsForm t s h
  case stepWait t => exact usherRow_wf _ _ stepWaitBody_keepsForm t s h
  case stepEnd t | taskEnd t => exact usherRow_wf _ _ (by exact fun _ _ _ h => h) t s h
  case syncWait t => exact usherRow_wf _ _ syncWaitBody_keepsForm t s h
  case syncAdd t | syncSet t => exact usherRow_wf _ _ (syncChangeBody_keepsForm _ _) t s h
  case syncRd t => exact usherRow_wf _ _ (syncOpBody_keepsForm _ _) t s h
  case queCfg t => exact usherRow_wf _ _ queCfgBody_keepsForm t s h
  case quePut t => exact usherRow_wf _ _ quePutBody_keepsForm t s h
  case queGet t => exact usherRow_wf _ _ queGetBody_keepsForm t s h
  case atomAdd t | atomMax t | atomMin t | atomAnd t | atomOr t | atomSwap t | atomCas t | atomQput t | atomHAdd t
      | atomHSwap t | atomHCas t => exact usherRow_wf _ _ (atomBody_keepsForm _ _) t s h
  case owedPush t => exact wf_of_mem (owedPush_mem t s) h
  case releaseFenceClear t => exact releaseFenceClear_wf t s h
  case cmdX t => exact cmdX_wf t s h
  case opaResume o a v | tilePauseWrite o v | tileResume o v | tileDiscard o v | vecRetry o v | vecDiscard o v |
      strmResume o n v | strmDiscard o n v | galRetrain o g v | fabRetrain o v | galRelayWrite o g e delta v | fabIdWrite o
      v | fabWheelWrite o v | winCtlWrite o w v | winFieldWrite o w field v | hallScrubStart o tier v | hallPwrWrite o tier
      v | landCfgWrite o l v | landOvfWrite o l v | landTagset o v | syncValWrite o v | stepCfgWrite o v | stepLenWrite o v
      | stepSlackWrite o v | stepGuardWrite o v | latSelWrite o v | ushRunSet o v | ushRunClear o v | ushImemSplitWrite o v
      | ushTaskWrite o v | threadStart o t v | threadStop o t v | wdogKick o v | wdogCtlWrite o v | pwrCapWrite o v |
      pwrWinWrite o v | pwrDroopWrite o v | clusterReset o v | hashStart o v | cluModeWrite o v | cluFwidWrite o v |
      evtClear o v | mgmtReqHdrWrite o v | mgmtRspHdrWrite o v | testReadThreadReg o unit index | testWriteThreadReg o unit
      index | testReadVreg o unit index | testWriteVreg o unit index | testReadMask o unit index | testWriteMask o unit
      index | testReadTile o unit index | testWriteTile o unit index | testReadAcc o unit index | testWriteAcc o unit index
      =>
    exact regRow_wf _ _ _ _ s h
  case pageEvtClear o slot v => exact slotStore_wf o _ _ _ s h
  case registerWrite o a v => exact registerWrite_wf o _ v s h
  case mgmtRegisterRead a => exact mgmtRegRead_wf _ s h
  case hallAccessGrant b inner flagged => exact accessGrant_wf _ inner flagged s h
  case outerCodeWriteback id => exact writeback_wf id s h
  case stepMarkNormal c o => exact markNormal_wf c o s h
  case stepMarkStop => exact markStop_wf s h
  case mgmtMemRead a flagged => exact mgmtMem_wf none _ flagged s h
  case mgmtMemWrite a v flagged => exact mgmtMem_wf (some v) _ flagged s h
  case mgmtTaskStart => exact mgmtTaskStart_wf s h
  case mgmtEvtSweep => exact mgmtEvtSweep_wf s h
  case mgmtThreadRestart => exact mgmtThreadRestart_wf s h
  case selftestDone e n => exact selftest_wf e n s h
  case powerOnReset => exact powerOnReset_wf s
  case tcfg | trel => exact wf_of_mem (tileStart_mem _ startCfg startCfg_mem s) h
  case tld | tst => exact wf_of_mem (tileStart_mem _ startMove startMove_mem s) h
  case fltStg => exact wf_of_mem (fltRow_mem _ _ startStg (by simp) s) h
  case fltAdr => exact wf_of_mem (fltRow_mem _ _ startAdr (by simp) s) h
  case fltGo => exact wf_of_mem (fltRow_mem _ _ startFlight (by simp) s) h
  case trdLoad => exact wf_of_mem (fltRow_mem _ _ startTrd (by simp) s) h
  case fabRdReq | fabWr => exact ite_wf h (wf_of_mem (by simp) h)
  case galReadRequest g _ seq a n => exact ite_wf h (wf_of_mem (galTake_mem g _ _ _ (serveRead_mem g seq a n) s) h)
  case galReadResponse g _ id data => exact ite_wf h (wf_of_mem (galTake_mem g _ _ _ (readAnswer_mem g id data) s) h)
  case fabRdRsp | fabWrAck | fabAtomRsp | fabErrRsp => exact ite_wf (wf_of_mem (by simp) h) h
  case taskEnded => exact ite_wf h h
  case galReplayRequest => exact ite_wf h (ite_wf (wf_of_mem (by simp) h) (wf_of_mem (by simp) h))
  case galAck g _ => exact wf_of_mem (galTake_mem g _ _ _ (galAcked_mem g _) s) h
  case galErrorResponse g _ code => exact wf_of_mem (galTake_mem g _ _ _ (galErrAnswer_mem g _ code) s) h
  case droopCrossing v => exact wf_of_mem (droop_keeps_mem v s) h
  all_goals exact wf_of_mem (by simp) h

end Sys2Proof.Machine

namespace Sys2Proof

open Sys2Proof.Machine

/-- Settles O59: a step is a cycle of the clock or the command at the front of the queue, and both keep the form. -/
theorem memoryCanonical : Obligations.MemoryCanonical := fun s s' wf next => by
  unfold step at next
  split at next
  case h_1 => exact Host.Outcome.next.inj next ▸ tick_wf s wf
  case h_2 c rest _ =>
    have kept : outcomeWf (exec c { s with pending := rest }) := exec_wf c _ wf
    rwa [next] at kept

end Sys2Proof


/-! SUPPORT of the instruction rows: what an instruction that has its slot leaves, said once for a body that goes on, one
that faults and one that waits. -/

namespace Sys2Proof.Machine

section

variable {t : Fin 16} {o : UOp} {w : BitVec 32} {s : State}

/-- What `Claims.issues` asks of the state. -/
theorem issues_conditions (h : Claims.issues s t o w = true) :
    s.hasSlot t o w = true ∧ fetchPriv s t = false ∧ fetchWord s (s.thread t).pc = w ∧ decodeUsher w = some o ∧
      (o ≠ .fwRet ∨ t = fwThread) ∧ pendingReg (s.thread t) o w = none := by
  have parts : (s.hasSlot t o w && !fetchPriv s t && fetchWord s (s.thread t).pc == w && decodeUsher w == some o &&
      (o != .fwRet || t == fwThread) && pendingReg (s.thread t) o w == none) = true := h
  simpa [and_assoc] using parts

theorem readIns_of_issues (h : Claims.issues s t o w = true) (body : Body) :
    readIns o body t s = some (o, w, body t w s) := by
  obtain ⟨-, unlocked, word, decoded, firmware, free⟩ := issues_conditions h
  exact readIns_body unlocked word decoded firmware free

theorem hasSlot_of_issues (h : Claims.issues s t o w = true) : s.hasSlot t o w = true := (issues_conditions h).1

/-- `s` once thread `t` has issued the instruction that left `s1`: it is `f` of what it was, its slot is used and its energy
spent. -/
def State.issuedAs (s s1 : State) (t : Fin 16) (o : UOp) (w : BitVec 32) (f : Thread → Thread) : State :=
  modThread t f ((useSlot t (s.turn t) o w s1).spend .issue (some t) 1)

theorem usherRow_of_next (h : Claims.issues s t o w = true) {body : Body} {s1 : State} {pc : BitVec 18}
    (goes : body t w s = .next s1 pc) : usherRow o body t s = s.issuedAs s1 t o w (Claims.goesOn · pc) :=
  usherRow_next (hasSlot_of_issues h) (goes ▸ readIns_of_issues h body)

theorem usherRow_of_fault (h : Claims.issues s t o w = true) {body : Body} {code : Nat} (faults : body t w s = .fault code) :
    usherRow o body t s = preciseFault t code (useSlot t (s.turn t) o w s) :=
  usherRow_fault (hasSlot_of_issues h) (faults ▸ readIns_of_issues h body)

theorem usherRow_of_wait (h : Claims.issues s t o w = true) {body : Body} {st : TState} (waits : body t w s = .wait st) :
    usherRow o body t s = modThread t (fun th => { th with st := st }) (useSlot t (s.turn t) o w s) :=
  usherRow_wait (hasSlot_of_issues h) (waits ▸ readIns_of_issues h body)

/-- An issue changes its thread, the slots of the cycle and the energy of what the instruction left. -/
theorem issuedAs_eq (s s1 : State) (t : Fin 16) (o : UOp) (w : BitVec 32) (f : Thread → Thread) :
    s.issuedAs s1 t o w f = { s1 with
      energy := (s1.spend .issue (some t) 1).energy,
      ush := { s1.ush with
        threads := s1.ush.threads.set t (f (s1.thread t)),
        slot0 := (s.issuedAs s1 t o w f).ush.slot0, slotsUsed := (s.issuedAs s1 t o w f).ush.slotsUsed } } := by
  unfold State.issuedAs useSlot
  split <;> rfl

@[simp] theorem issuedAs_thread (s s1 : State) (t u : Fin 16) (o : UOp) (w : BitVec 32) (f : Thread → Thread) :
    (s.issuedAs s1 t o w f).thread u = if u = t then f (s1.thread t) else s1.thread u := by
  rw [issuedAs_eq]
  simp only [State.thread, Fin.getElem_fin, Vector.getElem_set, Fin.ext_iff, eq_comm]

/-- An instruction that left all but its own thread as it was. -/
theorem issuedAs_onlyThread (s : State) (t : Fin 16) (o : UOp) (w : BitVec 32) (g f : Thread → Thread) :
    Claims.OnlyThread s (s.issuedAs (modThread t g s) t o w f) t (f (g (s.thread t))) := by
  have same : (modThread t g s).thread t = g (s.thread t) := by rw [modThread_thread, if_pos rfl]
  refine (issuedAs_eq ..).trans ?_
  rw [same]
  simp only [modThread, Vector.set_set]
  rfl

theorem modThread_id (t : Fin 16) (s : State) : modThread t id s = s := by simp [modThread]

/-! ## A register that an instruction writes -/

theorem setReg_eq (th : Thread) (r : Fin 32) (v : BitVec 64) :
    th.setReg r v = { th with regs := (th.setReg r v).regs } := by unfold Thread.setReg; split <;> rfl

@[simp] theorem goesOn_regs (th : Thread) (pc : BitVec 18) : (Claims.goesOn th pc).regs = th.regs := by
  unfold Claims.goesOn; dsimp only; split <;> rfl

@[simp] theorem goesOn_reg (th : Thread) (pc : BitVec 18) (r : Fin 32) : (Claims.goesOn th pc).reg r = th.reg r := by
  simp [Thread.reg]

theorem goesOn_withRegs (th : Thread) (regs : Vector (BitVec 64) 32) (pc : BitVec 18) :
    Claims.goesOn { th with regs := regs } pc = { Claims.goesOn th pc with regs := regs } := by
  unfold Claims.goesOn; dsimp only; split <;> rfl

/-- An instruction that goes on at `pc` with register `r` holding `v`. -/
theorem issuedAs_result (s : State) (t : Fin 16) (o : UOp) (w : BitVec 32) (r : Fin 32) (v : BitVec 64) (pc : BitVec 18) :
    Claims.Result s (s.issuedAs (modThread t (fun th => th.setReg r v) s) t o w (Claims.goesOn · pc)) t r v pc := by
  have only := issuedAs_onlyThread s t o w (fun th => th.setReg r v) (Claims.goesOn · pc)
  have thread : (s.issuedAs (modThread t (fun th => th.setReg r v) s) t o w (Claims.goesOn · pc)).thread t =
      Claims.goesOn ((s.thread t).setReg r v) pc := by
    rw [issuedAs_thread, if_pos rfl, modThread_thread, if_pos rfl]
  refine ⟨fun q => by rw [thread, goesOn_reg, Thread.setReg_reg], ?_⟩
  rw [thread, goesOn_regs, ← goesOn_withRegs, ← setReg_eq]
  exact only

/-- An instruction that goes on at `pc` and changes nothing else. -/
theorem issuedAs_went (s : State) (t : Fin 16) (o : UOp) (w : BitVec 32) (pc : BitVec 18) :
    Claims.Went s (s.issuedAs s t o w (Claims.goesOn · pc)) t pc := by
  have only := issuedAs_onlyThread s t o w id (Claims.goesOn · pc)
  rwa [modThread_id] at only

end

end Sys2Proof.Machine


/-! PROOF of O2: the value and the frame of Usher's arithmetic instructions. -/

namespace Sys2Proof.Machine

/-! ## The values -/

theorem sub_eq_ofInt (a b : BitVec 64) : a - b = BitVec.ofInt 64 (a.toNat - b.toNat) := by
  apply BitVec.eq_of_toNat_eq
  simp only [BitVec.toNat_sub, BitVec.toNat_ofInt]
  omega

theorem shl_eq_ofNat (a b : BitVec 64) : a <<< shAmt b = BitVec.ofNat 64 (a.toNat * 2 ^ (b.toNat % 64)) := by
  simp [shAmt, BitVec.toNat_eq, Nat.shiftLeft_eq]

theorem shr_eq_ofNat (a b : BitVec 64) : a >>> shAmt b = BitVec.ofNat 64 (a.toNat / 2 ^ (b.toNat % 64)) := by
  apply BitVec.eq_of_toNat_eq
  have small : a.toNat / 2 ^ (b.toNat % 64) < 2 ^ 64 := (Nat.div_le_self ..).trans_lt a.isLt
  simp only [shAmt, BitVec.toNat_ushiftRight, BitVec.toNat_ofNat, Nat.shiftRight_eq_div_pow]
  exact (Nat.mod_eq_of_lt small).symm

theorem sltWord_slt (a b : BitVec 64) : sltWord (a.slt b) = if a.toInt < b.toInt then 1 else 0 := by
  simp [sltWord, BitVec.slt_iff_toInt_lt]

theorem sltWord_ult (a b : BitVec 64) : sltWord (a.ult b) = if a.toNat < b.toNat then 1 else 0 := by
  simp [sltWord, BitVec.ult_iff_lt, BitVec.lt_def]

theorem sMin_eq (a b : BitVec 64) : sMin a b = if a.toInt ≤ b.toInt then a else b := by
  unfold sMin
  rw [BitVec.slt_eq_decide]
  by_cases h : b.toInt < a.toInt
  · rw [if_pos (by simpa using h), if_neg (by omega)]
  · rw [if_neg (by simpa using h), if_pos (by omega)]

/-- MAX of two numbers, of which the later one wins where they are equal: they are then one. -/
theorem sMax_eq (a b : BitVec 64) : sMax a b = if a.toInt ≤ b.toInt then b else a := by
  unfold sMax
  rw [BitVec.slt_eq_decide]
  by_cases h : a.toInt < b.toInt
  · rw [if_pos (by simpa using h), if_pos (by omega)]
  · by_cases e : a.toInt = b.toInt
    · rw [if_neg (by simpa using h), if_pos (by omega), BitVec.eq_of_toInt_eq e]
    · rw [if_neg (by simpa using h), if_neg (by omega)]

theorem wZimm_eq (w : BitVec 32) : wZimm w = Claims.imm w := by
  apply BitVec.eq_of_toNat_eq
  simp only [wZimm, wImm, Claims.imm, BitVec.toNat_setWidth, BitVec.extractLsb'_toNat, BitVec.toNat_ofNat]
  omega

theorem shiWord_eq (a : BitVec 64) (w : BitVec 32) : shiWord a w =
    if w.toNat / 64 % 4 = 0 then a <<< (w.toNat % 64) else if w.toNat / 64 % 4 = 1 then a >>> (w.toNat % 64)
      else a.sshiftRight (w.toNat % 64) := by
  have amount : fld w 0 6 = w.toNat % 64 := by simp [fld]
  have select : fld w 6 2 = w.toNat / 64 % 4 := by simp [fld, Nat.shiftRight_eq_div_pow]
  unfold shiWord
  rw [amount, select]
  split
  case h_1 e => rw [if_pos e]
  case h_2 e => rw [if_neg (by omega), if_pos e]
  case h_3 n0 n1 => rw [if_neg n0, if_neg n1]

theorem movPlace_eq (w : BitVec 32) : 16 * fld w 16 2 = 16 * (w.toNat / 2 ^ 16 % 4) := by
  simp [fld, Nat.shiftRight_eq_div_pow]

/-! ## Rows that write rd -/

/-- A row whose body writes `f` of its thread's registers and word to rd. -/
theorem computes_of_writeRd {o : UOp} {i : Fin 16 → Instr} {body : Body} {f : Thread → BitVec 32 → BitVec 64}
    (row : ∀ t s, exec (i t) s = .next (usherRow o body t s))
    (writes : ∀ t w s, body t w s = writeRd t w (f (s.thread t) w) s) : Claims.Computes o i f := fun t s w h =>
  ⟨_, (row t s).trans (congrArg _ (usherRow_of_next h (writes t w s))), issuedAs_result ..⟩

theorem computesReg_of_regBody {o : UOp} {i : Fin 16 → Instr} {g f : BitVec 64 → BitVec 64 → BitVec 64}
    (row : ∀ t s, exec (i t) s = .next (usherRow o (regBody g) t s)) (value : ∀ a b, g a b = f a b) :
    Claims.ComputesReg o i f :=
  computes_of_writeRd row fun t w s => by rw [regBody, value]

theorem computes_of_immBody {o : UOp} {i : Fin 16 → Instr} {g : BitVec 64 → BitVec 32 → BitVec 64}
    {f : Thread → BitVec 32 → BitVec 64} (row : ∀ t s, exec (i t) s = .next (usherRow o (immBody g) t s))
    (value : ∀ th w, g (th.reg (wRa w)) w = f th w) : Claims.Computes o i f :=
  computes_of_writeRd row fun t w s => by rw [immBody, value]

end Sys2Proof.Machine

namespace Sys2Proof

open Sys2Proof.Machine

theorem aluRegisterResults : Claims.AluRegisterResults :=
  ⟨computesReg_of_regBody (fun _ _ => rfl) fun a b => by simp [BitVec.ofNat_add],
    computesReg_of_regBody (fun _ _ => rfl) sub_eq_ofInt,
    computesReg_of_regBody (fun _ _ => rfl) fun _ _ => rfl, computesReg_of_regBody (fun _ _ => rfl) fun _ _ => rfl,
    computesReg_of_regBody (fun _ _ => rfl) fun _ _ => rfl,
    computesReg_of_regBody (fun _ _ => rfl) shl_eq_ofNat,
    computesReg_of_regBody (fun _ _ => rfl) shr_eq_ofNat,
    computesReg_of_regBody (fun _ _ => rfl) fun _ _ => rfl,
    computesReg_of_regBody (fun _ _ => rfl) sltWord_slt, computesReg_of_regBody (fun _ _ => rfl) sltWord_ult,
    computesReg_of_regBody (fun _ _ => rfl) sMin_eq, computesReg_of_regBody (fun _ _ => rfl) sMax_eq,
    computesReg_of_regBody (fun _ _ => rfl) fun a b => by simp [BitVec.ofNat_mul],
    computesReg_of_regBody (fun _ _ => rfl) fun _ _ => rfl⟩

theorem aluImmediateResults : Claims.AluImmediateResults :=
  ⟨computes_of_immBody (fun _ _ => rfl) fun th w => by rw [wSimm_eq, Claims.simm],
    computes_of_immBody (fun _ _ => rfl) fun th w => by rw [wZimm_eq],
    computes_of_immBody (fun _ _ => rfl) fun th w => by rw [wZimm_eq],
    computes_of_immBody (fun _ _ => rfl) fun th w => by rw [wZimm_eq],
    computes_of_immBody (fun _ _ => rfl) fun th w => by rw [sltWord_slt, wSimm_eq, Claims.simm],
    computes_of_immBody (fun _ _ => rfl) fun th w => shiWord_eq _ w,
    computes_of_writeRd (fun _ _ => rfl) fun t w s => by rw [movWord, wZimm_eq, movPlace_eq],
    computes_of_writeRd (fun _ _ => rfl) fun t w s => by rw [movWord, movMask, wZimm_eq, movPlace_eq]⟩

/-- Settles O2: each row writes its value to rd and goes on. -/
theorem aluResults : Obligations.AluResults := ⟨aluRegisterResults, aluImmediateResults⟩

end Sys2Proof


/-! SUPPORT of the rows that fault, and REFUTATION of O3: what a precise fault leaves (R69 to R71), and where a JAL in the last
word of instruction memory returns to. -/

namespace Sys2Proof.Machine

/-! ## What a task abort and a precise fault leave of Usher -/

@[simp] theorem dropFences_ush (ts : List (Fin 16)) (s : State) : (dropFences ts s).ush = s.ush := releaseAll_ush ..

theorem haltThread_st (th : Thread) : (haltThread th).st = Claims.stopped th.st := by
  unfold haltThread
  split <;> simp_all [Claims.stopped]

theorem haltThread_of_faulted {th : Thread} (h : th.st = .faulted) : haltThread th = th := by
  simp [haltThread, h]

@[simp] theorem taskAbort_task (s : State) : (taskAbort s).ush.task = .aborted := by
  simp [taskAbort, stopEngines_ush]

@[simp] theorem taskAbort_thread (s : State) (u : Fin 16) :
    (taskAbort s).thread u = if u = 15 then s.thread u else haltThread (s.thread u) := by
  have number : (u : Nat) = 15 ↔ u = 15 := by rw [Fin.ext_iff]; rfl
  simp [taskAbort, State.thread, stopEngines_ush, number]

/-- A task that runs or stands loaded is aborted once; one that is aborted stays so. -/
theorem abortFor_task (p : Page) (code : Nat) (seq : BitVec 32) (s : State) : (abortFor p code seq s).ush.task = .aborted := by
  unfold abortFor
  split
  · assumption
  · exact taskAbort_task _

theorem abortFor_thread (p : Page) (code : Nat) (seq : BitVec 32) (s : State) (u : Fin 16) :
    (abortFor p code seq s).thread u =
      if s.ush.task = .aborted ∨ u = 15 then s.thread u else haltThread (s.thread u) := by
  have record (v : Fin 16) : (jobFatal p code seq s).thread v = s.thread v := by simp [State.thread]
  unfold abortFor
  split
  · rw [if_pos (.inl ‹_›)]
  · rw [taskAbort_thread, record]
    simp [*]

/-- Thread `th` once the instruction at `pc` has raised `code`. -/
def Thread.faultedAt (th : Thread) (pc : BitVec 18) (code : Nat) : Thread :=
  { th with pc := pc, st := .faulted, fault := BitVec.ofNat 8 code }

/-- `u` has the memory, the mode, the threads and the task of `s`: what a fault speaks of. -/
structure SameUsher (s u : State) : Prop where
  mem : u.mem = s.mem
  clu : u.clu = s.clu
  threads : u.ush.threads = s.ush.threads
  task : u.ush.task = s.ush.task
  inHandler : u.ush.inHandler = s.ush.inHandler
  fwTop : u.ush.fwTop = s.ush.fwTop

theorem SameUsher.thread {s u : State} (same : SameUsher s u) (t : Fin 16) : u.thread t = s.thread t := by
  simp [State.thread, same.threads]

theorem SameUsher.trans {s u v : State} (h : SameUsher s u) (k : SameUsher u v) : SameUsher s v :=
  ⟨k.mem.trans h.mem, k.clu.trans h.clu, k.threads.trans h.threads, k.task.trans h.task, k.inHandler.trans h.inHandler,
    k.fwTop.trans h.fwTop⟩

theorem useSlot_sameUsher (t : Fin 16) (turn : Turn) (o : UOp) (w : BitVec 32) (s : State) :
    SameUsher s (useSlot t turn o w s) := by
  rw [useSlot_eq]
  exact ⟨rfl, rfl, rfl, rfl, rfl, rfl⟩

theorem logEvt_sameUsher (p : Page) (bit : Nat) (log : BitVec 64) (s : State) : SameUsher s (logEvt p bit log s) := by
  constructor <;> simp

/-- The thread of a fault stands at it with everything else it held. -/
theorem faults_of_task_thread {s s' : State} {t : Fin 16} {code : Nat} (task : t ≠ 15) (mem : s'.mem = s.mem)
    (thread : s'.thread t = (s.thread t).faultedAt (s.thread t).pc code)
    (aborts : s.clu.live = false → s'.ush.task = .aborted ∧ (s.ush.task ≠ .aborted → ∀ u, u ≠ t → u ≠ 15 →
      (s'.thread u).st = Claims.stopped (s.thread u).st))
    (stays : s.clu.live = true → s'.ush.task = s.ush.task ∧ ∀ u, u ≠ t → s'.thread u = s.thread u) :
    Claims.Faults s s' t code := by
  unfold Claims.Faults
  dsimp only
  rw [thread]
  exact ⟨mem, rfl, rfl, rfl, fun _ => ⟨rfl, rfl, fun _ => rfl, aborts, stays⟩, fun e => absurd e task⟩

/-- A precise fault of a task thread: it is FAULTED, and the task is aborted unless the live mode holds (R69, R70). -/
theorem preciseFault_faults_of_task {s u : State} (same : SameUsher s u) {t : Fin 16} (task : t ≠ 15) (code : Nat) :
    Claims.Faults s (preciseFault t code u) t code := by
  unfold preciseFault preciseFaultAt
  have noted := same.trans (logEvt_sameUsher .ush 1 (defaultLog code t.val u.ush.pushSeq.toNat) u)
  generalize logEvt .ush 1 (defaultLog code t.val u.ush.pushSeq.toNat) u = v at noted
  rw [same.thread]
  have other : t ≠ fwThread := task
  simp only [other, if_false]
  generalize stands : modThread t (fun th => { th with pc := (s.thread t).pc, st := .faulted, fault := BitVec.ofNat 8 code }) v
    = x
  have thread (r : Fin 16) : x.thread r =
      if r = t then (s.thread t).faultedAt (s.thread t).pc code else s.thread r := by
    rw [← stands, modThread_thread, noted.thread, noted.thread]
    rfl
  have mem : x.mem = s.mem := by rw [← stands]; exact noted.mem
  have clu : x.clu = s.clu := by rw [← stands]; exact noted.clu
  have state : x.ush.task = s.ush.task := by rw [← stands]; exact noted.task
  by_cases live : s.clu.live = true
  · rw [if_pos (clu ▸ live)]
    exact faults_of_task_thread task mem (by rw [thread, if_pos rfl]) (fun off => by simp [live] at off)
      fun _ => ⟨state, fun r away => by rw [thread, if_neg away]⟩
  · rw [if_neg (clu ▸ live)]
    refine faults_of_task_thread task (by simpa using mem) ?_ (fun _ => ⟨abortFor_task .., ?_⟩) fun on => absurd on live
    · rw [abortFor_thread, thread, if_pos rfl, haltThread_of_faulted rfl, ite_self]
    · intro runs r away off
      rw [abortFor_thread, if_neg (by simp [state, runs, off]), haltThread_st, thread, if_neg away]

/-- The fault vector of R71 as a number. -/
theorem faultVector_toNat (s : State) :
    (faultVector s).toNat = (s.ush.fwTop.toNat * 4096 + 0x40000 - 256) % 0x40000 := by
  have top := s.ush.fwTop.isLt
  have size : (256 : BitVec 18).toNat = 256 := rfl
  simp only [faultVector, BitVec.toNat_sub, BitVec.toNat_ofNat, size]
  omega

/-- Thread `th` at the vector `v` of a fault with `code` at `pc`. -/
def Thread.vectored (th : Thread) (v pc : BitVec 18) (code : Nat) : Thread :=
  { (th.setReg 31 (BitVec.ofNat 64 code)).setReg 30 (fullPc pc) with pc := v, st := .ready, fault := BitVec.ofNat 8 code }

/-- Inside its handler thread 15 stands FAULTED at the fault. -/
theorem firmwareFault_inside {s : State} (inside : s.ush.inHandler = true) (code : Nat) (pc : BitVec 18) :
    firmwareFault code pc s = modThread 15 (fun th => th.faultedAt pc code) s := by
  unfold firmwareFault
  rw [if_pos inside]
  rfl

/-- Outside its handler thread 15 goes to its vector. -/
theorem firmwareFault_outside {s : State} (outside : s.ush.inHandler ≠ true) (code : Nat) (pc : BitVec 18) :
    (firmwareFault code pc s).mem = s.mem ∧ (firmwareFault code pc s).ush.task = s.ush.task ∧
      (firmwareFault code pc s).ush.inHandler = true ∧ ∀ r, (firmwareFault code pc s).thread r =
        if r = 15 then (s.thread 15).vectored (faultVector s) pc code else s.thread r := by
  unfold firmwareFault
  rw [if_neg outside]
  exact ⟨rfl, rfl, rfl, fun r => modThread_thread 15 r (fun th => th.vectored (faultVector s) pc code) s⟩

/-- A precise fault of thread 15: it goes to its vector, and inside its handler it stands FAULTED (R71). -/
theorem preciseFault_faults_of_firmware {s u : State} (same : SameUsher s u) (code : Nat) :
    Claims.Faults s (preciseFault 15 code u) 15 code := by
  unfold preciseFault preciseFaultAt
  have noted := same.trans (logEvt_sameUsher .ush 1 (defaultLog code (15 : Fin 16).val u.ush.pushSeq.toNat) u)
  generalize logEvt .ush 1 (defaultLog code (15 : Fin 16).val u.ush.pushSeq.toNat) u = v at noted
  rw [same.thread]
  simp only [fwThread, if_true]
  by_cases inside : s.ush.inHandler = true
  · have thread (r : Fin 16) : (firmwareFault code (s.thread 15).pc v).thread r =
        if r = 15 then (s.thread 15).faultedAt (s.thread 15).pc code else s.thread r := by
      rw [firmwareFault_inside (noted.inHandler ▸ inside), modThread_thread, noted.thread, noted.thread]
    simp only [Claims.Faults, thread, if_true]
    rw [firmwareFault_inside (noted.inHandler ▸ inside)]
    exact ⟨noted.mem, rfl, rfl, rfl, fun e => absurd rfl e, fun _ => ⟨noted.task, fun r away => if_neg away,
      fun _ => ⟨rfl, rfl, fun _ => rfl⟩, fun off => by simp [inside] at off⟩⟩
  · obtain ⟨mem, task, handler, thread⟩ := firmwareFault_outside (noted.inHandler ▸ inside) code (s.thread 15).pc
    simp only [noted.thread] at thread
    have vector : (faultVector v).toNat = (s.ush.fwTop.toNat * 4096 + 0x40000 - 256) % 0x40000 := by
      rw [faultVector_toNat, noted.fwTop]
    simp only [Claims.Faults, thread, if_true]
    refine ⟨mem.trans noted.mem, by simp [Thread.vectored], by simp [Thread.vectored], rfl, fun e => absurd rfl e, fun _ =>
      ⟨task.trans noted.task, fun r away => if_neg away, fun on => absurd on inside, fun _ =>
        ⟨vector, rfl, handler, fun r => ?_⟩⟩⟩
    have value : ((s.thread 15).vectored (faultVector v) (s.thread 15).pc code).reg r =
        (((s.thread 15).setReg 31 (BitVec.ofNat 64 code)).setReg 30 (fullPc (s.thread 15).pc)).reg r := rfl
    rw [value, Thread.setReg_reg, Thread.setReg_reg]
    by_cases zero : r = 0
    · subst zero; rfl
    · by_cases link : r = 30
      · subst link; rfl
      · simp [zero, link]

/-- A precise fault as R69 to R71 give it. -/
theorem preciseFault_faults {s u : State} (same : SameUsher s u) (t : Fin 16) (code : Nat) :
    Claims.Faults s (preciseFault t code u) t code := by
  by_cases firmware : t = 15
  · subst firmware
    exact preciseFault_faults_of_firmware same code
  · exact preciseFault_faults_of_task same firmware code

theorem usherRow_faults {t : Fin 16} {o : UOp} {w : BitVec 32} {s : State} (h : Claims.issues s t o w = true) {body : Body}
    {code : Nat} (faults : body t w s = .fault code) : Claims.Faults s (usherRow o body t s) t code := by
  rw [usherRow_of_fault h faults]
  exact preciseFault_faults (useSlot_sameUsher ..) t code

end Sys2Proof.Machine

namespace Sys2Proof

open Sys2Proof.Machine

/-! ## JAL in the last word of instruction memory -/

/-- JAL to the word before it. -/
def jalBack : Nat := Tests.ins 0x27 0 0 0x3FFFFFF

/-- Thread 0 READY at the last word of instruction memory, which holds `jalBack`. -/
def atLastWord : State :=
  Tests.word 0x3FFFC jalBack (modThread 0 (fun th => { th with pc := 0x3FFFC, st := .ready }) Tests.base)

set_option maxRecDepth 100000 in
theorem atLastWord_issues : Claims.issues atLastWord 0 .jal (Tests.bv32 jalBack) = true := by decide

set_option maxRecDepth 100000 in
/-- The model's return address wraps to the first word (assumption 21). -/
theorem atLastWord_link : Tests.nx (exec (.jal 0) atLastWord) (fun s => (s.thread 0).reg 31 == 0x20000000) = true := by
  decide

/-- Refutes O3: a JAL in the last word of instruction memory returns to the first one, 0x2000_0000, where the statement asks
for 0x2004_0000, which lies outside. -/
theorem not_branchesJumps : ¬ Obligations.BranchesJumps := fun ⟨_, jumps⟩ => by
  obtain ⟨-, jal, -, -⟩ := jumps 0 atLastWord (Tests.bv32 jalBack)
  obtain ⟨s', next, result, -⟩ := jal atLastWord_issues (by decide) (by decide)
  have link := atLastWord_link
  rw [next] at link
  have wraps : (s'.thread 0).reg 31 = 0x20000000 := by simpa [Tests.nx] using link
  exact absurd ((result 31).symm.trans wraps) (by decide)

end Sys2Proof


/-! PROOF of O4 and O5: loads and stores of Hall and Lower Hall, and the precise faults of their addresses. -/

namespace Sys2Proof.Machine

/-! ## What an issue keeps of what the instruction left -/

section

variable (s s1 : State) (t : Fin 16) (o : UOp) (w : BitVec 32) (f : Thread → Thread)

@[simp] theorem issuedAs_range : (s.issuedAs s1 t o w f).range = s1.range := by rw [issuedAs_eq]
@[simp] theorem issuedAs_reqs : (s.issuedAs s1 t o w f).reqs = s1.reqs := by rw [issuedAs_eq]
@[simp] theorem issuedAs_jobs : (s.issuedAs s1 t o w f).jobs = s1.jobs := by rw [issuedAs_eq]
@[simp] theorem issuedAs_nextId : (s.issuedAs s1 t o w f).nextId = s1.nextId := by rw [issuedAs_eq]
@[simp] theorem issuedAs_rangeHigh : (s.issuedAs s1 t o w f).ush.rangeHigh = s1.ush.rangeHigh := by rw [issuedAs_eq]

end

theorem goesOn_withPend (th : Thread) (p : List (Nat × Fin 32)) (pc : BitVec 18) :
    Claims.goesOn { th with pend := p } pc = { Claims.goesOn th pc with pend := p } := by
  unfold Claims.goesOn; dsimp only; split <;> rfl

/-! ## Where a load or store goes -/

/-- The widths of Usher's accesses. -/
def accessWidth (n : Nat) : Prop := n = 1 ∨ n = 2 ∨ n = 4 ∨ n = 8

theorem lsAddr_eq (s : State) (t : Fin 16) (w : BitVec 32) :
    lsAddr s t w = ((s.thread t).reg (wRa w) + Claims.simm w).toNat := by
  rw [lsAddr, wSimm_eq, Claims.simm]

/-- The first byte of bytes in Hall or one Lower Hall tier lies there. -/
theorem inSram_first {b : Build} {a n : Nat} (pos : 1 ≤ n) (h : inSram b a n = true) : inSram b a 1 = true := by
  simp only [inSram, inHall, inLower, Bool.or_eq_true, Bool.and_eq_true, decide_eq_true_eq] at *
  rcases h with hall | ⟨low, high⟩ | ⟨⟨tiers, low⟩, high⟩
  · exact .inl (by omega)
  · exact .inr (.inl ⟨low, by omega⟩)
  · exact .inr (.inr ⟨⟨tiers, low⟩, by omega⟩)

theorem lsTarget_sram {b : Build} {a n : Nat} (width : accessWidth n) (h : inSram b a n = true) (aligned : a % n = 0) :
    lsTarget b a n = .sram := by
  unfold lsTarget
  rw [if_pos (inSram_first (by rcases width with rfl | rfl | rfl | rfl <;> omega) h), if_pos aligned]

theorem rangeFull_of_room {s : State} (room : s.range.length < 64) : s.rangeFull = false := by
  exact decide_eq_false (Nat.not_le.mpr room)

theorem lsTarget_fault {b : Build} {a n code : Nat} (h : Claims.accessFault b a n = some code) :
    lsTarget b a n = .fault code := by
  have pages : inPages a 1 = true ↔ 0x30000000 ≤ a ∧ a < 0x30040000 := by
    have base : Config.pageBase = 0x30000000 := rfl
    have space : Config.pageSpace = 0x40000 := rfl
    simp only [inPages, base, space, Bool.and_eq_true, decide_eq_true_eq]
    omega
  unfold Claims.accessFault at h
  unfold lsTarget
  simp only [pages]
  split at h
  · rw [if_pos ‹_›]
    split at h
    · simp at h
    · rw [if_neg ‹_›, ← Option.some.inj h]
  · rw [if_neg ‹_›]
    split at h
    · rw [if_pos ‹_›]
      split at h
      · simp at h
      · rw [if_neg ‹_›, ← Option.some.inj h]
    · rw [if_neg ‹_›, ← Option.some.inj h]

/-! ## The accesses a load and a store request -/

theorem addRead_aligned {a n : Nat} (width : accessWidth n) (aligned : a % n = 0) (job tag : Nat) (unit : MemUnit)
    (entry : Option Nat) (s : State) :
    addRead job tag unit entry a n s = addReq job tag (rankOf unit) unit entry a n none s := by
  rw [addRead, lineChunks_aligned a n aligned width]
  rfl

theorem addWrite_aligned {a : Nat} {bytes : List (BitVec 8)} (width : accessWidth bytes.length)
    (aligned : a % bytes.length = 0) (job tag : Nat) (unit : MemUnit) (entry : Option Nat) (s : State) :
    addWrite job tag unit entry a bytes s =
      addReq job tag (rankOf unit) unit entry a bytes.length (some (cellsAt a bytes)) s := by
  rw [addWrite, lineChunks_aligned a bytes.length aligned width]
  simp

/-- `s` with the access of thread `t` taken in: its entry, its job and the request of its one line. -/
def State.accessing (s : State) (t : Fin 16) (kind : JobKind) (a n : Nat) (wr : Option (List Host.Cell)) : State :=
  { s with
    range := s.range ++ [⟨s.nextId, a, a + n - 1, wr.isSome, .usher, none, true⟩],
    jobs := s.jobs.map (fun j => if j.id = s.nextId + 1 then { j with left := j.left + 1 } else j) ++
      [⟨s.nextId + 1, kind, [], 1, 0, 0, none, [s.nextId], s.ush.pushSeq.toNat, some t, none, false, 0, 0⟩],
    reqs := s.reqs ++ [⟨s.nextId + 2, s.nextId + 1, 0, 80, .usher, some s.nextId, a, n, wr⟩],
    nextId := s.nextId + 3,
    ush := { s.ush with rangeHigh := BitVec.ofNat 7 (max s.ush.rangeHigh.toNat (s.range.length + 1)) } }

theorem addReq_accessing (s : State) (t : Fin 16) (kind : JobKind) (a n : Nat) (wr : Option (List Host.Cell)) :
    let e := takeEntry a (a + n - 1) wr.isSome .usher none s
    let j := addJob kind [e.1] s.ush.pushSeq.toNat (some t) none e.2
    addReq j.1 0 (rankOf .usher) .usher (some e.1) a n wr j.2 = s.accessing t kind a n wr := by
  simp [takeEntry, addJob, addReq, modJob, rankOf, State.accessing]

theorem loadBody_sram {s : State} {t : Fin 16} {w : BitVec 32} {n : Nat} (width : accessWidth n)
    (place : inSram s.build (lsAddr s t w) n = true) (aligned : lsAddr s t w % n = 0) (room : s.range.length < 64)
    (sg : Bool) : loadBody n sg t w s =
      .next (modThread t (fun th => { th with pend := th.pend ++ if wRd w = 0 then [] else [(s.nextId + 1, wRd w)] })
        (s.accessing t (.load t (wRd w) (lsAddr s t w) n sg (s.thread t).pc) (lsAddr s t w) n none)) (s.pcNext t) := by
  unfold loadBody
  simp only [lsTarget_sram width place aligned, rangeFull_of_room room, addRead_aligned width aligned]
  rw [← addReq_accessing]
  rfl

theorem storeBody_sram {s : State} {t : Fin 16} {w : BitVec 32} {n : Nat} (width : accessWidth n)
    (place : inSram s.build (lsAddr s t w) n = true) (aligned : lsAddr s t w % n = 0) (room : s.range.length < 64) :
    storeBody n t w s = .next (s.accessing t (.store t (s.thread t).pc) (lsAddr s t w) n
      (some (cellsAt (lsAddr s t w) (leBytes ((s.thread t).reg (wRd w)).toNat n)))) (s.pcNext t) := by
  have len : (leBytes ((s.thread t).reg (wRd w)).toNat n).length = n := leBytes_length ..
  unfold storeBody
  simp only [lsTarget_sram width place aligned, rangeFull_of_room room]
  rw [addWrite_aligned (by rwa [len]) (by rwa [len]), len, ← addReq_accessing]
  rfl

/-! ## The rows -/

theorem loadIssues_of_width {o : UOp} {i : Fin 16 → Instr} {n : Nat} {sg : Bool} (width : accessWidth n)
    (row : ∀ t s, exec (i t) s = .next (usherRow o (loadBody n sg) t s)) : Claims.LoadIssues o i n sg := by
  intro t s w h th a place aligned room
  have addr : lsAddr s t w = a := lsAddr_eq s t w
  refine ⟨_, row t s, ?_⟩
  rw [usherRow_of_next h (loadBody_sram width (addr ▸ place) (addr ▸ aligned) room sg), addr]
  refine ⟨by simp [State.accessing], by simp [State.accessing, Claims.loadJob, th], by simp [State.accessing], ?_⟩
  refine (issuedAs_eq ..).trans ?_
  simp only [issuedAs_range, issuedAs_jobs, issuedAs_reqs, issuedAs_rangeHigh, modThread_thread, if_true, goesOn_withPend]
  simp only [modThread, Vector.set_set]
  rfl

theorem storeIssues_of_width {o : UOp} {i : Fin 16 → Instr} {n : Nat} (width : accessWidth n)
    (row : ∀ t s, exec (i t) s = .next (usherRow o (storeBody n) t s)) : Claims.StoreIssues o i n := by
  intro t s w h th a place aligned room
  have addr : lsAddr s t w = a := lsAddr_eq s t w
  have len : (leBytes (th.reg (wRd w)).toNat n).length = n := leBytes_length ..
  refine ⟨_, row t s, ?_⟩
  rw [usherRow_of_next h (storeBody_sram width (addr ▸ place) (addr ▸ aligned) room), addr]
  refine ⟨by simp [State.accessing], ⟨_, by rw [issuedAs_reqs, State.accessing], rfl, rfl, rfl, rfl, _, rfl,
    by simp [cellsAt], fun k less => ?_⟩, ?_⟩
  · simp [cellsAt, leBytes, less, extractLsb'_eq_ofNat, Nat.pow_mul, th]
  · refine (issuedAs_eq ..).trans ?_
    simp only [issuedAs_range, issuedAs_jobs, issuedAs_reqs, issuedAs_rangeHigh, issuedAs_nextId]
    rfl

theorem accessFaults_of_load {o : UOp} {i : Fin 16 → Instr} {n : Nat} {sg : Bool}
    (row : ∀ t s, exec (i t) s = .next (usherRow o (loadBody n sg) t s)) : Claims.AccessFaults o i n := by
  intro t s w code h fault
  have body : loadBody n sg t w s = .fault code := by
    unfold loadBody
    simp only [lsAddr_eq, lsTarget_fault fault]
  exact ⟨_, row t s, usherRow_faults h body⟩

theorem accessFaults_of_store {o : UOp} {i : Fin 16 → Instr} {n : Nat}
    (row : ∀ t s, exec (i t) s = .next (usherRow o (storeBody n) t s)) : Claims.AccessFaults o i n := by
  intro t s w code h fault
  have body : storeBody n t w s = .fault code := by
    unfold storeBody
    simp only [lsAddr_eq, lsTarget_fault fault]
  exact ⟨_, row t s, usherRow_faults h body⟩

end Sys2Proof.Machine

namespace Sys2Proof

open Sys2Proof.Machine

theorem loadsIssue : Claims.LoadsIssue :=
  ⟨loadIssues_of_width (.inl rfl) fun _ _ => rfl, loadIssues_of_width (.inl rfl) fun _ _ => rfl,
    loadIssues_of_width (.inr (.inl rfl)) fun _ _ => rfl, loadIssues_of_width (.inr (.inl rfl)) fun _ _ => rfl,
    loadIssues_of_width (.inr (.inr (.inl rfl))) fun _ _ => rfl, loadIssues_of_width (.inr (.inr (.inl rfl))) fun _ _ => rfl,
    loadIssues_of_width (.inr (.inr (.inr rfl))) fun _ _ => rfl⟩

theorem storesIssue : Claims.StoresIssue :=
  ⟨storeIssues_of_width (.inl rfl) fun _ _ => rfl, storeIssues_of_width (.inr (.inl rfl)) fun _ _ => rfl,
    storeIssues_of_width (.inr (.inr (.inl rfl))) fun _ _ => rfl, storeIssues_of_width (.inr (.inr (.inr rfl))) fun _ _ => rfl⟩

/-- Settles O4: an aligned access of 1, 2, 4 or 8 bytes is one line request under one entry. -/
theorem loadsStoresIssue : Obligations.LoadsStoresIssue := ⟨loadsIssue, storesIssue⟩

/-- Settles O5: the address decides the fault before anything is taken. -/
theorem accessFaults : Obligations.AccessFaults :=
  ⟨accessFaults_of_load fun _ _ => rfl, accessFaults_of_load fun _ _ => rfl, accessFaults_of_load fun _ _ => rfl,
    accessFaults_of_load fun _ _ => rfl, accessFaults_of_load fun _ _ => rfl, accessFaults_of_load fun _ _ => rfl,
    accessFaults_of_load fun _ _ => rfl, accessFaults_of_store fun _ _ => rfl, accessFaults_of_store fun _ _ => rfl,
    accessFaults_of_store fun _ _ => rfl, accessFaults_of_store fun _ _ => rfl⟩

end Sys2Proof


/-! SUPPORT of pushes and PROOF of O8: the requests of several lines, and what refuses a push. -/

namespace Sys2Proof.Machine

/-! ## Requests of several lines -/

/-- The requests of job `job` for the pieces `cs`, numbered from `id` on. -/
def lineReqs {α : Type} (id job tag rank : Nat) (unit : MemUnit) (entry : Option Nat) (addr len : α → Nat)
    (wr : α → Option (List Host.Cell)) (cs : List α) : List LineReq :=
  cs.mapIdx fun i c => ⟨id + i, job, tag, rank, unit, entry, addr c, len c, wr c⟩

/-- `s` with `new` requests of job `job`, each of which it waits for. -/
def State.requesting (s : State) (job : Nat) (new : List LineReq) : State :=
  { s with
    nextId := s.nextId + new.length, reqs := s.reqs ++ new,
    jobs := s.jobs.map fun j => if j.id = job then { j with left := j.left + new.length } else j }

theorem foldl_addReq {α : Type} (job tag rank : Nat) (unit : MemUnit) (entry : Option Nat) (addr len : α → Nat)
    (wr : α → Option (List Host.Cell)) (cs : List α) (s : State) :
    cs.foldl (fun s c => addReq job tag rank unit entry (addr c) (len c) (wr c) s) s =
      s.requesting job (lineReqs s.nextId job tag rank unit entry addr len wr cs) := by
  induction cs generalizing s with
  | nil =>
    have same (j : Job) : (if j.id = job then { j with left := j.left + 0 } else j) = j := ite_self j
    simp [lineReqs, State.requesting]
  | cons c cs ih =>
    rw [List.foldl_cons, ih]
    have twice (j : Job) (n : Nat) : (fun j : Job => if j.id = job then { j with left := j.left + n } else j)
        (if j.id = job then { j with left := j.left + 1 } else j) =
        if j.id = job then { j with left := j.left + (n + 1) } else j := by
      by_cases mine : j.id = job
      · simp [mine, Nat.add_comm, Nat.add_left_comm]
      · simp [mine]
    simp only [lineReqs, State.requesting, addReq, modJob, List.mapIdx_cons, List.map_map, List.length_cons, List.length_mapIdx]
    congr 1
    · omega
    · simp [Nat.add_comm, Nat.add_left_comm]
    · rw [List.map_congr_left fun j _ => by exact twice j cs.length]

theorem addRead_eq (job tag : Nat) (unit : MemUnit) (entry : Option Nat) (a n : Nat) (s : State) :
    addRead job tag unit entry a n s = s.requesting job
      (lineReqs s.nextId job tag (rankOf unit) unit entry Prod.fst Prod.snd (fun _ => none) (lineChunks a n)) :=
  foldl_addReq ..

/-! ## A push that a check refuses -/

/-- A row whose push is refused: its fault, in the state that the push left. -/
theorem usherRow_of_trap {t : Fin 16} {o : UOp} {w : BitVec 32} {s s1 : State} (h : Claims.issues s t o w = true) {body : Body}
    {code : Nat} (trap : body t w s = .trap code s1) :
    usherRow o body t s = preciseFault t code (useSlot t (s.turn t) o w s1) := by
  have slot := hasSlot_of_issues h
  have read := trap ▸ readIns_of_issues h body
  unfold usherRow State.hasSlot at *
  cases h : s.turn t <;> simp_all [applyRes]

theorem modQueue_sameUsher (q : Fin 8) (f : EQueue → EQueue) (s : State) : SameUsher s (modQueue q f s) :=
  ⟨rfl, rfl, rfl, rfl, rfl, rfl⟩

theorem usherRow_trap_faults {t : Fin 16} {o : UOp} {w : BitVec 32} {s s1 : State} (h : Claims.issues s t o w = true)
    {body : Body} {code : Nat} (same : SameUsher s s1) (trap : body t w s = .trap code s1) :
    Claims.Faults s (usherRow o body t s) t code := by
  rw [usherRow_of_trap h trap]
  exact preciseFault_faults (same.trans (useSlot_sameUsher ..)) t code

theorem isWide_of_narrow {c : Cmd} (narrow : Claims.narrow c) : isWide c = false := by
  obtain ⟨-, store, scatter⟩ := narrow
  simp [isWide, store, scatter]

/-- The operands of a command as its push reads them. -/
def State.pushedOperands (s : State) (c : Cmd) : List (Nat × Nat × Bool) :=
  cmdOperands c (pushVl s) (if cOpc c = 0x1E then pushView s (goDef c) else [])

/-- A sound command of one entry is placed. -/
theorem tryPush_narrow {t : Fin 16} {q : Fin 8} {c : Cmd} {s : State} (version : s.lat.version ≠ 0)
    (free : (s.queue q).hold = none) (narrow : Claims.narrow c) (sound : pushBad s q c = false) :
    tryPush t q c s = placePush t q c 0 s := by
  unfold tryPush
  rw [if_neg version]
  simp [free, narrow.1, sound, isWide_of_narrow narrow]

theorem placePush_of_straddle {t : Fin 16} {q : Fin 8} {c : Cmd} {ext : BitVec 64} {s : State}
    (straddles : slotRange s (s.pushedOperands c) = true) :
    placePush t q c ext s = .fault 0x09 (modQueue q (fun x => { x with hold := none }) s) := if_pos straddles

theorem placePush_of_full {t : Fin 16} {q : Fin 8} {c : Cmd} {ext : BitVec 64} {s : State}
    (fits : slotRange s (s.pushedOperands c) = false) (full : 16 ≤ (s.queue q).count) : placePush t q c ext s = .queueWait :=
  (if_neg (by rw [← State.pushedOperands, fits]; decide)).trans (if_pos (Nat.lt_succ_of_le full))

/-! ## ENQ.R and ENQ.I by what their push comes to -/

/-- The body of ENQ.R: the command in Sb and Sa. -/
def enqRBody : Body := fun t w s => enqBody (wQ w) (Claims.pair s t w) 4 t s

theorem exec_enqR (t : Fin 16) (s : State) : exec (.enqR t) s = .next (usherRow .enqR enqRBody t s) := rfl

section

variable {t : Fin 16} {q : Fin 8} {c : Cmd} {len : BitVec 18} {s s1 : State}

theorem enqBody_of_fault {code : Nat} (push : tryPush t q c s = .fault code s1) : enqBody q c len t s = .trap code s1 := by
  unfold enqBody; rw [push]

theorem enqBody_of_done (push : tryPush t q c s = .done s1) : enqBody q c len t s = .next s1 ((s1.thread t).pc + len) := by
  unfold enqBody; rw [push]

theorem enqBody_of_full (push : tryPush t q c s = .queueWait) : enqBody q c len t s =
    .next (modThread t (fun th => { th with st := .waitQueue ⟨q, [c]⟩ }) s) (s.thread t).pc := by
  unfold enqBody; rw [push]

end

/-- A thread that its own instruction stopped only counts it. -/
theorem goesOn_of_waiting {th : Thread} (waits : th.st ≠ .ready) (pc : BitVec 18) :
    Claims.goesOn th pc = { th with pc := pc, issued := th.issued + 1 } := if_neg waits

end Sys2Proof.Machine

namespace Sys2Proof

open Sys2Proof.Machine

/-- Settles O8: each check of a push in its order, and the full queue behind them. -/
theorem pushRefusals : Obligations.PushRefusals := by
  intro t s w h th q c ops
  have refuses {code : Nat} {s1 : State} (same : SameUsher s s1) (push : tryPush t q c s = .fault code s1) :
      ∃ s', exec (.enqR t) s = .next s' ∧ Claims.Faults s s' t code :=
    ⟨_, exec_enqR t s, usherRow_trap_faults h same (enqBody_of_fault push)⟩
  refine ⟨fun version => ?_, fun version free bad => ?_, fun version free narrow sound straddles => ?_,
    fun version free narrow sound fits full => ?_⟩
  · exact refuses ⟨rfl, rfl, rfl, rfl, rfl, rfl⟩ (if_pos version)
  · refine refuses ⟨rfl, rfl, rfl, rfl, rfl, rfl⟩ ((if_neg version).trans ?_)
    rw [free]
    exact if_pos bad
  · exact refuses (modQueue_sameUsher ..) ((tryPush_narrow version free narrow sound).trans (placePush_of_straddle straddles))
  · have push : tryPush t q c s = .queueWait :=
      (tryPush_narrow version free narrow sound).trans (placePush_of_full fits full)
    refine ⟨_, exec_enqR t s, ?_⟩
    rw [usherRow_of_next h (enqBody_of_full push)]
    exact issuedAs_onlyThread ..

end Sys2Proof


/-! PROOF of O7: what a push that nothing refuses leaves, and what ENQ.H requests. -/

namespace Sys2Proof.Machine

/-! ## The entries that a push takes -/

/-- `n` numbers from `id` on. -/
def idsFrom (id n : Nat) : List Nat := (List.range n).map (id + ·)

theorem idsFrom_succ (id n : Nat) : idsFrom id (n + 1) = id :: idsFrom (id + 1) n := by
  simp [idsFrom, List.range_succ_eq_map, Function.comp_def, Nat.add_comm, Nat.add_left_comm]

/-- `s` with the entries of `ops` taken, the highest count now `high`. -/
def State.entered (s : State) (q : Fin 8) (ops : List (Nat × Nat × Bool)) (high : BitVec 7) : State :=
  { s with
    range := s.range ++ List.zipWith (Claims.pushEntry q) ops (idsFrom s.nextId ops.length),
    nextId := s.nextId + ops.length, ush := { s.ush with rangeHigh := high } }

theorem foldl_takeEntry (q : Fin 8) (ops : List (Nat × Nat × Bool)) (ids : List Nat) (s : State) :
    ∃ high, ops.foldl (fun (acc : List Nat × State) o =>
      let e := takeEntry o.1 (o.1 + o.2.1 - 1) o.2.2 (queueUnit q) none acc.2
      (acc.1 ++ [e.1], e.2)) (ids, s) = (ids ++ idsFrom s.nextId ops.length, s.entered q ops high) := by
  induction ops generalizing ids s with
  | nil => exact ⟨s.ush.rangeHigh, by simp [idsFrom, State.entered]⟩
  | cons o ops ih =>
    obtain ⟨high, taken⟩ := ih (ids ++ [s.nextId]) (takeEntry o.1 (o.1 + o.2.1 - 1) o.2.2 (queueUnit q) none s).2
    refine ⟨high, taken.trans ?_⟩
    simp [State.entered, takeEntry, idsFrom_succ, Claims.pushEntry, queueUnit, Nat.add_comm, Nat.add_left_comm]

/-! ## A push that is placed -/

/-- `s` with command `c` at the end of queue `q`. -/
def State.placed (s : State) (t : Fin 16) (q : Fin 8) (c : Cmd) (ext : BitVec 64) (high : BitVec 7) : State :=
  let ops := Claims.ungated s c
  { s.entered q ops high with
    ush := { s.ush with
      rangeHigh := high, pushSeq := s.ush.pushSeq + 1,
      queues := s.ush.queues.set q { hold := none, cmds := (s.queue q).cmds ++
        [⟨c, ext, (s.ush.pushSeq + 1).toNat, t, s.now, idsFrom s.nextId ops.length,
          if cOpc c = 0x1E then pushView s (goDef c) else [], pushVl s⟩] } } }

/-- What `Claims.pushes` asks of the push. -/
theorem pushes_conditions {s : State} {q : Fin 8} {c : Cmd} (h : Claims.pushes s q c = true) :
    s.lat.version ≠ 0 ∧ pushBad s q c = false ∧ slotRange s (s.pushedOperands c) = false ∧ (s.queue q).count + 1 ≤ 16 ∧
      (Claims.ungated s c = [] ∨ s.range.length + (Claims.ungated s c).length + 16 ≤ 64) := by
  simpa [Claims.pushes, State.pushedOperands, and_assoc] using h

theorem placePush_of_pushes {s : State} {q : Fin 8} {c : Cmd} (h : Claims.pushes s q c = true) (t : Fin 16) (ext : BitVec 64) :
    ∃ high, placePush t q c ext s = .done (s.placed t q c ext high) := by
  obtain ⟨-, -, fits, room, entries⟩ := pushes_conditions h
  obtain ⟨high, taken⟩ := foldl_takeEntry q (pushOperands s (cmdOperands c (pushVl s)
    (if cOpc c = 0x1E then pushView s (goDef c) else []))) [] s
  refine ⟨high, (if_neg (by rw [← State.pushedOperands, fits]; decide)).trans ((if_neg (Nat.not_lt.mpr room)).trans
    ((if_neg ?_).trans ?_))⟩
  · rintro ⟨some_op, full⟩
    have enough : ¬ (64 < s.range.length + (Claims.ungated s c).length + 16) := by
      rcases entries with none | enough
      · have len : 0 < (Claims.ungated s c).length := some_op
        simp [none] at len
      · omega
    exact enough full
  · dsimp only at taken
    rw [taken]
    rfl

@[simp] theorem issuedAs_pushed (s s1 : State) (t : Fin 16) (o : UOp) (w : BitVec 32) (f : Thread → Thread) :
    (s.issuedAs s1 t o w f).ush.pushed = s1.ush.pushed := by rw [issuedAs_eq]

/-- A row whose push is placed: the thread goes on behind its instruction. -/
theorem usherRow_pushed {t : Fin 16} {o : UOp} {w : BitVec 32} {s : State} (h : Claims.issues s t o w = true) {body : Body}
    {q : Fin 8} {c : Cmd} {ext : BitVec 64} {high : BitVec 7} {len : BitVec 18}
    (goes : body t w s = .next (s.placed t q c ext high) ((s.thread t).pc + len)) :
    Claims.Pushed s (usherRow o body t s) t q c ext (Claims.goesOn (s.thread t) ((s.thread t).pc + len))
      (Claims.issueSpent s t) := by
  rw [usherRow_of_next h goes]
  refine (issuedAs_eq ..).trans ?_
  rw [issuedAs_rangeHigh, issuedAs_pushed]
  rfl

/-! ## The command of ENQ.I -/

/-- A word placed above what a command holds so far. -/
theorem toNat_or_word {c : Cmd} {k : Nat} (low : c.toNat < 2 ^ k) (fits : k + 32 ≤ 128) (w : BitVec 32) :
    (c ||| (w.zeroExtend 128 <<< k)).toNat = c.toNat + 2 ^ k * w.toNat := by
  have small : w.toNat * 2 ^ k < 2 ^ 128 :=
    calc w.toNat * 2 ^ k < 2 ^ 32 * 2 ^ k := Nat.mul_lt_mul_of_pos_right w.isLt (Nat.two_pow_pos k)
      _ = 2 ^ (k + 32) := by rw [← Nat.pow_add, Nat.add_comm]
      _ ≤ 2 ^ 128 := Nat.pow_le_pow_right (by decide) fits
  have wide : (w.zeroExtend 128).toNat = w.toNat := BitVec.toNat_setWidth_of_le (by decide)
  rw [BitVec.toNat_or, BitVec.toNat_shiftLeft, wide, Nat.shiftLeft_eq, Nat.mod_eq_of_lt small, Nat.or_comm,
    ← Nat.shiftLeft_eq, ← Nat.shiftLeft_add_eq_or_of_lt low, Nat.shiftLeft_eq]
  ring

/-- Words placed one above the other. -/
theorem toNat_orWords (f : Nat → BitVec 32) {n : Nat} (few : n ≤ 4) :
    ((List.range n).foldl (fun (c : Cmd) i => c ||| ((f i).zeroExtend 128 <<< (32 * i))) 0).toNat =
      ∑ i ∈ Finset.range n, 2 ^ (32 * i) * (f i).toNat ∧
    ((List.range n).foldl (fun (c : Cmd) i => c ||| ((f i).zeroExtend 128 <<< (32 * i))) 0).toNat < 2 ^ (32 * n) := by
  induction n with
  | zero => simp
  | succ n ih =>
    obtain ⟨value, low⟩ := ih (by omega)
    rw [List.range_succ, List.foldl_append, List.foldl_cons, List.foldl_nil, toNat_or_word low (by omega)]
    refine ⟨by rw [value, Finset.sum_range_succ], ?_⟩
    have word := (f n).isLt
    calc _ < 2 ^ (32 * n) + 2 ^ (32 * n) * (f n).toNat := Nat.add_lt_add_right low _
      _ = 2 ^ (32 * n) * ((f n).toNat + 1) := by ring
      _ ≤ 2 ^ (32 * n) * 2 ^ 32 := Nat.mul_le_mul_left _ word
      _ = 2 ^ (32 * (n + 1)) := by rw [← Nat.pow_add]; rfl

theorem inlineCmd_eq (s : State) (t : Fin 16) : inlineCmd s (s.thread t).pc = Claims.inline s t := by
  have place (i : Nat) : (s.thread t).pc + 4 + BitVec.ofNat 18 (4 * i) = (s.thread t).pc + BitVec.ofNat 18 (4 + 4 * i) := by
    rw [BitVec.ofNat_add, BitVec.add_assoc]
    rfl
  obtain ⟨value, -⟩ := toNat_orWords (fun i => fetchWord s ((s.thread t).pc + BitVec.ofNat 18 (4 + 4 * i))) (Nat.le_refl 4)
  apply BitVec.eq_of_toNat_eq
  unfold inlineCmd Claims.inline
  simp only [place]
  rw [value, BitVec.toNat_ofNat, Nat.mod_eq_of_lt]
  · simp [Finset.sum_range_succ]
  · have b0 := (fetchWord s ((s.thread t).pc + BitVec.ofNat 18 (4 + 4 * 0))).isLt
    have b1 := (fetchWord s ((s.thread t).pc + BitVec.ofNat 18 (4 + 4 * 1))).isLt
    have b2 := (fetchWord s ((s.thread t).pc + BitVec.ofNat 18 (4 + 4 * 2))).isLt
    have b3 := (fetchWord s ((s.thread t).pc + BitVec.ofNat 18 (4 + 4 * 3))).isLt
    omega

/-! ## The rows -/

theorem idsFrom_length (id n : Nat) : (idsFrom id n).length = n := by simp [idsFrom]

/-- A push that its thread's instruction makes, of a command of one entry. -/
theorem pushed_of_narrow {t : Fin 16} {o : UOp} {w : BitVec 32} {s : State} (h : Claims.issues s t o w = true) {body : Body}
    {q : Fin 8} {c : Cmd} {len : BitVec 18} (enq : body t w s = enqBody q c len t s) (narrow : Claims.narrow c)
    (free : (s.queue q).hold = none) (pushes : Claims.pushes s q c = true) :
    Claims.Pushed s (usherRow o body t s) t q c 0 (Claims.goesOn (s.thread t) ((s.thread t).pc + len))
      (Claims.issueSpent s t) := by
  obtain ⟨version, sound, -⟩ := pushes_conditions pushes
  obtain ⟨high, placed⟩ := placePush_of_pushes pushes t 0
  exact usherRow_pushed h (enq.trans (enqBody_of_done ((tryPush_narrow version free narrow sound).trans placed)))

/-- The first entry of a wide command is held. -/
theorem tryPush_wide {t : Fin 16} {q : Fin 8} {c : Cmd} {s : State} (version : s.lat.version ≠ 0)
    (free : (s.queue q).hold = none) (wide : isWide c = true) (sound : pushBad s q c = false)
    (room : (s.queue q).count < 16) : tryPush t q c s = .done (modQueue q (fun x => { x with hold := some (t, c) }) s) := by
  have entry : cOpc c ≠ 0 := fun zero => by simp [isWide, zero] at wide
  unfold tryPush
  rw [if_neg version, free]
  exact (if_neg (by simp [entry, sound])).trans ((if_pos wide).trans (if_neg (Nat.not_lt.mpr room)))

/-- The extension of a held first entry is placed with it. -/
theorem tryPush_extension {t : Fin 16} {q : Fin 8} {c first : Cmd} {s : State} (version : s.lat.version ≠ 0)
    (held : (s.queue q).hold = some (t, first)) (extension : cOpc c = 0) (sound : pushBad s q c = false) :
    tryPush t q c s = placePush t q first (c.extractLsb' 64 64) s := by
  unfold tryPush
  rw [if_neg version, held]
  exact (if_pos rfl).trans (if_pos ⟨extension, by rw [sound]; rfl⟩)

theorem exec_cmdX_enqR {t : Fin 16} {w : BitVec 32} {s : State} (h : Claims.issues s t .enqR w = true)
    (nothing : (s.thread t).owed? = none) (extension : cOpc (Claims.pair s t w) = 0) :
    exec (.cmdX t) s = .next (usherRow .enqR enqRBody t s) := by
  obtain ⟨-, -, word, decoded, -⟩ := issues_conditions h
  have row : exec (.cmdX t) s = execCmdX t s := rfl
  rw [row]
  unfold execCmdX
  simp only [nothing, word, decoded]
  exact if_pos extension

theorem owedNow_of_pushes {t : Fin 16} {q : Fin 8} {c : Cmd} {r : List Cmd} {s s1 : State}
    (owes : (s.thread t).owed? = some ⟨q, c :: r⟩) (fresh : s.ush.pushed.contains t = false)
    (runs : s.step.phase ≠ .stopped) (push : tryPush t q c s = .done s1) : s.owedNow t = true := by
  simp [State.owedNow, State.stopHeld, owes, fresh, runs, push]
  simpa using fresh

theorem owedPush_of_done {t : Fin 16} {q : Fin 8} {c : Cmd} {r : List Cmd} {s s1 : State}
    (owes : (s.thread t).owed? = some ⟨q, c :: r⟩) (clocked : s.clocked = true) (ready : s.clu.phase = .ready)
    (slot : s.ush.slot0 = none) (now : s.owedNow t = true) (first : (s.aheadOf t).any s.owedNow = false)
    (push : tryPush t q c s = .done s1) :
    owedPush t s = owedNext t ⟨q, c :: r⟩ { s1 with ush := { s1.ush with pushed := t :: s1.ush.pushed } } := by
  unfold owedPush
  rw [if_neg (by simp [clocked, ready, slot, now, first]), owes]
  simp only [push]

/-! ## ENQ.H -/

/-- `s` with the read of thread `t` taken in: its entry, its job and the requests of its lines. -/
def State.fetching (s : State) (t : Fin 16) (kind : JobKind) (a n : Nat) : State :=
  let e := takeEntry a (a + n - 1) false .usher none s
  let j := addJob kind [e.1] s.ush.pushSeq.toNat (some t) none e.2
  j.2.requesting j.1 (lineReqs (s.nextId + 2) j.1 0 80 .usher (some e.1) Prod.fst Prod.snd (fun _ => none) (lineChunks a n))

theorem mem_lineReqs {α : Type} {id job tag rank : Nat} {unit : MemUnit} {entry : Option Nat} {addr len : α → Nat}
    {wr : α → Option (List Host.Cell)} {cs : List α} {r : LineReq} (h : r ∈ lineReqs id job tag rank unit entry addr len wr cs) :
    r.job = job ∧ r.tag = tag ∧ r.rank = rank ∧ r.unit = unit ∧ r.entry = entry ∧ ∃ c ∈ cs, r.addr = addr c ∧ r.len = len c ∧ r.wr = wr c := by
  obtain ⟨i, less, rfl⟩ := List.mem_mapIdx.mp h
  exact ⟨rfl, rfl, rfl, rfl, rfl, _, List.getElem_mem less, rfl, rfl, rfl⟩

theorem lineReqs_map {α β : Type} (id job tag rank : Nat) (unit : MemUnit) (entry : Option Nat) (addr len : α → Nat)
    (wr : α → Option (List Host.Cell)) (cs : List α) (f : LineReq → β) (g : α → β)
    (h : ∀ i c, f ⟨i, job, tag, rank, unit, entry, addr c, len c, wr c⟩ = g c) :
    (lineReqs id job tag rank unit entry addr len wr cs).map f = cs.map g := by
  apply List.ext_getElem <;> simp [lineReqs, h]

end Sys2Proof.Machine

namespace Sys2Proof

open Sys2Proof.Machine

theorem pushesJoinQueue : Claims.PushesJoinQueue := by
  intro t s w th q
  refine ⟨fun h narrow free pushes => ?_, fun h narrow free pushes => ?_, fun h wide free version sound room => ?_,
    fun first h extension held nothing sound pushes => ?_,
    fun q c r owes clocked ready slot fresh runs ahead narrow free pushes => ?_⟩
  · exact ⟨_, rfl, pushed_of_narrow h (congrArg (enqBody q · 20 t s) (inlineCmd_eq s t)) narrow free pushes⟩
  · exact ⟨_, exec_enqR t s, pushed_of_narrow h rfl narrow free pushes⟩
  · refine ⟨_, exec_enqR t s, ?_⟩
    rw [usherRow_of_next h (enqBody_of_done (tryPush_wide version free wide sound room))]
    exact issuedAs_eq ..
  · obtain ⟨version, -⟩ := pushes_conditions pushes
    obtain ⟨high, placed⟩ := placePush_of_pushes pushes t ((Claims.pair s t w).extractLsb' 64 64)
    have push := (tryPush_extension version held extension sound).trans placed
    rw [← extractLsb'_eq_ofNat]
    exact ⟨_, exec_cmdX_enqR h nothing extension, usherRow_pushed h (enqBody_of_done push)⟩
  · obtain ⟨version, sound, -⟩ := pushes_conditions pushes
    obtain ⟨high, placed⟩ := placePush_of_pushes pushes t 0
    have push := (tryPush_narrow version free narrow sound).trans placed
    have first : (s.aheadOf t).any s.owedNow = false := List.any_eq_false.mpr fun u m => by simp [ahead u m]
    have result := owedPush_of_done owes clocked ready slot (owedNow_of_pushes owes fresh runs push) first push
    refine ⟨_, congrArg Host.Outcome.next result, ?_⟩
    cases r with
    | nil => exact ⟨rfl, rfl⟩
    | cons c' r => exact ⟨rfl, rfl⟩

/-- ENQ.H takes an entry for the commands it reads and asks for their lines. -/
theorem enqHFetches : Claims.EnqHFetches := by
  intro t s w h th a n aligned place room
  have count : fld w 0 4 + 1 = n := by simp [fld, n]
  have goes : enqHBody t w s = .next (modThread t (fun th => { th with st := .waitData (.enqh (s.nextId + 1)) })
      (s.fetching t (.enqh t (wQ w) a n th.pc) a (16 * n))) th.pc := by
    unfold enqHBody
    simp only [count]
    rw [if_neg (by simpa using aligned), if_neg (by simpa using place), if_neg (by simp [rangeFull_of_room room]),
      addRead_eq]
    rfl
  refine ⟨_, rfl, ?_⟩
  rw [usherRow_of_next h goes]
  refine ⟨issuedAs_range .., ⟨_, issuedAs_reqs .., ?_, fun r m => ?_⟩, ?_⟩
  · rw [lineReqs_map (g := id) (h := fun _ _ => rfl), List.map_id]
  · obtain ⟨job, -, -, unit, entry, -, -, -, -, wr⟩ := mem_lineReqs m
    exact ⟨job, unit, entry, wr⟩
  · refine (issuedAs_eq ..).trans ?_
    simp only [issuedAs_range, issuedAs_jobs, issuedAs_reqs, issuedAs_rangeHigh, issuedAs_nextId, modThread_thread, if_true]
    simp only [modThread, Vector.set_set]
    rfl

/-- Settles O7: what is placed joins its queue with its entries, and ENQ.H fetches. -/
theorem pushes : Obligations.Pushes := ⟨pushesJoinQueue, enqHFetches⟩

end Sys2Proof


/-! ## Register writes whose every bit the originator may write: the row, and the fields of what it writes -/

namespace Sys2Proof.Machine

/-- A row that writes a page's own register, of fields `m`, by one who may write all of it. -/
theorem regRow_of_writes {o : Originator} {p : Page} {off : Nat} {s : State} (h : Claims.writes o p off s)
    (own : 0x40 ≤ off) {m : BitVec 64} (fields : (regFields s.build p off).all = m) (some_field : m ≠ 0) (v : BitVec 64) :
    regRow o p off v s = .next (Claims.answered o p (pageWrite (o == .mgmt) p off (v &&& m) s)) := by
  have write := regWrite_of_mayWrite (mayWrite_of_writes h) (Nat.not_lt.mpr own) (fields ▸ some_field) v
  rw [fields] at write
  rw [regRow, regStore_of_writes h, write]

/-- The same, of a write whose effect is known. -/
theorem regRow_effect {o : Originator} {p : Page} {off : Nat} {s s' : State} (h : Claims.writes o p off s)
    (own : 0x40 ≤ off) {m : BitVec 64} (fields : (regFields s.build p off).all = m) (some_field : m ≠ 0) {v : BitVec 64}
    (effect : pageWrite (o == .mgmt) p off (v &&& m) s = s') :
    regRow o p off v s = .next (Claims.answered o p s') :=
  effect ▸ regRow_of_writes h own fields some_field v

theorem extractLsb'_and_field {m : BitVec 64} {lo len : Nat} (h : m.extractLsb' lo len = BitVec.allOnes len) (v : BitVec 64) :
    (v &&& m).extractLsb' lo len = BitVec.ofNat len (v.toNat / 2 ^ lo) := by
  rw [extractLsb'_and_mask h, extractLsb'_eq_ofNat]

theorem fld_and_field {m : BitVec 64} {lo len : Nat} (h : m.extractLsb' lo len = BitVec.allOnes len) (v : BitVec 64) :
    fld (v &&& m) lo len = v.toNat / 2 ^ lo % 2 ^ len := by
  rw [fld_eq_toNat_extractLsb', extractLsb'_and_field h, BitVec.toNat_ofNat]

theorem bitAt_and_field {m : BitVec 64} {i : Nat} (h : m.getLsbD i = true) (v : BitVec 64) :
    bitAt (v &&& m) i = decide (v.toNat / 2 ^ i % 2 = 1) := by
  rw [bitAt, BitVec.getLsbD_and, h, Bool.and_true, BitVec.getLsbD, Nat.testBit_eq_decide_div_mod_eq]

theorem put_one_bit (i j : Nat) : (put i 1).getLsbD j = (decide (j < 64) && decide (i = j)) := by
  rw [put, BitVec.getLsbD_ofNat, Nat.one_shiftLeft, Nat.testBit_two_pow]

/-- The bit that a row names is set in what it writes. -/
theorem bitAt_setBit_and {m : BitVec 64} {i : Nat} (h : m.getLsbD i = true) (small : i < 64) (v : BitVec 64) :
    bitAt (setBit i v &&& m) i = true := by
  have one : (put i 1).getLsbD i = true := by simp [put_one_bit, small]
  simp [bitAt, setBit, one, h]

theorem bitAt_setBit_and_ne {m : BitVec 64} {i j : Nat} (h : m.getLsbD j = true) (ne : j ≠ i) (v : BitVec 64) :
    bitAt (setBit i v &&& m) j = decide (v.toNat / 2 ^ j % 2 = 1) := by
  have zero : (put i 1).getLsbD j = false := by simp [put_one_bit, ne.symm]
  rw [← bitAt_and_field h]
  simp [bitAt, setBit, zero]

end Sys2Proof.Machine


/-! ## Start-up, the firmware's measure and the test ports -/

namespace Sys2Proof.Machine

theorem testable_eq (s : State) : s.testable = decide (s.clu.phase = .reset ∨ s.clu.phase = .failed) := by
  rw [State.testable, Bool.decide_or]

/-- The flag of an occurrence stands after it. -/
theorem countEvt_flag_set {bit : Nat} (small : bit < 32) (p : Page) (s : State) :
    ((countEvt p bit s).hdrOf p).evt.toNat / 2 ^ bit % 2 = 1 := by
  have one : (BitVec.ofNat 32 (2 ^ bit)).getLsbD bit = true := by
    rw [BitVec.getLsbD_ofNat, Nat.testBit_two_pow_self]
    simpa using small
  rw [← bitAt_eq_true_iff, countEvt_flag, bitAt, BitVec.getLsbD_or, one, Bool.or_true]

@[simp] theorem bootFail_fuse (cause : Nat) (s : State) : (bootFail cause s).fuse = s.fuse := by simp [bootFail]
@[simp] theorem bootFail_lat (cause : Nat) (s : State) : (bootFail cause s).lat = s.lat := by simp [bootFail]

theorem bootFail_failed (cause : Nat) (small : cause < 16) (s : State) :
    (bootFail cause s).clu.phase = .failed ∧ (bootFail cause s).clu.cause.toNat = cause ∧
      ((bootFail cause s).hdrOf .clu).evt.toNat / 4 % 2 = 1 ∧ (bootFail cause s).mem = s.mem :=
  ⟨by simp [bootFail], by simp [bootFail, Nat.mod_eq_of_lt small], countEvt_flag_set (by decide) .clu _, by simp [bootFail]⟩

theorem clu_hashStart_fields (s : State) : (regFields s.build .clu 0x70).all = 1 := by
  simp [regFields, woOnly, Access3.all]

theorem hashStart_set (v : BitVec 64) (s : State) : hashStart (setBit 0 v &&& 1) s =
    if s.clu.phase ≠ .ready ∨ s.ush.run ∨ s.ush.fwTop = 0 ∨ s.clu.hashBusy then cluBad s
    else { s with clu := { s.clu with hashBusy := true, hashDone := false, hashLocked := true, hashAt := s.now } } := by
  rw [hashStart, if_pos (bitAt_setBit_and (by decide) (by decide) v)]

/-! ### The digest, the mode and the identity of the firmware -/

theorem fwBytes_eq (s : State) : s.fwBytes = 4096 * s.ush.fwTop.toNat := Nat.mul_comm ..

theorem hashFinish_of_due {s : State} (busy : s.clu.hashBusy = true) (clocked : s.clocked = true)
    (due : s.clu.hashAt + 80 * (4096 * s.ush.fwTop.toNat / 128 + 1) ≤ s.now) :
    hashFinish s = { s with clu := { s.clu with
      hashBusy := false, hashDone := true, digest := sha384 s (4096 * s.ush.fwTop.toNat) } } := by
  rw [← fwBytes_eq] at due ⊢
  rw [hashFinish, if_pos ⟨busy, clocked, due⟩]

theorem hashFinish_of_early {s : State} (early : s.now < s.clu.hashAt + 80 * (4096 * s.ush.fwTop.toNat / 128 + 1)) :
    hashFinish s = s := by
  rw [← fwBytes_eq] at early
  exact if_neg fun ⟨_, _, due⟩ => absurd due (Nat.not_le.mpr early)

/-- The fields of CLU_FWID. -/
def fwidMask : BitVec 64 := bitsMask 0 24

theorem cluFwid_and_mask (v : BitVec 64) (s : State) : cluFwid (v &&& fwidMask) s =
    if s.clu.fwidValid then s else { s with clu := { s.clu with
      fwVersion := BitVec.ofNat 16 v.toNat, ifMajor := BitVec.ofNat 8 (v.toNat / 2 ^ 16), fwidValid := true } } := by
  have version : (v &&& fwidMask).extractLsb' 0 16 = BitVec.ofNat 16 v.toNat := by
    rw [extractLsb'_and_field (by decide), Nat.pow_zero, Nat.div_one]
  have major : (v &&& fwidMask).extractLsb' 16 8 = BitVec.ofNat 8 (v.toNat / 2 ^ 16) := extractLsb'_and_field (by decide) v
  rw [cluFwid, version, major]

/-! ### The phases of the start-up, and the resets -/

/-- `s` with the shadow that holds `img`. -/
def State.shadowed (s : State) (img : FuseImage) : State :=
  { s with
    fuse := { s.fuse with
      loaded := true, checkBad := img.bad, passThru := img.passThru, corrected := img.corrected, hard := img.hard,
      raw := img.raw, fmaxOp := img.fmaxOp, pcapMax := img.pcapMax },
    lat := { s.lat with honour := img.honour, stepping := img.stepping } }

section
variable {s : State} (alive : s.pwr.coolStopped = false)
include alive

theorem fuseLoad_of_fuse (fuse : s.clu.phase = .fuse) (img : FuseImage) : fuseLoad img s =
    if img.bad then bootFail 1 (s.shadowed img) else { s.shadowed img with clu := { s.clu with phase := .clock } } := by
  simp [fuseLoad, fuse, alive, State.shadowed]

theorem clockLocked_of_clock (clock : s.clu.phase = .clock) : clockLocked s = { s with
    clu := { s.clu with phase := if s.fuse.passThru then .pass else .selftest },
    step := { s.step with freeCycles := 0, freeNonBubble := 0, freeMt := 0, mtFrac := 0 },
    pwr := { s.pwr with iCyc := 0, iNonBubble := 0, iMt := 0 } } := by
  simp [clockLocked, clock, alive]

theorem clockFail_of_clock (clock : s.clu.phase = .clock) : clockFail s = bootFail 7 s := by
  simp [clockFail, clock, alive]

/-- `s` with the spares of a march, and the array class without one left, if any. -/
def State.marched (s : State) (exhausted : Option (Fin 5)) (spares : BitVec 32) : State :=
  { s with
    fuse := { s.fuse with soft := s.fuse.soft + spares.truncate 16 },
    test := { s.test with
      mbistFail := match exhausted with | some k => BitVec.ofNat 5 (2 ^ k.val) | none => 0, mbistSpares := spares } }

theorem selftest_passed (tested : s.clu.phase = .selftest) (spares : BitVec 32) : selftest none spares s =
    { selftestZero (s.marched none spares) with clu := { s.clu with phase := .ready } } := by
  simp [selftest, tested, alive, State.marched, selftestZero]

theorem selftest_exhausted (tested : s.clu.phase = .selftest) (k : Fin 5) (spares : BitVec 32) :
    selftest (some k) spares s = bootFail (k.val + 2) (s.marched (some k) spares) := by
  simp [selftest, tested, alive, State.marched]

end

/-- `s` as a power-on reset leaves it, but for what a cluster reset keeps. -/
def State.clusterKept (s : State) : State :=
  { powerOnReset s with
    mgmt := { (powerOnReset s).mgmt with pending := s.mgmt.pending, reqSeq := s.mgmt.reqSeq },
    fuse := s.fuse,
    lat := { (powerOnReset s).lat with honour := s.lat.honour, stepping := s.lat.stepping },
    clu := { (powerOnReset s).clu with
      resets := satInc s.clu.resets, phase := if s.pwr.coolStopped || !s.fuse.loaded then .reset else .clock } }

theorem reset_thread (b : Build) (t : Fin 16) : ((State.resetOf b).thread t).st = .free := by
  simp [State.thread, State.resetOf, Usher.reset, Thread.reset]

theorem clusterReset_set (v : BitVec 64) (s : State) : clusterReset (setBit 0 v &&& 1) s = mgmtLost s.clusterKept := by
  rw [clusterReset, if_pos (bitAt_setBit_and (by decide) (by decide) v)]
  rfl

/-- What is no part of the mailbox, the page headers and the record stays when a request is lost. -/
theorem mgmtLost_frame (s : State) : (mgmtLost s).fuse = s.fuse ∧ (mgmtLost s).lat = s.lat ∧ (mgmtLost s).clu = s.clu ∧
    (mgmtLost s).mem = s.mem ∧ (mgmtLost s).ush = s.ush := by
  unfold mgmtLost
  split <;> simp

end Sys2Proof.Machine

namespace Sys2Proof
open Sys2Proof.Machine

/-- Settles O1: by the definition of a step. -/
theorem stepRunsFront : Obligations.StepRunsFront := fun _ _ _ => rfl

/-- Settles O60: the reset state is closed, and each of its parts evaluates. -/
theorem resetValues : Obligations.ResetValues := by
  unfold Obligations.ResetValues
  refine ⟨rfl, rfl, rfl, rfl, ?queues, ?threads, rfl, rfl, rfl, rfl, rfl, rfl, rfl, rfl, rfl, rfl, ?pages⟩
  case queues => decide
  case threads => decide
  case pages => intro p; cases p <;> rfl

/-- Settles O56: each port's row by its definition. -/
theorem testPorts : Obligations.TestPorts := by
  intro s x test ok tap wir
  have okIs : s.testable = decide ok := testable_eq s
  have instruction (k : Nat) (own : (k == 0) = false) : wrapper k s = wir k := by
    simp only [wrapper, bne, own, Bool.not_false, Bool.true_and, Bool.false_or, okIs]
    rfl
  refine ⟨?idcode, rfl, ?run, ?result, rfl, rfl, congrArg Host.Outcome.next (instruction 1 rfl),
    congrArg Host.Outcome.next (instruction 2 rfl), congrArg Host.Outcome.next (instruction 3 rfl),
    congrArg Host.Outcome.next (instruction 4 rfl), rfl, fun r busy => ?march⟩
  case idcode =>
    have widened : idcode.zeroExtend 4096 = BitVec.ofNat 4096 0x04A0476B := BitVec.eq_of_toNat_eq (by simp [idcode])
    show execTapIdcode s = _
    rw [execTapIdcode, widened]
    rfl
  case run =>
    show execTapMbistRun s = _
    simp only [execTapMbistRun, setIr, okIs]
    rfl
  case result =>
    have widened : x.mbistResult.zeroExtend 4096 = BitVec.ofNat 4096 x.mbistResult.toNat :=
      BitVec.eq_of_toNat_eq (by simp)
    show execTapMbistResult s = _
    rw [execTapMbistResult, widened]
    rfl
  case march =>
    have ends : ∃ w, execMbistMarchDone r s = .next { s with
        freeIx := s.freeIx + 8,
        fuse := { s.fuse with soft := s.fuse.soft + r.spares.truncate 16 },
        test := { s.test with mbistBusy := false, mbistFail := r.fail, mbistSpares := r.spares, mbistResult := w } } := by
      rw [execMbistMarchDone, marchDone, if_pos busy]
      exact ⟨_, rfl⟩
    exact ends

/-- Settles O58: the register rows by `regRow_of_writes`, the digest's end by its time. -/
theorem firmwareMeasure : Obligations.FirmwareMeasure := by
  intro o s v no n
  refine ⟨fun h => ?start, fun busy clocked due => ?done, fun _ early => ?early, fun h => ?mode, fun h => ?fwid⟩
  case start =>
    have row := regRow_of_writes h (by decide) (clu_hashStart_fields s) (by decide) (setBit 0 v)
    have effect : pageWrite (o == .mgmt) .clu 0x70 (setBit 0 v &&& 1) s = hashStart (setBit 0 v &&& 1) s := rfl
    rw [effect, hashStart_set] at row
    exact ⟨fun bad => row.trans (by rw [if_pos bad]; rfl), fun good => row.trans (by rw [if_neg good])⟩
  case done => exact congrArg Host.Outcome.next (hashFinish_of_due busy clocked due)
  case early => exact congrArg Host.Outcome.next (hashFinish_of_early early)
  case mode =>
    have row := regRow_of_writes h (by decide) (m := 1) (by simp [regFields, rwOnly, Access3.all]) (by decide) v
    have bit : bitAt (v &&& 1) 0 = decide (v.toNat % 2 = 1) := by
      rw [bitAt_and_field (by decide), Nat.pow_zero, Nat.div_one]
    have effect : pageWrite (o == .mgmt) .clu 0x60 (v &&& 1) s = cluMode (v &&& 1) s := rfl
    rw [effect, cluMode, bit] at row
    refine ⟨fun changes free => row.trans ?_, fun changes busy => row.trans ?_, fun same => row.trans ?_⟩
    · rw [if_neg changes, if_pos (by simpa [State.stepOpen] using free)]
    · rw [if_neg changes, if_neg (by simpa [State.stepOpen] using busy)]
      rfl
    · rw [if_pos same]
  case fwid =>
    exact regRow_effect h (by decide) (m := fwidMask) (by simp [regFields, rwOnly, Access3.all, fwidMask]) (by decide)
      (cluFwid_and_mask v s)

/-- Settles O57: each phase goes on as R340 to R344 say; a cluster reset by `clusterReset_set`. -/
theorem startUp : Obligations.StartUp := by
  intro s clu failed
  refine ⟨fun reset => ?release, fun img fuse alive => ?fuse, fun clock alive => ⟨?locked, ?lost⟩,
    fun spares tested alive => ⟨?passed, fun k => ?exhausted⟩, ⟨_, rfl, rfl⟩, fun v h => ?cluster⟩
  case release => exact congrArg Host.Outcome.next (if_pos reset)
  case fuse =>
    refine ⟨_, congrArg Host.Outcome.next (fuseLoad_of_fuse alive fuse img), ?_⟩
    cases bad : img.bad
    · simp [State.shadowed]
    · obtain ⟨phase, cause, flag, mem⟩ := bootFail_failed 1 (by decide) (s.shadowed img)
      rw [if_pos rfl, bootFail_fuse, bootFail_lat]
      exact ⟨rfl, rfl, rfl, rfl, rfl, rfl, rfl, nofun, fun _ => ⟨phase, cause, flag, mem⟩⟩
  case locked => exact ⟨_, congrArg Host.Outcome.next (clockLocked_of_clock alive clock), rfl, rfl, rfl, rfl⟩
  case lost => exact ⟨_, congrArg Host.Outcome.next (clockFail_of_clock alive clock), bootFail_failed 7 (by decide) s⟩
  case passed =>
    exact ⟨_, congrArg Host.Outcome.next (selftest_passed alive tested spares), rfl, fun _ => rfl, fun _ _ => rfl,
      fun _ => rfl, fun t => by simp [selftestZero], rfl⟩
  case exhausted =>
    have small : k.val + 2 < 16 := by omega
    exact ⟨_, congrArg Host.Outcome.next (selftest_exhausted alive tested k spares), bootFail_failed (k.val + 2) small _⟩
  case cluster =>
    obtain ⟨fuse, lat, clu, mem, ush⟩ := mgmtLost_frame s.clusterKept
    refine ⟨_, regRow_effect h (by decide) (m := 1) (by simp [regFields, woOnly, Access3.all]) (by decide)
      (clusterReset_set v s), ?_⟩
    have unthreaded (t : Fin 16) : ((mgmtLost s.clusterKept).thread t).st = .free := by
      rw [State.thread, ush]
      exact reset_thread s.build t
    have unqueued : (mgmtLost s.clusterKept).queuesEmpty = true := by
      rw [State.queuesEmpty, ush]
      exact (by decide : State.reset.queuesEmpty = true)
    have phase : s.clusterKept.clu.phase = if s.pwr.coolStopped ∨ s.fuse.loaded = false then .reset else .clock := by
      simp [State.clusterKept]
    exact ⟨fuse, (congrArg Lat.honour lat :), (congrArg Clu.resets clu :), mem, (congrArg Usher.task ush :), unthreaded,
      unqueued, (congrArg Clu.phase clu :).trans phase⟩

end Sys2Proof


/-! ## Writes of the step unit's and the power registers -/

namespace Sys2Proof.Machine

theorem fld_zero_and_field {m : BitVec 64} {len : Nat} (h : m.extractLsb' 0 len = BitVec.allOnes len) (v : BitVec 64) :
    fld (v &&& m) 0 len = v.toNat % 2 ^ len := by
  rw [fld_and_field h, Nat.pow_zero, Nat.div_one]

theorem bitAt_zero_and_field {m : BitVec 64} (h : m.getLsbD 0 = true) (v : BitVec 64) :
    bitAt (v &&& m) 0 = decide (v.toNat % 2 = 1) := by
  rw [bitAt_and_field h, Nat.pow_zero, Nat.div_one]

/-- `s` with the values `xs` waiting for their mark, and the step unit changed by `f`. -/
def State.shadowing (s : State) (xs : List Shadow) (f : Step → Step) : State :=
  { s with step := f { s.step with shadow := s.step.shadow ++ xs.map fun x => (s.now, x) } }

theorem shadowPut_eq (x : Shadow) (s : State) : shadowPut x s = s.shadowing [x] id := rfl

theorem stepCfg_and_mask (v : BitVec 64) (s : State) : stepCfg (v &&& stepCfgMask) s =
    let en := decide (v.toNat / 2 % 2 = 1)
    let xs : List Shadow := [.mode (v.toNat % 2 = 1), .mask (BitVec.ofNat 16 (v.toNat / 2 ^ 16)),
      .lead (BitVec.ofNat 16 (v.toNat / 2 ^ 32))]
    if s.stepOpen && en != s.step.enable then countEvt .step 2 s
    else if en = s.step.enable then s.shadowing xs id
    else if en then s.shadowing xs fun x => { x with enable := true, index := 0, phase := .idle, ended := 0 }
    else s.shadowing xs fun x => { x with enable := false, rdy := false, freeMt := 0, phase := .idle } := by
  have enable : bitAt (v &&& stepCfgMask) 1 = decide (v.toNat / 2 % 2 = 1) := bitAt_and_field (by decide) v
  have mode : bitAt (v &&& stepCfgMask) 0 = decide (v.toNat % 2 = 1) :=
    bitAt_zero_and_field (by decide) v
  have mask : (v &&& stepCfgMask).extractLsb' 16 16 = BitVec.ofNat 16 (v.toNat / 2 ^ 16) := extractLsb'_and_field (by decide) v
  have lead : (v &&& stepCfgMask).extractLsb' 32 16 = BitVec.ofNat 16 (v.toNat / 2 ^ 32) := extractLsb'_and_field (by decide) v
  simp [stepCfg, enable, mode, mask, lead, shadowPut, State.shadowing]

theorem latSel_eq (v : BitVec 64) (s : State) : latSel (v &&& bitsMask 0 8) s =
    let k := v.toNat % 256
    if 1 ≤ k ∧ k ≤ 64 ∧ s.lat.honour.toNat / 2 ^ (k - 1) % 2 = 1 ∧ s.stepOpen = false ∧ s.queuesEmpty = true ∧ s.range = [] then
      { s with lat := { s.lat with version := BitVec.ofNat 8 k } }
    else countEvt .lat 0 s := by
  have version : fld (v &&& bitsMask 0 8) 0 8 = v.toNat % 256 :=
    fld_zero_and_field (by decide) v
  simp [latSel, version, bitAt_eq_true_iff, State.stepOpen]

theorem relevel_and_droop (v : BitVec 64) (s : State) : pwrDroop (v &&& (bitsMask 0 24 ||| bitsMask 32 16)) s =
    let t (k : Nat) : BitVec 8 := BitVec.ofNat 8 (v.toNat / 2 ^ (8 * k))
    if 0 ≤ (t 0).toInt ∧ (t 0).toInt ≤ 40 ∧ -40 ≤ (t 1).toInt ∧ (t 1).toInt ≤ (t 0).toInt - 5 ∧ -75 ≤ (t 2).toInt ∧
        (t 2).toInt ≤ (t 1).toInt - 5 then
      relevel { s with pwr := { s.pwr with th1 := t 0, th2 := t 1, th3 := t 2, hold := BitVec.ofNat 16 (v.toNat / 2 ^ 32) } }
    else countEvt .pwr 0 s := by
  have byte (k : Nat) (h : (bitsMask 0 24 ||| bitsMask 32 16).extractLsb' (8 * k) 8 = BitVec.allOnes 8) :
      (v &&& (bitsMask 0 24 ||| bitsMask 32 16)).extractLsb' (8 * k) 8 = BitVec.ofNat 8 (v.toNat / 2 ^ (8 * k)) :=
    extractLsb'_and_field h v
  have hold : (v &&& (bitsMask 0 24 ||| bitsMask 32 16)).extractLsb' 32 16 = BitVec.ofNat 16 (v.toNat / 2 ^ 32) :=
    extractLsb'_and_field (by decide) v
  have t0 := byte 0 (by decide)
  have t1 := byte 1 (by decide)
  have t2 := byte 2 (by decide)
  simp only [Nat.mul_zero, Nat.mul_one, Nat.reduceMul] at t0 t1 t2 ⊢
  simp only [pwrDroop, t0, t1, t2, hold, Bool.and_eq_true, decide_eq_true_eq, and_assoc]

theorem foldl_eq_self {α β : Type} {f : β → α → β} {b : β} {l : List α} (h : ∀ a ∈ l, f b a = b) : l.foldl f b = b := by
  induction l with
  | nil => rfl
  | cons a l ih => rw [List.foldl_cons, h a (List.mem_cons_self ..), ih fun x hx => h x (List.mem_cons_of_mem _ hx)]

/-- A cap that waits alone takes effect at once. -/
theorem applyShadow_cap {s : State} (none_waits : ∀ e ∈ s.step.shadow, e.2.isCap = false) (c : BitVec 10) :
    applyShadow Shadow.isCap (s.now + 1) (shadowPut (.cap c) s) = { s with pwr := { s.pwr with cap := c } } := by
  have skipped : s.step.shadow.foldl (fun s' e => if Shadow.isCap e.2 && decide (e.1 < s.now + 1) then e.2.apply s' else s')
      (shadowPut (.cap c) s) = shadowPut (.cap c) s :=
    foldl_eq_self fun e he => by simp [none_waits e he]
  have kept : s.step.shadow.filter (fun e => !(Shadow.isCap e.2 && decide (e.1 < s.now + 1))) = s.step.shadow :=
    List.filter_eq_self.mpr fun e he => by simp [none_waits e he]
  have waits : (shadowPut (.cap c) s).step.shadow = s.step.shadow ++ [(s.now, .cap c)] := rfl
  simp only [applyShadow, waits, List.foldl_append, skipped, List.filter_append, kept]
  simp [Shadow.isCap, Shadow.apply, shadowPut]

theorem pwrCap_eq (v : BitVec 64) (s : State) : pwrCap (v &&& bitsMask 0 10) s =
    let c := v.toNat % 1024
    if c < 64 ∨ 336 < c then countEvt .pwr 0 s
    else if s.step.enable then shadowPut (.cap (BitVec.ofNat 10 c)) s
    else applyShadow Shadow.isCap (s.now + 1) (shadowPut (.cap (BitVec.ofNat 10 c)) s) := by
  have cap : fld (v &&& bitsMask 0 10) 0 10 = v.toNat % 1024 :=
    fld_zero_and_field (by decide) v
  simp only [pwrCap, cap]
  rfl

end Sys2Proof.Machine

namespace Sys2Proof
open Sys2Proof.Machine

/-- Settles O50: every register by `regRow_effect` and the fields of what is written. -/
theorem stepPowerRegisters : Obligations.StepPowerRegisters := by
  intro o s v n with_ no
  have length : fld (v &&& bitsMask 0 21) 0 21 = n :=
    fld_zero_and_field (by decide) v
  have answer (p : Page) (c : Prop) [Decidable c] (a b : State) :
      Host.Outcome.next (Claims.answered o p (if c then a else b)) =
        (.next (if c then Claims.answered o p a else Claims.answered o p b) : Host.Outcome State Fault Refusal) := by
    split <;> rfl
  refine ⟨fun h => ?cfg, fun h => ?len, fun h => ?slack, fun h => ?guard, fun h => ?lat, fun h => ?cap, fun h => ?win,
    fun h => ?droop⟩
  case cfg =>
    have row := regRow_effect h (by decide) (by simp [regFields, rwOnly, Access3.all, stepCfgMask]) (by decide)
      (stepCfg_and_mask v s)
    refine ⟨fun same => row.trans ?_, fun isOpen changes => row.trans ?_, fun closed off on => row.trans ?_,
      fun closed on off => row.trans ?_⟩
    · rw [if_neg (by simp [same]), if_pos same]
      rfl
    · rw [if_pos (by simpa [isOpen] using changes)]
    · rw [if_neg (by simp [closed]), if_neg (by simp [on, off]), if_pos on]
      rfl
    · rw [if_neg (by simp [closed]), if_neg (by simp [on, off]), if_neg (by simp [off])]
      rfl
  case len =>
    refine (regRow_effect h (by decide) (m := bitsMask 0 21) (by simp [regFields, rwOnly, Access3.all]) (by decide)
      (s' := stepLen (v &&& bitsMask 0 21) s) rfl).trans ?_
    rw [stepLen, length, answer]
    rfl
  case slack =>
    refine (regRow_effect h (by decide) (m := bitsMask 0 21) (by simp [regFields, rwOnly, Access3.all]) (by decide)
      (s' := stepSlack (v &&& bitsMask 0 21) s) rfl).trans ?_
    rw [stepSlack, length, answer]
    rfl
  case guard =>
    refine (regRow_effect h (by decide) (m := bitsMask 0 21) (by simp [regFields, rwOnly, Access3.all]) (by decide)
      (s' := stepGuard (v &&& bitsMask 0 21) s) rfl).trans ?_
    rw [stepGuard, length, answer]
    rfl
  case lat =>
    refine (regRow_effect h (by decide) (m := bitsMask 0 8) (by simp [regFields, rwOnly, Access3.all]) (by decide)
      (latSel_eq v s)).trans ?_
    rw [answer]
  case cap =>
    have row := regRow_effect h (by decide) (m := bitsMask 0 10) (by simp [regFields, rwOnly, Access3.all]) (by decide)
      (pwrCap_eq v s)
    refine ⟨fun bad => row.trans ?_, fun low high on => row.trans ?_, fun low high off none_waits => row.trans ?_⟩
    · rw [if_pos bad]
    · rw [if_neg (by omega), if_pos on]
      rfl
    · rw [if_neg (by omega), if_neg (by simp [off]), applyShadow_cap none_waits]
  case win =>
    have window : fld (v &&& bitsMask 0 3) 0 3 = v.toNat % 8 :=
    fld_zero_and_field (by decide) v
    refine (regRow_effect h (by decide) (m := bitsMask 0 3) (by simp [regFields, rwOnly, Access3.all]) (by decide)
      (s' := pwrWin (v &&& bitsMask 0 3) s) rfl).trans ?_
    have value : BitVec.ofNat 3 (v.toNat % 8) = BitVec.ofNat 3 v.toNat := ofNat_mod_pow 3 v.toNat
    simp only [pwrWin, window, value, ge_iff_le, ← Nat.not_lt, ite_not, answer]
    rfl
  case droop =>
    refine (regRow_effect h (by decide) (by simp [regFields, rwOnly, Access3.all]) (by decide)
      (relevel_and_droop v s)).trans ?_
    rw [answer]

end Sys2Proof


/-! ## Usher's stop, and the events of power -/

namespace Sys2Proof.Machine

/-- A held job-fatal record of the MGMT page, of this very cycle, while a request waits in the mailbox and another event of
the page has occurred in the cycle. -/
def lostRequest : State :=
  { State.reset with
    clu := { State.reset.clu with phase := .ready }
    mgmt := { State.reset.mgmt with pending := true }
    setNow := [(.mgmt, 1)]
    evt := { State.reset.evt with valid := true, page := BitVec.ofNat 6 Page.mgmt.slot.val, at_ := State.reset.now } }

theorem lostRequest_writes : Claims.writes .mgmt .ush 0x40 lostRequest := by
  constructor <;> decide

/-- The request that the reset loses is an event of the page, and takes a SEQ value before the record's (R332). -/
theorem lostRequest_renumbered :
    Tests.nx (exec (.ushRunClear .mgmt 0) lostRequest) (fun s => s.evt.srcSeq == lostRequest.evt.srcSeq + 1) = true := by
  decide

/-! ### The Banister -/

theorem required_eq (s : State) : s.required =
    let floor (th : BitVec 8) : Int := 1000 * (vMin s.pwr.op + th.toInt)
    if (s.pwr.volt : Int) < floor s.pwr.th3 then 3 else if (s.pwr.volt : Int) < floor s.pwr.th2 then 2
      else if (s.pwr.volt : Int) < floor s.pwr.th1 then 1 else 0 := by
  simp only [State.required, decide_eq_true_eq]

theorem holdLen_eq (s : State) : s.holdLen = if s.pwr.hold = 0 then 1 else s.pwr.hold.toNat := by
  unfold State.holdLen
  split
  case isTrue zero => simp [zero]
  case isFalse nonzero =>
    have : s.pwr.hold.toNat ≠ 0 := fun h => nonzero (BitVec.eq_of_toNat_eq h)
    omega

section
variable {s : State}

theorem relevel_of_rise (h : s.pwr.heldLevel ≤ s.required) : relevel s =
    { s with pwr := { s.pwr with reqLevel := s.required, heldLevel := s.required, holdLeft := s.holdLen } } := if_pos h

theorem relevel_of_fall (held : s.required < s.pwr.heldLevel) (falls : s.required < s.pwr.reqLevel) :
    relevel s = { s with pwr := { s.pwr with reqLevel := s.required, holdLeft := s.holdLen } } :=
  (if_neg (not_le.mpr held)).trans (if_pos falls)

theorem relevel_of_keep (held : s.required < s.pwr.heldLevel) (keeps : s.pwr.reqLevel ≤ s.required) :
    relevel s = { s with pwr := { s.pwr with reqLevel := s.required } } :=
  (if_neg (not_le.mpr held)).trans (if_neg (not_lt.mpr keeps))

theorem droop_of_alive (alive : s.pwr.coolStopped = false) (v : Nat) :
    droop v s = relevel { s with pwr := { s.pwr with volt := v } } := by
  simp [droop, alive]

theorem holdExpire_of_due (alive : s.pwr.coolStopped = false) (above : s.pwr.reqLevel < s.pwr.heldLevel)
    (due : s.pwr.holdLeft = 0) : holdExpire s =
      { s with pwr := { s.pwr with heldLevel := Fin.ofNat 4 (s.pwr.heldLevel.val - 1), holdLeft := s.holdLen } } := by
  simp [holdExpire, alive, above, due]

/-! ### Samples, intervals, conversions -/

theorem inputSample_of_due (started : s.started = true) (off : s.step.enable = false) (clocked : s.clocked = true)
    (due : 1024 ≤ s.step.freeMt) (cap : BitVec 10) (op : BitVec 3) : inputSample cap op s =
      pointChange (sampleInputs cap op { s with step := { s.step with freeMt := s.step.freeMt - 1024 } }) := by
  simp [inputSample, started, off, clocked, due]

/-- A change of the point is a matter of the power page. -/
theorem pointChange_eq (s : State) : pointChange s = { s with pwr := (pointChange s).pwr } := by
  unfold pointChange
  split <;> rfl

@[simp] theorem pointChange_step (s : State) : (pointChange s).step = s.step := by
  rw [pointChange_eq]

theorem pointWanted_of_fixed (fixed : s.step.mode = false) : s.pointWanted = 2 := by
  simp [State.pointWanted, fixed]

theorem pointChange_pwr (s : State) : (pointChange s).pwr = if s.pointWanted = s.pwr.op then s.pwr
    else { s.pwr with switching := true, switchLeft := 32, opChg := s.pwr.opChg + 1 } := by
  unfold pointChange
  split <;> rfl

@[simp] theorem pointChange_capIn (s : State) : (pointChange s).pwr.capIn = s.pwr.capIn := by
  rw [pointChange_pwr]
  split <;> rfl

@[simp] theorem pointChange_opIn (s : State) : (pointChange s).pwr.opIn = s.pwr.opIn := by
  rw [pointChange_pwr]
  split <;> rfl

theorem balustrade_of_due (started : s.started = true) (alive : s.pwr.coolStopped = false) (due : 1024 ≤ s.pwr.iMt) :
    balustrade s =
      let r := interval { s with pwr := { s.pwr with iMt := 1024 } }
      { r with pwr := { r.pwr with iMt := s.pwr.iMt - 1024 } } := by
  simp [balustrade, started, alive, due]

theorem densityOf_of_fits {dem lk cap : Rat} (fits : dem + lk ≤ cap) : densityOf dem lk cap = 0 := if_pos fits

/-- The word of sensor `k`'s bit. -/
theorem bit_or (v : BitVec 16) (k : Fin 16) : (v ||| BitVec.ofNat 16 (2 ^ k.val)).toNat / 2 ^ k.val % 2 = 1 := by
  have one : (BitVec.ofNat 16 (2 ^ k.val)).getLsbD k = true := by
    rw [BitVec.getLsbD_ofNat, Nat.testBit_two_pow_self]
    simp
  rw [← bitAt_eq_true_iff, bitAt, BitVec.getLsbD_or, one, Bool.or_true]

theorem bit_and_not (v : BitVec 16) (k : Fin 16) : ¬ (v &&& ~~~BitVec.ofNat 16 (2 ^ k.val)).toNat / 2 ^ k.val % 2 = 1 := by
  have one : (BitVec.ofNat 16 (2 ^ k.val)).getLsbD k = true := by
    rw [BitVec.getLsbD_ofNat, Nat.testBit_two_pow_self]
    simp
  rw [← bitAt_eq_true_iff, bitAt, BitVec.getLsbD_and, BitVec.getLsbD_not, one]
  simp

variable {k : Fin 16} (present : k.val < 12 ∨ s.build.tiers2 = true) (out : s.clu.phase ≠ .reset)
include present out

theorem conversion_of_outside {r : Int} (outside : r < -160 ∨ 600 < r) : conversion k r s =
    countEvt .therm 2 { s with therm := { s.therm with
      valid := s.therm.valid &&& ~~~BitVec.ofNat 16 (2 ^ k.val), hot := s.therm.hot &&& ~~~BitVec.ofNat 16 (2 ^ k.val) } } := by
  have sensor : s.sensor k = true := by simpa [State.sensor] using present
  simp only [conversion, sensor, beq_eq_false_iff_ne.mpr out, if_pos outside]
  rfl

/-- A reading at or above the limit in force, that of the sensor's die or of its tier. -/
def State.readsHot (s : State) (k : Fin 16) (r : Int) : Bool :=
  decide ((if k.val < 8 then (s.therm.oldLim.getD (s.therm.logicLim, s.therm.tierLim)).1
    else (s.therm.oldLim.getD (s.therm.logicLim, s.therm.tierLim)).2).toInt ≤ r)

theorem conversion_of_inside {r : Int} (low : -160 ≤ r) (high : r ≤ 600) :
    (conversion k r s).therm.temp = s.therm.temp.set k (BitVec.ofInt 12 r) ∧
    (conversion k r s).therm.valid = s.therm.valid ||| BitVec.ofNat 16 (2 ^ k.val) ∧
    (conversion k r s).therm.hot = (if s.readsHot k r then s.therm.hot ||| BitVec.ofNat 16 (2 ^ k.val)
      else s.therm.hot &&& ~~~BitVec.ofNat 16 (2 ^ k.val)) ∧
    (conversion k r s).mem = s.mem ∧ (conversion k r s).pwr = s.pwr := by
  have sensor : s.sensor k = true := by simpa [State.sensor] using present
  have inside : ¬ (r < -160 ∨ 600 < r) := by omega
  simp only [conversion, sensor, beq_eq_false_iff_ne.mpr out, if_neg inside, Bool.not_true, Bool.or_false,
    Bool.false_eq_true, if_false]
  cases hot : s.readsHot k r <;> rw [State.readsHot] at hot <;> simp [hot]

end

end Sys2Proof.Machine

namespace Sys2Proof
open Sys2Proof.Machine

/-- Refutes O51: a reset of Usher that loses a request of the mailbox changes the record of a job-fatal event of the MGMT page
of the same cycle: it moves its SRC_SEQ (R332), where the statement keeps the record whole. -/
theorem not_usherRuns : ¬ Obligations.UsherRuns := fun ⟨control, _⟩ => by
  obtain ⟨-, -, -, s', next, -, -, -, -, -, idle⟩ := (control .mgmt 0 lostRequest 0).1 lostRequest_writes
  obtain ⟨-, keeps⟩ := idle (by decide)
  have moved := lostRequest_renumbered
  rw [next] at moved
  have same : s'.evt.srcSeq = lostRequest.evt.srcSeq := congrArg _ keeps
  simp [Tests.nx, same] at moved

/-- Settles O52: the Banister's rows by the three cases of `relevel`, the others by their definitions. -/
theorem powerEvents : Obligations.PowerEvents := by
  intro s p hold
  refine ⟨fun alive => ?stop, fun stopped => ?stopped, fun v alive => ?droop, fun alive above due => ?expire,
    fun cap op started off clocked due => ?sample, fun started alive due => ?boundary, fun k r present out => ⟨fun outside => ?lost,
    fun low high => ?reads⟩⟩
  case stop =>
    have stops : coolStop s = countEvt .pwr 1 { s with
        pwr := { s.pwr with coolStopped := true }, step := { s.step with rdy := false } } := by
      rw [coolStop, if_neg (by rw [alive]; decide)]
    refine ⟨_, congrArg Host.Outcome.next stops, ?_, ?_, ?_, countEvt_flag_set (by decide) .pwr _, ?_, ?_⟩
    all_goals simp [State.clocked]
  case stopped =>
    exact congrArg Host.Outcome.next (if_pos stopped)
  case droop =>
    intro floor l
    have level : State.required { s with pwr := { s.pwr with volt := v } } = l := required_eq _
    have length : State.holdLen { s with pwr := { s.pwr with volt := v } } = hold := holdLen_eq _
    have row : exec (.droopCrossing v) s = .next (relevel { s with pwr := { s.pwr with volt := v } }) :=
      congrArg Host.Outcome.next (droop_of_alive alive v)
    refine ⟨fun rise => row.trans ?_, fun held falls => row.trans ?_, fun held keeps => row.trans ?_⟩
    · rw [relevel_of_rise (level ▸ rise), level, length]
    · rw [relevel_of_fall (level ▸ held) (level ▸ falls), level, length]
    · rw [relevel_of_keep (level ▸ held) (level ▸ keeps), level]
  case expire =>
    refine ⟨Fin.ofNat 4 (s.pwr.heldLevel.val - 1), ?_, congrArg Host.Outcome.next ?_⟩
    · have : s.pwr.reqLevel.val < s.pwr.heldLevel.val := above
      change (s.pwr.heldLevel.val - 1) % 4 + 1 = s.pwr.heldLevel.val
      omega
    · rw [holdExpire_of_due alive above due, holdLen_eq]
  case sample =>
    have row := inputSample_of_due started off clocked due cap op
    generalize s.step.freeMt - 1024 = left at row ⊢
    refine ⟨_, congrArg Host.Outcome.next row, ?_, ?_, pointChange_step _, ?_, fun fixed same => ?_, fun fixed other => ?_⟩
    · exact pointChange_capIn _
    · exact pointChange_opIn _
    · rw [pointChange_step]
      exact pointChange_eq _
    · refine (pointChange_pwr _).trans (if_pos ((pointWanted_of_fixed ?_).trans ?_))
      · exact fixed
      · exact same.symm
    · refine (pointChange_pwr _).trans (if_neg fun wanted => other (wanted.symm.trans (pointWanted_of_fixed ?_)))
      exact fixed
  case boundary =>
    refine ⟨_, congrArg Host.Outcome.next (balustrade_of_due started alive due), rfl, rfl, rfl, rfl, rfl, rfl, rfl, ?_, ?_, ?_⟩
    · exact fun t => by simp [interval, State.energyNj]
    · exact fun bubbles => if_pos bubbles
    · exact fun fits => densityOf_of_fits fits
  case lost =>
    refine ⟨_, congrArg Host.Outcome.next (conversion_of_outside present out outside), ?_, ?_, ?_,
      countEvt_flag_set (by decide) .therm _⟩
    · simpa using bit_and_not s.therm.valid k
    · simpa using bit_and_not s.therm.hot k
    · simp
  case reads =>
    obtain ⟨temp, valid, hot, mem, pwr⟩ := conversion_of_inside present out low high
    refine ⟨_, rfl, ?_, temp, ?_, mem, pwr⟩
    · beta_reduce
      rw [valid]
      simpa using bit_or s.therm.valid k
    · beta_reduce
      rw [hot]
      change _ = s.readsHot k r
      cases s.readsHot k r
      · simpa using bit_and_not s.therm.hot k
      · simpa using bit_or s.therm.hot k

end Sys2Proof


/-! ## What a stop of the engines leaves alone -/

namespace Sys2Proof.Machine

/-- `π` speaks of nothing that a stop of tiles, streams and Landings changes once the queues are discarded: entries, requests,
jobs, and what the fabric port, the Galleries, the streams, the Landings and the tile unit hold. -/
def KeptByStops {α : Type} (π : State → α) : Prop :=
  ∀ (s : State) (range : List RangeEntry) (reqs : List LineReq) (jobs : List Job) (fab : Fab) (gal : Vector Gal 4)
    (strm : Vector Strm 4) (land : Land) (tile : Tile),
    π { s with range := range, reqs := reqs, jobs := jobs, fab := fab, gal := gal, strm := strm, land := land, tile := tile } =
      π s

section
variable {α : Type} {π : State → α} (kept : KeptByStops π)
include kept

theorem KeptByStops.foldl {ι : Type} {f : State → ι → State} (h : ∀ s x, π (f s x) = π s) (l : List ι) (s : State) :
    π (l.foldl f s) = π s :=
  List.foldlRecOn l f (motive := fun b => π b = π s) rfl fun b hb x _ => (h b x).trans hb

theorem KeptByStops.modJob (id : Nat) (f : Job → Job) (s : State) : π (modJob id f s) = π s := kept s ..
theorem KeptByStops.dropJob (id : Nat) (s : State) : π (dropJob id s) = π s := kept s ..
theorem KeptByStops.dropReqs (id : Nat) (keep : LineReq → Bool) (s : State) : π (dropReqs id keep s) = π s := kept s ..
theorem KeptByStops.dropXfers (mine : Holder → Bool) (s : State) : π (dropXfers mine s) = π s := kept s ..
theorem KeptByStops.dropFlits (id : Nat) (s : State) : π (dropFlits id s) = π s := kept s ..
theorem KeptByStops.modCtx (n c : Fin 4) (f : Ctx → Ctx) (s : State) : π (modCtx n c f s) = π s := kept s ..
theorem KeptByStops.modRing (l : Fin 64) (f : Ring → Ring) (s : State) : π (modRing l f s) = π s := kept s ..
theorem KeptByStops.setSlot (l : Fin 64) (k : Nat) (f : Slot → Slot) (s : State) : π (setSlot l k f s) = π s := kept s ..
theorem KeptByStops.recordStartRow (e : QEntry) (row cause : Nat) (s : State) : π (recordStartRow e row cause s) = π s :=
  kept s ..

theorem KeptByStops.release (id : Nat) (ok : Bool) (s : State) : π (release id ok s) = π s := by
  unfold Machine.release
  split
  · rfl
  · dsimp only
    split <;> exact kept s ..

theorem KeptByStops.releaseAll (ids : List Nat) (ok : Bool) (s : State) : π (releaseAll ids ok s) = π s :=
  kept.foldl (fun s i => kept.release i ok s) ids s

theorem KeptByStops.retireMove (e : QEntry) (s : State) : π (retireMove e s) = π s := by
  simp only [Machine.retireMove]
  split <;> exact kept s ..

theorem KeptByStops.reapMove (id : Nat) (s : State) : π (reapMove id s) = π s := by
  unfold Machine.reapMove
  (repeat' split) <;> simp only [kept.retireMove, kept.dropJob, kept.releaseAll]

theorem KeptByStops.stopRows (j : Job) (s : State) : π (stopRows j s).2 = π s := by
  simp only [Machine.stopRows]
  (repeat' split) <;> simp only [kept.dropReqs]

theorem KeptByStops.stopTiles (s : State) : π (stopTiles s) = π s := by
  refine kept.foldl (fun s j => ?_) s.jobs s
  have rows := kept.stopRows j s
  split
  · rfl
  · split
    · rfl
    · split <;> rename_i stopped <;> rw [stopped] at rows <;>
        simpa only [kept.reapMove, kept.modJob, kept.recordStartRow] using rows

theorem KeptByStops.reapTile (id : Nat) (s : State) : π (reapTile id s) = π s := by
  unfold Machine.reapTile
  (repeat' split) <;> simp only [kept.modCtx, kept.dropJob, kept.releaseAll]

theorem KeptByStops.dropBlock (g : Gen) (s : State) : π (dropBlock g s) = π s := by
  simp only [Machine.dropBlock]
  (repeat' split) <;> simp only [kept.dropJob, kept.releaseAll, kept.modJob, kept.dropReqs]

theorem KeptByStops.cancelCtx (n c : Fin 4) (s : State) : π (cancelCtx n c s) = π s := by
  unfold Machine.cancelCtx
  dsimp only
  split
  · rfl
  · refine (kept.foldl (fun s t => ?_) _ _).trans ?_
    · simp only [kept.reapTile, kept.modJob, kept.dropFlits, kept.dropXfers, kept.dropReqs]
    · split <;> simp only [kept.modCtx, kept.dropBlock]

theorem KeptByStops.cancelAll (s : State) : π (cancelAll s) = π s := by
  unfold Machine.cancelAll
  generalize allCtx = contexts
  exact kept.foldl (fun s nc => kept.cancelCtx nc.1 nc.2 s) contexts s

theorem KeptByStops.reapLanding (l : Fin 64) (s : State) : π (reapLanding l s) = π s := by
  unfold Machine.reapLanding
  (repeat' split) <;> simp only [kept.modRing, kept.setSlot, kept.dropJob, kept.releaseAll]

theorem KeptByStops.stopLandings (s : State) : π (stopLandings s) = π s := by
  refine kept.foldl (fun s l => ?_) (List.finRange 64) s
  split
  · rfl
  · split <;> simp only [kept.reapLanding, kept.modJob, kept.dropXfers, kept.dropReqs]

/-- After the queues are discarded, a stop of the engines leaves what `π` speaks of as it is. -/
theorem KeptByStops.stopEngines (s : State) : π (stopEngines s) = π (discardQueues s) := by
  simp only [Machine.stopEngines, kept.stopLandings, kept.cancelAll, kept.stopTiles]

end

/-- Nothing but entries, queues, held commands and the tile registers' use change as the queues are discarded. -/
theorem discardQueues_vec (s : State) :
    (discardQueues s).vec = { s.vec with held := false, heldFlt := false } := by
  have same (ids : List Nat) : (releaseAll ids false s).vec = s.vec :=
    KeptByStops.releaseAll (π := State.vec) (fun _ _ _ _ _ _ _ _ _ => rfl) ids false s
  simp only [discardQueues, same]

theorem discardQueues_opa (s : State) : (discardQueues s).opa = s.opa.map fun a => { a with held := false } := by
  have same (ids : List Nat) : (releaseAll ids false s).opa = s.opa :=
    KeptByStops.releaseAll (π := State.opa) (fun _ _ _ _ _ _ _ _ _ => rfl) ids false s
  simp only [discardQueues, same]

theorem stopEngines_vec (s : State) : (stopEngines s).vec = { s.vec with held := false, heldFlt := false } :=
  (KeptByStops.stopEngines (π := State.vec) (fun _ _ _ _ _ _ _ _ _ => rfl) s).trans (discardQueues_vec s)

theorem stopEngines_opa (s : State) : (stopEngines s).opa = s.opa.map fun a => { a with held := false } :=
  (KeptByStops.stopEngines (π := State.opa) (fun _ _ _ _ _ _ _ _ _ => rfl) s).trans (discardQueues_opa s)

end Sys2Proof.Machine


/-! ## Marks -/

namespace Sys2Proof.Machine

theorem applyShadow_of_none {s : State} (none_waits : s.step.shadow = []) (which : Shadow → Bool) (before : Nat) :
    applyShadow which before s = s := by
  have kept : ({ s with step := { s.step with shadow := [] } } : State) = s := by rw [← none_waits]
  simpa [applyShadow, none_waits] using kept

theorem applyPower_of_none {s : State} {t : Tier} (none_waits : (s.tier t).tgtPend = none) (before : Nat) :
    applyPower t before s = s := by
  simp [applyPower, none_waits]

/-- An occurrence can change SRC_SEQ alone of the record. -/
theorem countEvt_record (p : Page) (b : Nat) (s : State) : ∃ q, (countEvt p b s).evt = { s.evt with srcSeq := q } := by
  have shifted : (countEvt p b s).evt = (s.shiftSrc p (s.above p b)).evt := rfl
  rw [shifted, State.shiftSrc]
  split
  · exact ⟨_, rfl⟩
  · exact ⟨_, rfl⟩

/-- A mark that closes the open step of `s` leaves this: the step's slack, whether it came late, and the snapshot. -/
structure StepClosedBy (stop : Bool) (s s' : State) : Prop where
  step : ∃ most, s'.step = { s.step with
    lastUsed := BitVec.ofNat 22 s.slackUsed, maxUsed := most, lastStretched := decide (s.step.len.toNat < s.step.mtime.toNat) }
  snapshot : s'.evt.sIndex = s.step.index ∧ s'.evt.sCycle = s.step.cycle ∧ s'.evt.sMtime = s.step.mtime ∧ s'.evt.sStop = stop
  record : s'.evt.valid = s.evt.valid ∧ s'.evt.code = s.evt.code ∧ s'.evt.page = s.evt.page
  units : s'.mem = s.mem ∧ s'.ush = s.ush ∧ s'.pwr = s.pwr ∧ s'.vec = s.vec ∧ s'.opa = s.opa ∧ s'.now = s.now ∧ s'.fuse = s.fuse

theorem closeStep_of_open {s : State} (isOpen : s.stepOpen = true) :
    let closed : State := { s with step := { s.step with
      lastUsed := BitVec.ofNat 22 s.slackUsed
      maxUsed := if s.step.maxUsed < BitVec.ofNat 22 s.slackUsed then BitVec.ofNat 22 s.slackUsed else s.step.maxUsed
      lastStretched := decide (s.step.len.toNat < s.step.mtime.toNat) } }
    closeStep s = if s.step.len.toNat < s.step.mtime.toNat then countEvt .step 4 closed else closed := by
  have notClosed : s.stepClosed = false := by simpa [State.stepOpen] using isOpen
  simp [closeStep, notClosed]

theorem snapshot_closes {s : State} (isOpen : s.stepOpen = true) (stop : Bool) :
    StepClosedBy stop s (snapshot stop (closeStep s)) := by
  rw [closeStep_of_open isOpen]
  dsimp only
  split
  · obtain ⟨q, record⟩ := countEvt_record .step 4 { s with step := { s.step with
      lastUsed := BitVec.ofNat 22 s.slackUsed
      maxUsed := if s.step.maxUsed < BitVec.ofNat 22 s.slackUsed then BitVec.ofNat 22 s.slackUsed else s.step.maxUsed
      lastStretched := decide (s.step.len.toNat < s.step.mtime.toNat) } }
    constructor
    · exact ⟨_, by simp [snapshot]; rfl⟩
    · simp [snapshot]
    · simp [snapshot, record]
    · simp [snapshot]
  · exact ⟨⟨_, rfl⟩, ⟨rfl, rfl, rfl, rfl⟩, ⟨rfl, rfl, rfl⟩, ⟨rfl, rfl, rfl, rfl, rfl, rfl, rfl⟩⟩

/-- No shadowed write and no power target waits. -/
structure State.NoneWaits (s : State) : Prop where
  shadow : s.step.shadow = []
  hall : s.hall.tgtPend = none
  lower : s.lhall.tgtPend = none

theorem markEnd_of_none {s : State} (quiet : s.NoneWaits) (isOpen : s.stepOpen = true) (stop : Bool) :
    markEnd stop s = snapshot stop (closeStep s) := by
  have shadow : (snapshot stop (closeStep s)).step.shadow = [] := by
    obtain ⟨most, step⟩ := (snapshot_closes isOpen stop).step
    rw [step]
    exact quiet.shadow
  have tiers : (snapshot stop (closeStep s)).hall = s.hall ∧ (snapshot stop (closeStep s)).lhall = s.lhall := by
    rw [closeStep_of_open isOpen]
    dsimp only
    split <;> simp [snapshot]
  have hall : ((snapshot stop (closeStep s)).tier .hall).tgtPend = none := (congrArg Hall.tgtPend tiers.1).trans quiet.hall
  have lower : ((snapshot stop (closeStep s)).tier .lower).tgtPend = none := (congrArg Hall.tgtPend tiers.2).trans quiet.lower
  rw [markEnd, applyShadow_of_none shadow, applyPower_of_none hall, applyPower_of_none lower]

theorem markEnd_closes {s : State} (quiet : s.NoneWaits) (isOpen : s.stepOpen = true) (stop : Bool) :
    StepClosedBy stop s (markEnd stop s) :=
  markEnd_of_none quiet isOpen stop ▸ snapshot_closes isOpen stop

/-! ### The stop -/

/-- An interval's boundary is a matter of the power page and the energy counts. -/
theorem interval_eq (s : State) : ∃ p, interval s = { s with energy := Vector.replicate 85 0, pwr := p } ∧
    p.op = s.pwr.op ∧ p.switching = s.pwr.switching ∧ p.capIn = s.pwr.capIn ∧ p.opIn = s.pwr.opIn :=
  ⟨_, rfl, rfl, rfl, rfl, rfl⟩

theorem stopAct_frame (s : State) :
    (stopAct s).step = { s.step with phase := .stopped, rdy := false, ended := 0 } ∧ (stopAct s).evt = s.evt ∧
    (stopAct s).mem = s.mem ∧ (stopAct s).ush = { s.ush with queues := Vector.replicate 8 ⟨[], none⟩ } ∧
    (stopAct s).vec = { s.vec with held := false, heldFlt := false } ∧
    (stopAct s).opa = s.opa.map fun a => { a with held := false } := by
  have units : (interval s).step = s.step ∧ (interval s).evt = s.evt ∧ (interval s).mem = s.mem ∧ (interval s).ush = s.ush ∧
      (interval s).vec = s.vec ∧ (interval s).opa = s.opa := ⟨rfl, rfl, rfl, rfl, rfl, rfl⟩
  unfold stopAct
  generalize interval s = x at units ⊢
  obtain ⟨step, evt, mem, ush, vec, opa⟩ := units
  obtain ⟨step', evt'⟩ := Prod.mk.inj (stopEngines_stepEvt x)
  have mem' := stopEngines_mem x
  have ush' := stopEngines_ush x
  have vec' := stopEngines_vec x
  have opa' := stopEngines_opa x
  rw [← step, ← evt, ← mem, ← ush, ← vec, ← opa]
  generalize stopEngines x = y at step' evt' mem' ush' vec' opa' ⊢
  exact ⟨by rw [← step'], evt', mem', ush', vec', opa'⟩

theorem queuesEmpty_of_discarded {s : State} (h : s.ush.queues = Vector.replicate 8 ⟨[], none⟩) : s.queuesEmpty = true := by
  rw [State.queuesEmpty, h]
  decide

theorem marksAct_of_markable {s : State} (h : Claims.markable s) : s.marksAct = true ∧ s.NoneWaits := by
  obtain ⟨enable, clocked, shadow, hall, lower⟩ := h
  exact ⟨by simp [State.marksAct, enable, clocked], shadow, hall, lower⟩

theorem markStop_of_open {s : State} (acts : s.marksAct = true) (isOpen : s.stepOpen = true) :
    markStop s = stopAct (countEvt .step 3 (markEnd true s)) := by
  have running : s.stopHeld = false := by
    simp only [State.stepOpen, State.stepClosed, Bool.not_eq_true', Bool.or_eq_false_iff] at isOpen
    exact isOpen.2
  simp [markStop, acts, running]

/-! ### Normal marks -/

section
variable {s : State} (acts : s.marksAct = true) (no_record : s.evt.valid = false)
include acts no_record

theorem markNormal_of_early (late : s.step.phase = .run ∨ s.step.phase = .late) (low : s.step.rdy = false)
    (cap : BitVec 10) (op : BitVec 3) : markNormal cap op s =
      pointChange (stopAct (sampleInputs cap op (countEvt .step 3 (markEnd true (jobEvent .step 1 0x21 0 s))))) := by
  rcases late with phase | phase <;> simp [markNormal, acts, no_record, State.stopHeld, phase, low]

theorem markNormal_of_ready (phase : s.step.phase = .ready) (high : s.step.rdy = true) (cap : BitVec 10) (op : BitVec 3) :
    markNormal cap op s =
      let s := sampleInputs cap op (markEnd false s)
      if s.ush.task = .ended then
        pointChange (interval { s with step := { s.step with phase := .idle, enable := false, rdy := false, ended := 0 } })
      else openStep s := by
  simp [markNormal, acts, no_record, State.stopHeld, phase, high]

end

/-- What the point's change leaves of the power page. -/
theorem pointChange_keeps (s : State) : (pointChange s).pwr.op = s.pwr.op ∧
    (pointChange s).pwr.switching = (s.pwr.switching || decide (s.pointWanted ≠ s.pwr.op)) := by
  rw [pointChange_pwr]
  split
  case isTrue same => simp [same]
  case isFalse other => simp [other]

theorem bne_eq_decide {α : Type} [DecidableEq α] (a b : α) : (a != b) = decide (a ≠ b) := by
  by_cases h : a = b <;> simp [h]

/-- A boundary and a change of the point are matters of the power page and the energy counts. -/
theorem settle_eq (s : State) : ∃ p, pointChange (interval s) = { s with energy := Vector.replicate 85 0, pwr := p } ∧
    p.capIn = s.pwr.capIn ∧ p.opIn = s.pwr.opIn := by
  obtain ⟨p, boundary, -, -, capIn, opIn⟩ := interval_eq s
  rw [boundary]
  exact ⟨_, pointChange_eq _, (pointChange_capIn _).trans capIn, (pointChange_opIn _).trans opIn⟩

/-- A thread as the mark leaves it: one that STEP.END blocks runs again two cycles later (R24). -/
def State.wokenByMark (s : State) (th : Thread) : Thread :=
  if th.st = .waitMark then { th.resume with notBefore := s.now + 2 } else th

/-- A step that opens, but for the power page. -/
def State.opened (s : State) (p : Pwr) : State :=
  { s with
    energy := Vector.replicate 85 0
    pwr := p
    step := { s.step with
      index := s.step.index + 1, phase := .run, modeLive := s.step.mode, cycle := 0, mtime := 0, mtFrac := 0,
      rdy := s.step.rdy && s.pointWanted != s.pwr.op, rdyAt := none, nonBubble := 0, ended := 0, overrun := false }
    ush := { s.ush with threads := s.ush.threads.map s.wokenByMark } }

theorem openStep_eq (s : State) : ∃ p, openStep s = s.opened p ∧ p.capIn = s.pwr.capIn ∧ p.opIn = s.pwr.opIn ∧
    p.switching = (s.pwr.switching || decide (s.pointWanted ≠ s.pwr.op)) := by
  obtain ⟨p, boundary, op, switching, capIn, opIn⟩ := interval_eq s
  have wanted : ∀ q, q.opIn = s.pwr.opIn → (s.opened q).pointWanted = s.pointWanted := fun q h => by
    simp [State.pointWanted, State.opened, h]
  obtain ⟨q, cleared, op', switching', capIn', opIn'⟩ : ∃ q, q = { p with sBubbles := 0, sStretch := 0 } ∧
      q.op = s.pwr.op ∧ q.switching = s.pwr.switching ∧ q.capIn = s.pwr.capIn ∧ q.opIn = s.pwr.opIn :=
    ⟨_, rfl, op, switching, capIn, opIn⟩
  have opens : openStep s = pointChange (s.opened q) := by
    rw [openStep, boundary, cleared]
    have same : State.pointWanted { s with energy := Vector.replicate 85 0, pwr := p } = s.pointWanted := by
      simp [State.pointWanted, opIn]
    simp only [same, op]
    rfl
  refine ⟨_, opens.trans (pointChange_eq _), ?_, ?_, ?_⟩
  · exact (pointChange_capIn _).trans capIn'
  · exact (pointChange_opIn _).trans opIn'
  · rw [(pointChange_keeps _).2, wanted q opIn']
    change (q.switching || decide (s.pointWanted ≠ q.op)) = _
    rw [op', switching']

/-- A job event in an open step lowers step-ready. -/
theorem jobEvent_step {s : State} (running : s.step.phase ≠ .ready) (p : Page) (b c d : Nat) :
    (jobEvent p b c d s).step = { s.step with rdy := false } := by
  simp [jobEvent, jobFatal, running]

@[simp] theorem jobEvent_hall (p : Page) (b c d : Nat) (s : State) : (jobEvent p b c d s).hall = s.hall := by
  simp [jobEvent]

@[simp] theorem jobEvent_lhall (p : Page) (b c d : Nat) (s : State) : (jobEvent p b c d s).lhall = s.lhall := by
  simp [jobEvent]

/-- What the stop of a mark leaves of `m`, which the mark has closed. -/
theorem markStopped (m : State) (cap : BitVec 10) (op : BitVec 3) :
    let s' := pointChange (stopAct (sampleInputs cap op (countEvt .step 3 m)))
    s'.step.phase = .stopped ∧ s'.evt.valid = m.evt.valid ∧ s'.evt.code = m.evt.code ∧ s'.evt.page = m.evt.page ∧
      s'.mem = m.mem ∧ s'.queuesEmpty = true := by
  obtain ⟨q, record⟩ := countEvt_record .step 3 m
  obtain ⟨step, evt, mem, ush, -⟩ := stopAct_frame (sampleInputs cap op (countEvt .step 3 m))
  have record' : (sampleInputs cap op (countEvt .step 3 m)).evt = { m.evt with srcSeq := q } := record
  have mem' : (sampleInputs cap op (countEvt .step 3 m)).mem = m.mem := countEvt_mem ..
  generalize sampleInputs cap op (countEvt .step 3 m) = x at *
  rw [record'] at evt
  rw [mem'] at mem
  generalize stopAct x = y at *
  rw [pointChange_eq]
  exact ⟨by rw [step], by rw [evt], by rw [evt], by rw [evt], mem, queuesEmpty_of_discarded (by rw [ush])⟩

/-- An early mark is job-fatal, and stops the step (R29). -/
theorem earlyMark {s : State} (h : Claims.markable s) (late : s.step.phase = .run ∨ s.step.phase = .late)
    (low : s.step.rdy = false) (no_record : s.evt.valid = false) (cap : BitVec 10) (op : BitVec 3) :
    ∃ s', exec (.stepMarkNormal cap op) s = .next s' ∧ s'.step.phase = .stopped ∧ s'.evt.valid = true ∧
      s'.evt.code = 0x21 ∧ s'.evt.page = 2 ∧ s'.mem = s.mem ∧ s'.queuesEmpty = true := by
  obtain ⟨acts, quiet⟩ := marksAct_of_markable h
  have running : s.step.phase ≠ .ready := by rcases late with phase | phase <;> rw [phase] <;> decide
  have isOpen : (jobEvent .step 1 0x21 0 s).stepOpen = true := by
    rw [State.stepOpen, State.stepClosed, jobEvent_step running]
    rcases late with phase | phase <;> simp [show s.step.phase = _ from phase]
  have quiet' : (jobEvent .step 1 0x21 0 s).NoneWaits :=
    ⟨by rw [jobEvent_step running]; exact quiet.shadow, by simpa using quiet.hall, by simpa using quiet.lower⟩
  obtain ⟨valid, code, page, -⟩ := jobEvent_record no_record .step 1 0x21 0
  have closes := markEnd_closes quiet' isOpen true
  obtain ⟨valid', code', page'⟩ := closes.record
  obtain ⟨mem', -⟩ := closes.units
  obtain ⟨phase, valid'', code'', page'', mem'', queues⟩ := markStopped (markEnd true (jobEvent .step 1 0x21 0 s)) cap op
  exact ⟨_, congrArg Host.Outcome.next (markNormal_of_early acts no_record late low cap op), phase,
    valid''.trans (valid'.trans valid), code''.trans (code'.trans code), page''.trans (page'.trans page),
    mem''.trans (mem'.trans (by simp)), queues⟩

/-- The step that a mark has closed, as the open step's registers tell of it. -/
structure ClosedStep (s s' : State) : Prop where
  used : s'.step.lastUsed = BitVec.ofNat 22 s.slackUsed
  stretched : s'.step.lastStretched = decide (s.step.len.toNat < s.step.mtime.toNat)
  mem : s'.mem = s.mem
  index : s'.evt.sIndex = s.step.index
  cycle : s'.evt.sCycle = s.step.cycle
  mtime : s'.evt.sMtime = s.step.mtime

section
variable {s m : State} (closes : StepClosedBy false s m) (cap : BitVec 10) (op : BitVec 3)
include closes

/-- The last mark of a task goes to IDLE (R25). -/
theorem lastMark :
    let x := sampleInputs cap op m
    let s' := pointChange (interval { x with step := { x.step with phase := .idle, enable := false, rdy := false, ended := 0 } })
    ClosedStep s s' ∧ s'.evt.sStop = false ∧ s'.pwr.capIn = cap ∧ s'.pwr.opIn = op ∧ s'.step.phase = .idle ∧
      s'.step.enable = false ∧ s'.step.rdy = false ∧ s'.ush = s.ush := by
  obtain ⟨most, step⟩ := closes.step
  obtain ⟨index, cycle, mtime, stop⟩ := closes.snapshot
  obtain ⟨mem, ush, -⟩ := closes.units
  obtain ⟨p, settled, capIn, opIn⟩ := settle_eq { sampleInputs cap op m with step := { (sampleInputs cap op m).step with
    phase := .idle, enable := false, rdy := false, ended := 0 } }
  intro x s'
  rw [show s' = _ from settled]
  exact ⟨⟨(congrArg Step.lastUsed step :), (congrArg Step.lastStretched step :), mem, index, cycle, mtime⟩, stop, capIn, opIn,
    rfl, rfl, rfl, ush⟩

/-- A mark that opens the next step (R21). -/
theorem nextMark : let s' := openStep (sampleInputs cap op m)
    ClosedStep s s' ∧ s'.evt.sStop = false ∧ s'.pwr.capIn = cap ∧ s'.pwr.opIn = op ∧ s'.step.phase = .run ∧
      s'.step.index = s.step.index + 1 ∧ s'.step.cycle = 0 ∧ s'.step.mtime = 0 ∧
      s'.step.rdy = (s.step.rdy && decide (Claims.pointOf s' s.step.mode ≠ s.pwr.op)) ∧
      s'.pwr.switching = (s.pwr.switching || decide (Claims.pointOf s' s.step.mode ≠ s.pwr.op)) ∧
      s'.step.ended = 0 ∧ s'.step.modeLive = s.step.mode ∧ s'.ush = { s.ush with threads := s.ush.threads.map s.wokenByMark } := by
  obtain ⟨most, step⟩ := closes.step
  obtain ⟨index, cycle, mtime, stop⟩ := closes.snapshot
  obtain ⟨mem, ush, pwr, -, -, now, fuse⟩ := closes.units
  obtain ⟨p, opens, capIn, opIn, switching⟩ := openStep_eq (sampleInputs cap op m)
  have point : Claims.pointOf ((sampleInputs cap op m).opened p) s.step.mode = (sampleInputs cap op m).pointWanted := by
    have mode : m.step.mode = s.step.mode := (congrArg Step.mode step :)
    cases dyn : s.step.mode
    · simp [Claims.pointOf, State.pointWanted, sampleInputs, mode, dyn]
    · simp [Claims.pointOf, State.pointWanted, sampleInputs, State.opened, mode, dyn, opIn]
      rfl
  have now' : (sampleInputs cap op m).wokenByMark = s.wokenByMark := by
    funext th
    simp [State.wokenByMark, sampleInputs, now]
  have op' : (sampleInputs cap op m).pwr.op = s.pwr.op := (congrArg Pwr.op pwr :)
  have switching' : (sampleInputs cap op m).pwr.switching = s.pwr.switching := (congrArg Pwr.switching pwr :)
  intro s'
  rw [show s' = _ from opens, point]
  rw [op', switching'] at switching
  refine ⟨⟨(congrArg Step.lastUsed step :), (congrArg Step.lastStretched step :), mem, index, cycle, mtime⟩, stop, capIn, opIn,
    rfl, ?_, rfl, rfl, ?_, switching, rfl, (congrArg Step.mode step :), ?_⟩
  · exact (congrArg (fun x => x.index + 1) step :)
  · have rdy : (sampleInputs cap op m).step.rdy = s.step.rdy := (congrArg Step.rdy step :)
    change ((sampleInputs cap op m).step.rdy && ((sampleInputs cap op m).pointWanted != (sampleInputs cap op m).pwr.op)) = _
    rw [rdy, op', bne_eq_decide]
  · change { m.ush with threads := m.ush.threads.map (sampleInputs cap op m).wokenByMark } = _
    rw [now', ush]

end

end Sys2Proof.Machine

namespace Sys2Proof
open Sys2Proof.Machine

/-- Settles O49: what a mark leaves by `markEnd_closes`, the next step by `nextMark`, the stop by `stopAct_frame`. -/
theorem stepMarks : Obligations.StepMarks := by
  intro s cap op st used closed
  refine ⟨fun off => ?off, fun h ready high no_record => ?normal, fun h late low no_record => ?early, fun h isOpen => ?stop⟩
  case off =>
    have idle : s.marksAct = false := by simp [State.marksAct, show s.step.enable = false from off]
    exact ⟨congrArg Host.Outcome.next (by simp [markNormal, idle]), congrArg Host.Outcome.next (by simp [markStop, idle])⟩
  case stop =>
    obtain ⟨acts, quiet⟩ := marksAct_of_markable h
    have closes := markEnd_closes quiet isOpen true
    obtain ⟨step, evt, mem, ush, vec, opa⟩ := stopAct_frame (countEvt .step 3 (markEnd true s))
    obtain ⟨q, record⟩ := countEvt_record .step 3 (markEnd true s)
    obtain ⟨most, closedStep⟩ := closes.step
    obtain ⟨index, cycle, mtime, stop⟩ := closes.snapshot
    obtain ⟨mem', ush', -, vec', opa', -, -⟩ := closes.units
    simp only [countEvt_step, countEvt_mem, countEvt_ush, countEvt_vec, countEvt_opa, closedStep, record, mem', ush', vec',
      opa'] at step evt mem ush vec opa
    refine ⟨_, congrArg Host.Outcome.next (markStop_of_open acts isOpen), ⟨?_, ?_, mem, ?_, ?_, ?_⟩, ?_, ?_, ?_, ?_, ?_, ?_,
      ?_, ?_, ?_, ?_⟩
    · rw [step]; rfl
    · rw [step]
    · rw [evt]; exact index
    · rw [evt]; exact cycle
    · rw [evt]; exact mtime
    · rw [evt]; exact stop
    · rw [step]
    · rw [step]
    · exact queuesEmpty_of_discarded (by rw [ush])
    · rw [ush]
    · rw [ush]
    · rw [vec]
    · rw [vec]
    · intro a b
      simp [opa]
    · rw [step]
  case early => exact earlyMark h late low no_record cap op
  case normal =>
    obtain ⟨acts, quiet⟩ := marksAct_of_markable h
    have isOpen : s.stepOpen = true := by simp [State.stepOpen, State.stepClosed, show s.step.phase = _ from ready]
    have closes := markEnd_closes quiet isOpen false
    have row := markNormal_of_ready acts no_record ready high cap op
    generalize markEnd false s = m at closes row
    obtain ⟨most, step⟩ := closes.step
    obtain ⟨index, cycle, mtime, stop⟩ := closes.snapshot
    obtain ⟨mem, ush, pwr, -, -, now, fuse⟩ := closes.units
    have task : (sampleInputs cap op m).ush.task = s.ush.task := congrArg Usher.task ush
    dsimp only at row
    rw [task] at row
    by_cases ended : s.ush.task = .ended
    case pos =>
      rw [if_pos ended] at row
      obtain ⟨⟨used, stretched, mem, index, cycle, mtime⟩, stop, capIn, opIn, phase, off, fallen, ush⟩ := lastMark closes cap op
      exact ⟨_, congrArg Host.Outcome.next row, ⟨used, stretched, mem, index, cycle, mtime⟩, stop, capIn, opIn,
        fun _ => ⟨phase, off, fallen, ush⟩, fun runs => absurd ended runs⟩
    case neg =>
      rw [if_neg ended] at row
      obtain ⟨⟨used, stretched, mem, index, cycle, mtime⟩, stop, capIn, opIn, phase, next, c0, m0, rdy, switching, none_ended,
        mode, ush⟩ := nextMark closes cap op
      rw [show s.step.rdy = true from high, Bool.true_and] at rdy
      refine ⟨_, congrArg Host.Outcome.next row, ⟨used, stretched, mem, index, cycle, mtime⟩, stop, capIn, opIn,
        fun last => absurd last ended, fun _ => ⟨phase, next, c0, m0, rdy, switching.trans (by rw [rdy]), none_ended, mode,
        fun t => ?_, ?_⟩⟩
      · rw [State.thread, ush]
        exact Vector.getElem_map ..
      · rw [ush]

end Sys2Proof


/-! ## LAND_CFG, LAND_OVF and LAND_TAGSET -/

namespace Sys2Proof.Machine

/-- The fields of LAND_CFG, LAND_OVF and LAND_TAGSET. -/
def landCfgMask : BitVec 64 :=
  bitsMask 0 2 ||| bitsMask 8 8 ||| bitsMask 16 3 ||| bitsMask 20 5 ||| bitsMask 28 3 ||| bitsMask 32 32
def landOvfMask : BitVec 64 := bitsMask 0 1 ||| bitsMask 4 5 ||| bitsMask 12 52
def landTagsetMask : BitVec 64 := bitsMask 0 6 ||| bitsMask 8 8 ||| bitsMask 16 3 ||| bitsMask 20 3

theorem landCfg_fields (b : Build) (l : Fin 64) : (regFields b .land (0x100 + 32 * l.val)).all = landCfgMask := by
  have fields : regFields b .land (0x100 + 32 * l.val) = rwOnly landCfgMask := by fin_cases l <;> rfl
  simp [fields, rwOnly, Access3.all]

theorem landOvf_fields (b : Build) (l : Fin 64) : (regFields b .land (0x108 + 32 * l.val)).all = landOvfMask := by
  have fields : regFields b .land (0x108 + 32 * l.val) = rwOnly landOvfMask := by fin_cases l <;> rfl
  simp [fields, rwOnly, Access3.all]

theorem landWrite_cfg (l : Fin 64) (v : BitVec 64) (s : State) : landWrite (0x100 + 32 * l.val) v s = landCfg l v s := by
  fin_cases l <;> rfl

theorem landWrite_ovf (l : Fin 64) (v : BitVec 64) (s : State) : landWrite (0x108 + 32 * l.val) v s = landOvf l v s := by
  fin_cases l <;> rfl

theorem withCfg_and_mask (r : Ring) (v : BitVec 64) : r.withCfg (v &&& landCfgMask) =
    { r with
      en := v.toNat % 2 = 1, kind := v.toNat / 2 % 2 = 1, nslotM1 := BitVec.ofNat 8 (v.toNat / 2 ^ 8),
      reads := BitVec.ofNat 3 (v.toNat / 2 ^ 16), slotLog2 := BitVec.ofNat 5 (v.toNat / 2 ^ 20),
      ahead := BitVec.ofNat 3 (v.toNat / 2 ^ 28), base := BitVec.ofNat 32 (v.toNat / 2 ^ 32) } := by
  have en : bitAt (v &&& landCfgMask) 0 = decide (v.toNat % 2 = 1) := bitAt_zero_and_field (by decide) v
  have kind : bitAt (v &&& landCfgMask) 1 = decide (v.toNat / 2 % 2 = 1) := bitAt_and_field (by decide) v
  have slots : (v &&& landCfgMask).extractLsb' 8 8 = BitVec.ofNat 8 (v.toNat / 2 ^ 8) := extractLsb'_and_field (by decide) v
  have reads : (v &&& landCfgMask).extractLsb' 16 3 = BitVec.ofNat 3 (v.toNat / 2 ^ 16) := extractLsb'_and_field (by decide) v
  have log2 : (v &&& landCfgMask).extractLsb' 20 5 = BitVec.ofNat 5 (v.toNat / 2 ^ 20) := extractLsb'_and_field (by decide) v
  have ahead : (v &&& landCfgMask).extractLsb' 28 3 = BitVec.ofNat 3 (v.toNat / 2 ^ 28) := extractLsb'_and_field (by decide) v
  have base : (v &&& landCfgMask).extractLsb' 32 32 = BitVec.ofNat 32 (v.toNat / 2 ^ 32) := extractLsb'_and_field (by decide) v
  rw [Ring.withCfg, en, kind, slots, reads, log2, ahead, base]

theorem landOvf_and_mask (l : Fin 64) (v : BitVec 64) (s : State) : landOvf l (v &&& landOvfMask) s =
    if (s.ring l).en then countEvt .land 1 s
    else modRing l (fun r => { r with
      ovfEn := v.toNat % 2 = 1, ovfLog2 := BitVec.ofNat 5 (v.toNat / 2 ^ 4), ovfBase := BitVec.ofNat 52 (v.toNat / 2 ^ 12) }) s := by
  have en : bitAt (v &&& landOvfMask) 0 = decide (v.toNat % 2 = 1) := bitAt_zero_and_field (by decide) v
  have log2 : (v &&& landOvfMask).extractLsb' 4 5 = BitVec.ofNat 5 (v.toNat / 2 ^ 4) := extractLsb'_and_field (by decide) v
  have base : (v &&& landOvfMask).extractLsb' 12 52 = BitVec.ofNat 52 (v.toNat / 2 ^ 12) := extractLsb'_and_field (by decide) v
  rw [landOvf, en, log2, base]

/-- A tag that a write of LAND_TAGSET names, on a ring that allows it. -/
theorem landTagset_of_slot {l : Fin 64} {k new : Nat} {v : BitVec 64} {s : State} {y : Slot}
    (ring : v.toNat % 64 = l.val) (slot : v.toNat / 2 ^ 8 % 256 = k) (value : v.toNat / 2 ^ 20 % 8 = new)
    (enabled : (s.ring l).en = true) (found : (s.ring l).slots[k]? = some y) (inside : k < (s.ring l).nslot)
    (allowed : (s.ring l).kind = false ∨ s.clu.live = true) (legal : new = 0 ∨ new = 2) :
    landTagset (v &&& landTagsetMask) s =
      if v.toNat / 2 ^ 16 % 8 ≠ y.tag.code ∨ slotHeld s l k = true then countEvt .land 2 s
      else setSlot l k (fun y => { y with
        tag := if new = 0 then .empty else .full, taken := 0, done := 0, refilled := false }) s := by
  have ring' : Fin.ofNat 64 (fld (v &&& landTagsetMask) 0 6) = l := by
    rw [fld_zero_and_field (by decide)]
    exact Fin.ext (by simpa using ring)
  have slot' : fld (v &&& landTagsetMask) 8 8 = k := (fld_and_field (by decide) v).trans slot
  have value' : fld (v &&& landTagsetMask) 20 3 = new := (fld_and_field (by decide) v).trans value
  have expect : fld (v &&& landTagsetMask) 16 3 = v.toNat / 2 ^ 16 % 8 := fld_and_field (by decide) v
  have dense : ((s.ring l).kind && !s.clu.live) = false := by rcases allowed with h | h <;> simp [h]
  have in_ring : decide ((s.ring l).nslot ≤ k) = false := by simpa using inside
  simp only [landTagset, ring', slot', value', expect]
  rcases legal with zero | two
  · simp [enabled, found, dense, in_ring, zero]
  · simp [enabled, found, dense, in_ring, two]

end Sys2Proof.Machine

namespace Sys2Proof
open Sys2Proof.Machine

/-- Settles O46: the three registers by `regRow_effect`. -/
theorem landingRegisters : Obligations.LandingRegisters := by
  intro o l s v r n x ring no
  refine ⟨fun h => ?cfg, fun h => ?ovf, fun h names => ?tagset⟩
  case cfg =>
    have row := regRow_effect h (by omega) (landCfg_fields s.build l) (by decide) (v := v) (landWrite_cfg l _ s)
    rw [landCfg, show (s.ring l).withCfg (v &&& landCfgMask) = x from withCfg_and_mask _ v] at row
    have enables : x.en = decide (n % 2 = 1) := rfl
    have slots : x.nslot = n / 2 ^ 8 % 256 + 1 := rfl
    refine ⟨fun off on ok => ?_, fun off on bad => ?_, fun off stays => ?_, fun on off => ?_, fun on stays changes => ?_⟩
    all_goals refine Eq.trans row ?_
    · rw [if_neg (by simp [show (s.ring l).en = false from off]), if_pos (by simp [enables, on]), if_neg (by simp [ok]), slots]
      rfl
    · rw [if_neg (by simp [show (s.ring l).en = false from off]), if_pos (by simp [enables, on]), if_pos bad]
    · rw [if_neg (by simp [show (s.ring l).en = false from off]), if_neg (by simp [enables, stays])]
      rfl
    · rw [if_pos on, if_neg (by simp [enables, off])]
      split <;> rfl
    · rw [if_pos on, if_pos (by simp [enables, stays]), if_neg changes]
  case ovf =>
    refine (regRow_effect h (by omega) (landOvf_fields s.build l) (by decide) (v := v)
      ((landWrite_ovf l _ s).trans (landOvf_and_mask l v s))).trans ?_
    split <;> rfl
  case tagset =>
    intro k new y enabled found inside allowed legal
    refine (regRow_effect h (by decide) (m := landTagsetMask) (by simp [regFields, landFields, woOnly, Access3.all, landTagsetMask])
      (by decide) (v := v) (landTagset_of_slot names rfl rfl enabled found inside allowed legal)).trans ?_
    split <;> rfl

end Sys2Proof


/-! ## A scrub pass beside an atomic -/

namespace Sys2Proof.Machine

/-- An ADD of 1 on a word of memory, as a job under the number that the next request takes. -/
def nextAtomic : Job where
  id := State.reset.nextId
  kind := .atomMem 0 ⟨0, 0, 0, .add, 1, 0, .cl, false⟩ 0
  buf := []
  left := 1
  top := 0
  next := 0
  bad := none
  entries := []
  seq := 0
  thread := none
  sig := none
  voided := false
  sent := 0
  due := 0

/-- A scrub pass of Hall that reads its first lines, beside that job. -/
def scrubbedAtomic : State :=
  { State.reset with jobs := [nextAtomic], hall := { State.reset.hall with scrubBusy := true } }

/-- The pass' read of the line at address 0 takes the job's operation for its own, and stores the sum. -/
theorem scrubbedAtomic_stores :
    Tests.nx (exec (.hallAccessGrant (.hall 0) 0 0) scrubbedAtomic) (fun s => memByte s 0 == 1) = true := by
  decide

end Sys2Proof.Machine

namespace Sys2Proof
open Sys2Proof.Machine

/-- Refutes O45: in a state in which a job already has the number that the next request takes, an atomic's, a scrub pass' read
stores the atomic's word, where the statement leaves memory alone. -/
theorem not_hallMaintenance : ¬ Obligations.HallMaintenance := fun h => by
  obtain ⟨-, scrub, -⟩ := h .mgmt .hall scrubbedAtomic 0
  obtain ⟨s', y, next, -, -, -, -, -, mem, -⟩ := scrub (.hall 0) 0 0 (by decide) (by decide) (by decide) (by decide) (by decide)
    (by decide) (by decide)
  have stores := scrubbedAtomic_stores
  rw [next] at stores
  have zero : memByte s' 0 = 0 := by rw [memByte, mem]; rfl
  simp [Tests.nx, zero] at stores

end Sys2Proof


/-! ## What a bank grants -/

namespace Sys2Proof.Machine

/-! ### The order of grants -/

theorem firstOf_eq (s : State) (x y : LineReq) : s.firstOf x y = x ∨ s.firstOf x y = y := by
  unfold State.firstOf
  dsimp only
  split
  · exact .inr rfl
  · exact .inl rfl

theorem firstOf_rank (s : State) (x y : LineReq) :
    s.reqRank (s.firstOf x y) ≤ s.reqRank x ∧ s.reqRank (s.firstOf x y) ≤ s.reqRank y := by
  unfold State.firstOf
  dsimp only
  split <;> omega

/-- The first of a list is one of it, and none of it has a higher rank. -/
theorem foldl_firstOf (s : State) (l : List LineReq) (r : LineReq) :
    l.foldl s.firstOf r ∈ r :: l ∧ ∀ x ∈ r :: l, s.reqRank (l.foldl s.firstOf r) ≤ s.reqRank x := by
  induction l generalizing r with
  | nil => simp
  | cons y l ih =>
    obtain ⟨mem, least⟩ := ih (s.firstOf r y)
    obtain ⟨left, right⟩ := firstOf_rank s r y
    rw [List.foldl_cons]
    constructor
    · rcases List.mem_cons.mp mem with first | later
      · rcases firstOf_eq s r y with h | h <;> rw [first, h] <;> simp
      · simp [later]
    · intro x hx
      have bound := least _ (List.mem_cons_self ..)
      rcases List.mem_cons.mp hx with rfl | hx
      · omega
      · rcases List.mem_cons.mp hx with rfl | hx
        · omega
        · exact least x (List.mem_cons_of_mem _ hx)

theorem winner_of_asked {s : State} {b : Nat} {r : LineReq} (wins : s.winner b = some r) :
    r ∈ s.asked b ∧ ∀ x ∈ s.asked b, s.reqRank r ≤ s.reqRank x := by
  unfold State.winner at wins
  split at wins
  · exact absurd wins (by simp)
  · next x rest asked =>
    rw [asked, ← Option.some.inj wins]
    exact foldl_firstOf s rest x

/-! ### What may ask -/

theorem offer_mayAsk {s : State} {uses : PortUses} {acc : Offer} (h : ∀ x ∈ acc.reqs, s.mayAsk x = true) (r : LineReq) :
    ∀ x ∈ (s.offer uses acc r).reqs, s.mayAsk x = true := by
  unfold State.offer
  dsimp only
  split
  · exact h
  · split
    · exact h
    · split
      · next grants =>
        intro x hx
        rcases List.mem_cons.mp hx with rfl | hx
        · simp only [Bool.and_eq_true] at grants
          exact grants.1.2
        · exact h x hx
      · exact h

theorem mayAsk_of_offered {s : State} {x : LineReq} (h : x ∈ s.offered) : s.mayAsk x = true := by
  have all (l : List LineReq) (acc : Offer) (start : ∀ x ∈ acc.reqs, s.mayAsk x = true) :
      ∀ x ∈ (l.foldl (s.offer s.portUses) acc).reqs, s.mayAsk x = true :=
    List.foldlRecOn l _ (motive := fun acc : Offer => ∀ x ∈ acc.reqs, s.mayAsk x = true) start fun acc h r _ => offer_mayAsk h r
  exact all s.reqOrder _ (fun _ h => absurd h List.not_mem_nil) x (by simpa [State.offered] using h)

/-- Behind a waking group a request waits (R209). -/
theorem not_waking_of_mayAsk {s : State} {r : LineReq} (h : s.mayAsk r = true) (u : Nat) : s.powerAt r.addr ≠ .waking u := by
  intro waking
  simp [State.mayAsk, waking] at h

/-! ### The grant -/

theorem flightRead_eq (id k at_ : Nat) (s : State) :
    ∃ vec, flightRead id k at_ s = { s with vec := vec } ∧ vec.v = s.vec.v ∧ vec.k = s.vec.k := by
  unfold flightRead
  (repeat' split) <;> exact ⟨_, rfl, rfl, rfl⟩

theorem tstGranted_eq (r : LineReq) (s : State) : ∃ tile, tstGranted r s = { s with tile := tile } := by
  unfold tstGranted
  dsimp only
  (repeat' split) <;> exact ⟨_, rfl⟩

/-- `s'` is `s` but for the jobs' progress, the runs' cycles and the tile unit. -/
def NotedFrom (s s' : State) : Prop :=
  ∃ jobs vec tile, s' = { s with jobs := jobs, vec := vec, tile := tile } ∧ vec.v = s.vec.v ∧ vec.k = s.vec.k

theorem NotedFrom.tstGranted {s s' : State} (h : NotedFrom s s') (r : LineReq) : NotedFrom s (tstGranted r s') := by
  obtain ⟨jobs, vec, tile, rfl, v, k⟩ := h
  obtain ⟨tile', stored⟩ := tstGranted_eq r { s with jobs := jobs, vec := vec, tile := tile }
  exact ⟨jobs, vec, tile', stored, v, k⟩

/-- A grant is noted with its job, the run of its Flight and the tile unit. -/
theorem noteGrant_noted (r : LineReq) (s : State) : NotedFrom s (noteGrant r s) := by
  obtain ⟨vec, read, v, k⟩ := flightRead_eq r.job (r.tag / 2) s.now s
  have same : NotedFrom s s := ⟨_, _, _, rfl, rfl, rfl⟩
  have begun (f : Job → Job) : NotedFrom s (modJob r.job f s) := ⟨_, _, _, rfl, rfl, rfl⟩
  have flown : NotedFrom s (flightRead r.job (r.tag / 2) s.now s) := ⟨_, vec, _, read, v, k⟩
  unfold noteGrant
  cases r.unit <;> dsimp only <;> (repeat' split) <;>
    simp only [same, begun, flown, NotedFrom.tstGranted]

/-- The words that a grant finds flagged: none where the request writes its whole line (R205). -/
def LineReq.flaggedOf (r : LineReq) (flagged : BitVec 10) : BitVec 10 := if r.whole then 0 else flagged

/-- What the grant of request `r` on an ON line adds to the accesses. -/
def State.granting (s : State) (r : LineReq) (flagged : BitVec 10) : Access :=
  ⟨r, s.now + accessLat s.build r.addr, if r.wr.isSome then [] else cellsAt r.addr (memRead s r.addr r.len),
    eccOf (r.flaggedOf flagged), r.flaggedOf flagged⟩

theorem memStore_storedBytes {s : State} {r : LineReq} (plain : (s.job? r.job).bind Job.atom? = none) :
    storedBytes s r = r.wr.getD [] := by
  unfold storedBytes
  cases r.wr with
  | some w => rfl
  | none => simp [plain]

/-- What a grant on an ON line leaves: the request is gone, the access is in flight, and a clean line has what it stores. -/
structure Granted (r : LineReq) (flagged : BitVec 10) (s s' : State) : Prop where
  reqs : s'.reqs = s.reqs.filter fun x => x.id != r.id
  access : s'.access = s.access ++ [s.granting r flagged]
  mem : s'.mem = match eccOf (r.flaggedOf flagged) with | .clean => memStore (storedBytes s r) s.mem | _ => s.mem
  lost : ∀ t, (s'.tier t).lost = (s.tier t).lost
  scrub : ∀ t, (s'.tier t).scrubPtr = (s.tier t).scrubPtr
  vec : s'.vec.v = s.vec.v ∧ s'.vec.k = s.vec.k
  rest : s'.granted = s.granted ∧ s'.ush = s.ush ∧ s'.opa = s.opa ∧ s'.sync = s.sync ∧ s'.range = s.range

/-- `s` once request `r` has spent its grant and the inner code has corrected `inner` words of its line. -/
def State.spentGrant (s : State) (r : LineReq) (inner : Nat) : State :=
  let spent := spendGrant r { s with reqs := s.reqs.filter fun x => x.id != r.id }
  if r.whole then spent else modTier (tierOf r.addr) (fun h => { h with inner := h.inner + BitVec.ofNat 32 inner }) spent

theorem spentGrant_eq (s : State) (r : LineReq) (inner : Nat) :
    ∃ energy hall lhall, s.spentGrant r inner = { s with
      reqs := s.reqs.filter fun x => x.id != r.id, energy := energy, hall := hall, lhall := lhall } ∧
      hall.lost = s.hall.lost ∧ lhall.lost = s.lhall.lost ∧ hall.scrubPtr = s.hall.scrubPtr ∧
      lhall.scrubPtr = s.lhall.scrubPtr := by
  unfold State.spentGrant
  cases r.whole
  · cases tierOf r.addr <;> exact ⟨_, _, _, rfl, rfl, rfl, rfl, rfl⟩
  · exact ⟨_, _, _, rfl, rfl, rfl, rfl, rfl⟩

/-- `s` once the grant of `r` has stored what a clean line takes, and its access is in flight. -/
def State.stored (s : State) (r : LineReq) (flagged : BitVec 10) : State :=
  { s with
    mem := match eccOf (r.flaggedOf flagged) with | .clean => memStore (storedBytes s r) s.mem | _ => s.mem
    access := s.access ++ [s.granting r flagged] }

theorem grantReq_eq_of_on {r : LineReq} {s : State} (on : s.powerAt r.addr = .on) (inner : Nat) (flagged : BitVec 10) :
    grantReq r inner flagged s = noteGrant r ((s.spentGrant r inner).stored r flagged) := by
  have power : State.powerAt { s with reqs := s.reqs.filter fun x => x.id != r.id } r.addr = .on := on
  unfold grantReq
  simp only [power]
  rfl

theorem grantReq_of_on {r : LineReq} {s : State} (on : s.powerAt r.addr = .on) (inner : Nat) (flagged : BitVec 10) :
    Granted r flagged s (grantReq r inner flagged s) := by
  obtain ⟨energy, hall, lhall, spent, hallLost, lhallLost, hallPtr, lhallPtr⟩ := spentGrant_eq s r inner
  obtain ⟨jobs, vec, tile, noted, v, k⟩ := noteGrant_noted r ((s.spentGrant r inner).stored r flagged)
  rw [grantReq_eq_of_on on, noted, spent] at *
  constructor
  · rfl
  · rfl
  · rfl
  · intro t; cases t <;> assumption
  · intro t; cases t <;> assumption
  · exact ⟨v, k⟩
  · exact ⟨rfl, rfl, rfl, rfl, rfl⟩

/-! ### The row of a bank -/

@[simp] theorem useBank_powerAt (b lost : Nat) (s : State) (a : Nat) : (useBank b lost s).powerAt a = s.powerAt a := by
  unfold useBank
  cases tierOfBank b <;> rfl

theorem useBank_lost (b lost : Nat) (s : State) :
    ((useBank b lost s).tier (tierOfBank b)).lost = (s.tier (tierOfBank b)).lost + BitVec.ofNat 32 lost := by
  rw [useBank, modTier_tier]
  cases tierOfBank b <;> rfl

@[simp] theorem useBank_granting (b lost : Nat) (s : State) (r : LineReq) (flagged : BitVec 10) :
    (useBank b lost s).granting r flagged = s.granting r flagged := by
  unfold useBank
  cases tierOfBank b <;> rfl

theorem useBank_storedBytes (b lost : Nat) (s : State) (r : LineReq) : storedBytes (useBank b lost s) r = storedBytes s r := by
  unfold useBank
  cases tierOfBank b <;> rfl

section
variable {s : State} {b : Nat} (clocked : s.clocked = true) (free : b ∉ s.granted) (no_repair : s.repairAsks b = false)
include clocked free no_repair

theorem accessGrant_of_winner {r : LineReq} (wins : s.winner b = some r) (inner : Nat) (flagged : BitVec 10) :
    accessGrant b inner flagged s = grantReq r inner flagged (useBank b (s.askers b - 1) s) := by
  simp [accessGrant, clocked, free, no_repair, wins]

end

theorem scrubNext_of_idle {s : State} (hall : s.hall.scrubBusy = false) (lower : s.lhall.scrubBusy = false) (b : Nat) :
    s.scrubNext b = none := by
  have idle : (s.tier (tierOfBank b)).scrubBusy = false := by
    cases tierOfBank b
    · exact hall
    · exact lower
  simp [State.scrubNext, idle]

theorem accessGrant_of_none {s : State} {b : Nat} (quiet : s.winner b = none) (no_scrub : s.scrubNext b = none) (inner : Nat)
    (flagged : BitVec 10) : accessGrant b inner flagged s = s := by
  simp [accessGrant, quiet, scrubGrant, no_scrub]

theorem accessLat_eq (b : Build) (a : Nat) :
    accessLat b a = if a < 0x1800000 then 7 else if b.tiers2 then 18 else 16 := rfl

theorem eccOf_eq (w : BitVec 10) : eccOf w =
    let n := ((List.range 10).filter fun i => w.toNat / 2 ^ i % 2 = 1).length
    if n = 0 then .clean else if n ≤ 2 then .flagged else .uncorrectable n := by
  rw [eccOf, popWords_eq]

theorem flaggedOf_eq (r : LineReq) (flagged : BitVec 10) :
    r.flaggedOf flagged = if r.wr.isSome ∧ (r.wr.getD []).length = 128 then 0 else flagged := by
  cases wr : r.wr with
  | none => simp [LineReq.flaggedOf, LineReq.whole, wr]
  | some w => simp [LineReq.flaggedOf, LineReq.whole, wr]

/-- The bytes of memory from `a` on, as cells. -/
theorem cellsAt_memRead (s : State) (a n : Nat) :
    cellsAt a (memRead s a n) = (List.range n).map fun i => (a + i, memByte s (a + i)) := by
  apply List.ext_getElem <;> simp [cellsAt, memRead]

end Sys2Proof.Machine

namespace Sys2Proof
open Sys2Proof.Machine

/-- Settles O43: the winner by `winner_of_asked`, its grant by `grantReq_of_on`. -/
theorem lineGrants : Obligations.LineGrants := by
  intro b inner flagged s
  refine ⟨fun r wins => ?order, fun r clocked free no_repair wins on plain wf => ?grant, fun quiet hall lower => ?quiet⟩
  case order =>
    obtain ⟨asked, least⟩ := winner_of_asked wins
    have offered : r ∈ s.offered := (List.mem_filter.mp asked).1
    exact ⟨asked, least, not_waking_of_mayAsk (mayAsk_of_offered offered)⟩
  case grant =>
    intro cs words n
    have row := accessGrant_of_winner clocked free no_repair wins inner flagged
    have on' : (useBank (LineBank.idx b) (s.askers (LineBank.idx b) - 1) s).powerAt r.addr = .on := by simpa using on
    obtain ⟨reqs, access, mem, lost, -, ⟨v, k⟩, granted, ush, opa, sync, range⟩ := grantReq_of_on on' inner flagged
    rw [useBank_granting] at access
    rw [useBank_storedBytes, memStore_storedBytes plain] at mem
    have flags : r.flaggedOf flagged = words := flaggedOf_eq r flagged
    have ecc : eccOf words = if n = 0 then .clean else if n ≤ 2 then .flagged else .uncorrectable n := eccOf_eq words
    rw [flags, ecc, useBank_mem] at mem
    have stored : (grantReq r inner flagged (useBank (LineBank.idx b) (s.askers (LineBank.idx b) - 1) s)).mem =
        if n = 0 then memStore cs s.mem else s.mem := by
      refine mem.trans ?_
      by_cases none_flagged : n = 0
      · simp only [none_flagged, if_true, cs]
      · by_cases two : n ≤ 2 <;> simp only [none_flagged, two, if_true, if_false]
    have frame (a : Nat) (outside : ∀ c ∈ cs, c.1 ≠ a) :
        memByte (grantReq r inner flagged (useBank (LineBank.idx b) (s.askers (LineBank.idx b) - 1) s)) a = memByte s a := by
      rw [memByte, stored]
      split
      · exact memStore_frame cs s.mem wf a outside
      · rfl
    have data : (s.granting r flagged).data =
        if r.wr.isSome then [] else (List.range r.len).map fun i => (r.addr + i, memByte s (r.addr + i)) := by
      rw [← cellsAt_memRead]
      rfl
    exact ⟨_, s.granting r flagged, congrArg Host.Outcome.next row, reqs.trans (by simp [useBank]),
      granted.trans (by simp [useBank]), (lost _).trans (useBank_lost ..), access.trans (by simp [useBank]), rfl, flags, rfl, data,
      (congrArg eccOf flags).trans ecc, stored, frame, ush.trans (by simp [useBank]), v.trans (by simp [useBank]),
      k.trans (by simp [useBank]), opa.trans (by simp [useBank]), sync.trans (by simp [useBank]), range.trans (by simp [useBank])⟩
  case quiet => exact congrArg Host.Outcome.next (accessGrant_of_none quiet (scrubNext_of_idle hall lower _) inner flagged)

end Sys2Proof


/-! ## The outer code (R203, R204) -/

namespace Sys2Proof.Machine

/-! ### The field's operations are linear over bits -/

theorem xor_swap (a b c d : BitVec 8) : (a ^^^ c) ^^^ (b ^^^ d) = (a ^^^ b) ^^^ (c ^^^ d) := by ac_rfl

theorem ite_bne (p q : Bool) (x : BitVec 8) :
    (if (p ^^ q) then x else 0) = (if p then x else 0) ^^^ (if q then x else 0) := by
  cases p <;> cases q <;> simp

theorem gfDouble_xor (x y : BitVec 8) : gfDouble (x ^^^ y) = gfDouble x ^^^ gfDouble y := by
  unfold gfDouble
  rw [BitVec.shiftLeft_xor_distrib, BitVec.msb_xor, ite_bne, xor_swap]

/-- The rounds of a product over the bits `l` of the second factor. -/
theorem gfRounds_xor (x y z : BitVec 8) (l : List Nat) :
    l.foldr (fun i acc => gfDouble acc ^^^ (if (y ^^^ z).getLsbD i then x else 0)) 0 =
      l.foldr (fun i acc => gfDouble acc ^^^ (if y.getLsbD i then x else 0)) 0 ^^^
        l.foldr (fun i acc => gfDouble acc ^^^ (if z.getLsbD i then x else 0)) 0 := by
  induction l with
  | nil => simp
  | cons i l ih => rw [List.foldr_cons, List.foldr_cons, List.foldr_cons, ih, gfDouble_xor, BitVec.getLsbD_xor, ite_bne, xor_swap]

theorem gfMul_xor (x y z : BitVec 8) : gfMul x (y ^^^ z) = gfMul x y ^^^ gfMul x z := gfRounds_xor x y z _

theorem gfMul_zero (x : BitVec 8) : gfMul x 0 = 0 := by
  have h := gfMul_xor x 0 0
  simpa using h

theorem gfRounds_xor_left (x x' y : BitVec 8) (l : List Nat) :
    l.foldr (fun i acc => gfDouble acc ^^^ (if y.getLsbD i then x ^^^ x' else 0)) 0 =
      l.foldr (fun i acc => gfDouble acc ^^^ (if y.getLsbD i then x else 0)) 0 ^^^
        l.foldr (fun i acc => gfDouble acc ^^^ (if y.getLsbD i then x' else 0)) 0 := by
  induction l with
  | nil => simp
  | cons i l ih =>
    rw [List.foldr_cons, List.foldr_cons, List.foldr_cons, ih, gfDouble_xor, ← xor_swap]
    congr 1
    split <;> simp

theorem gfMul_xor_left (x x' y : BitVec 8) : gfMul (x ^^^ x') y = gfMul x y ^^^ gfMul x' y := gfRounds_xor_left x x' y _

/-- A word is the sum of its bits. -/
theorem eq_xor_of_bits (z : BitVec 8) :
    z = (List.range 8).foldl (fun acc i => acc ^^^ (if z.getLsbD i then BitVec.twoPow 8 i else 0)) 0 := by
  revert z
  decide +kernel

/-- Additive maps that agree on every power of two agree on every word. -/
theorem eq_of_additive {f g : BitVec 8 → BitVec 8} (addf : ∀ x y, f (x ^^^ y) = f x ^^^ f y)
    (addg : ∀ x y, g (x ^^^ y) = g x ^^^ g y) (bits : ∀ i < 8, f (BitVec.twoPow 8 i) = g (BitVec.twoPow 8 i))
    (z : BitVec 8) : f z = g z := by
  have zero : f 0 = g 0 := by
    have zerof : f 0 = 0 := by simpa using addf 0 0
    have zerog : g 0 = 0 := by simpa using addg 0 0
    rw [zerof, zerog]
  have sum (l : List Nat) (small : ∀ i ∈ l, i < 8) (b : BitVec 8) (hb : f b = g b) :
      f (l.foldl (fun acc i => acc ^^^ (if z.getLsbD i then BitVec.twoPow 8 i else 0)) b) =
        g (l.foldl (fun acc i => acc ^^^ (if z.getLsbD i then BitVec.twoPow 8 i else 0)) b) := by
    induction l generalizing b with
    | nil => exact hb
    | cons i l ih =>
      refine ih (fun k hk => small k (List.mem_cons_of_mem _ hk)) _ ?_
      rw [addf, addg, hb]
      cases z.getLsbD i
      · exact congrArg _ zero
      · exact congrArg _ (bits i (small i (List.mem_cons_self ..)))
  have all := sum (List.range 8) (fun i hi => List.mem_range.mp hi) 0 zero
  rwa [← eq_xor_of_bits] at all

/-- What the field's laws say of powers of two. -/
theorem gfMul_bits : ∀ i < 8, ∀ k < 8,
    gfMul (BitVec.twoPow 8 i) (BitVec.twoPow 8 k) = gfMul (BitVec.twoPow 8 k) (BitVec.twoPow 8 i) ∧
    gfMul (BitVec.twoPow 8 i) (gfDouble (BitVec.twoPow 8 k)) = gfDouble (gfMul (BitVec.twoPow 8 i) (BitVec.twoPow 8 k)) := by
  decide +kernel

theorem gfMul_one (y : BitVec 8) : gfMul 1 y = y :=
  eq_of_additive (f := gfMul 1) (g := id) (gfMul_xor 1) (fun _ _ => rfl) (by decide +kernel) y

theorem gfMul_comm (x y : BitVec 8) : gfMul x y = gfMul y x :=
  eq_of_additive (f := gfMul x) (g := (gfMul · x)) (gfMul_xor x) (fun _ _ => gfMul_xor_left ..)
    (fun k hk => eq_of_additive (f := (gfMul · (BitVec.twoPow 8 k))) (g := gfMul (BitVec.twoPow 8 k))
      (fun _ _ => gfMul_xor_left ..) (gfMul_xor _) (fun i hi => (gfMul_bits i hi k hk).1) x) y

theorem gfMul_double (x y : BitVec 8) : gfMul x (gfDouble y) = gfDouble (gfMul x y) :=
  eq_of_additive (f := fun y => gfMul x (gfDouble y)) (g := fun y => gfDouble (gfMul x y))
    (fun _ _ => by rw [gfDouble_xor, gfMul_xor]) (fun _ _ => by rw [gfMul_xor, gfDouble_xor])
    (fun k hk => eq_of_additive (f := (gfMul · (gfDouble (BitVec.twoPow 8 k)))) (g := fun x => gfDouble (gfMul x (BitVec.twoPow 8 k)))
      (fun _ _ => gfMul_xor_left ..) (fun _ _ => by rw [gfMul_xor_left, gfDouble_xor]) (fun i hi => (gfMul_bits i hi k hk).2) x) y

theorem gfMul_assoc (x y z : BitVec 8) : gfMul x (gfMul y z) = gfMul (gfMul x y) z := by
  have rounds (l : List Nat) : gfMul x (l.foldr (fun i acc => gfDouble acc ^^^ (if z.getLsbD i then y else 0)) 0) =
      l.foldr (fun i acc => gfDouble acc ^^^ (if z.getLsbD i then gfMul x y else 0)) 0 := by
    induction l with
    | nil => exact gfMul_zero x
    | cons i l ih =>
      rw [List.foldr_cons, List.foldr_cons, gfMul_xor, gfMul_double, ih]
      congr 1
      split
      · rfl
      · exact gfMul_zero x
  exact rounds (List.range 8)

/-- The search of `gfInv` ends at an inverse where a power of α is one. -/
theorem gfMul_gfInv {x : BitVec 8} {k : Nat} (small : k < 255) (inverse : gfMul x (gfPow k) = 1) : gfMul x (gfInv x) = 1 := by
  unfold gfInv
  cases search : ((List.range 255).map gfPow).find? fun y => gfMul x y == 1 with
  | none =>
    have fails := List.find?_eq_none.mp search (gfPow k) (List.mem_map.mpr ⟨k, List.mem_range.mpr small, rfl⟩)
    exact absurd (beq_iff_eq.mpr inverse) fails
  | some y => exact beq_iff_eq.mp (List.find?_some search :)

/-- The inverse that the decoder uses for words `i` and `j`. -/
def rsInverse (i j : Nat) : BitVec 8 := gfInv (gfPow i ^^^ gfPow j)

/-- The exponent of that inverse: αⁱ + αʲ is αⁱ times 1 + αʲ⁻ⁱ, whose exponent the list gives for j − i from 1 to 9. -/
def rsExponent (i j : Nat) : Nat := (510 - i - [25, 50, 223, 100, 138, 191, 112, 200, 120].getD (j - i - 1) 0) % 255

theorem rsExponent_inverse : ∀ j < 10, ∀ i < j, gfMul (gfPow i ^^^ gfPow j) (gfPow (rsExponent i j)) = 1 := by
  decide +kernel

theorem rsInverse_left {i j : Nat} (hj : j < 10) (hi : i < j) (z : BitVec 8) :
    gfMul (rsInverse i j) (gfMul (gfPow i) z ^^^ gfMul (gfPow j) z) = z := by
  have inverse : gfMul (gfPow i ^^^ gfPow j) (rsInverse i j) = 1 :=
    gfMul_gfInv (Nat.mod_lt _ (by decide)) (rsExponent_inverse j hj i hi)
  rw [← gfMul_xor_left, gfMul_assoc, gfMul_comm (rsInverse i j), inverse, gfMul_one]

theorem rsInverse_right {i j : Nat} (hj : j < 10) (hi : i < j) (z : BitVec 8) :
    gfMul (gfPow i) (gfMul (rsInverse i j) z) ^^^ gfMul (gfPow j) (gfMul (rsInverse i j) z) = z := by
  have left := rsInverse_left hj hi z
  rwa [← gfMul_xor_left, gfMul_assoc, gfMul_comm (rsInverse i j), ← gfMul_assoc, gfMul_xor_left] at left

/-! ### A codeword's values at the roots -/

theorem foldl_xor (l : List (BitVec 8)) (b : BitVec 8) : l.foldl (· ^^^ ·) b = b ^^^ l.foldl (· ^^^ ·) 0 := by
  induction l generalizing b with
  | nil => simp
  | cons x l ih =>
    rw [List.foldl_cons, List.foldl_cons, ih, ih (0 ^^^ x)]
    simp [BitVec.xor_assoc]

/-- The sum of a list in which one word is put. -/
theorem foldl_xor_set {l : List (BitVec 8)} {i : Nat} (hi : i < l.length) (x : BitVec 8) :
    (l.set i x).foldl (· ^^^ ·) 0 = (l.set i 0).foldl (· ^^^ ·) 0 ^^^ x := by
  induction l generalizing i with
  | nil => exact absurd hi (Nat.not_lt_zero i)
  | cons y l ih =>
    cases i with
    | zero =>
      rw [List.set_cons_zero, List.set_cons_zero, List.foldl_cons, List.foldl_cons, foldl_xor l (0 ^^^ x), foldl_xor l (0 ^^^ 0)]
      simp [BitVec.xor_comm]
    | succ i =>
      rw [List.set_cons_succ, List.set_cons_succ, List.foldl_cons, List.foldl_cons, foldl_xor _ (0 ^^^ y), foldl_xor (l.set i 0),
        ih (Nat.lt_of_succ_lt_succ hi)]
      simp only [BitVec.xor_assoc]

/-- A word of the codeword adds its own part to a value. -/
theorem rsValue_set {c : List (BitVec 8)} {i : Nat} (hi : i < c.length) (k : Nat) (x : BitVec 8) :
    rsValue k (c.set i x) = rsValue k (c.set i 0) ^^^ gfMul (gfPow (k * i)) x := by
  have length : i < (c.mapIdx fun j b => gfMul (gfPow (k * j)) b).length := by simpa using hi
  unfold rsValue
  rw [List.mapIdx_set, List.mapIdx_set, gfMul_zero, foldl_xor_set length]

/-- The codeword with words `i` and `j` lost. -/
def rsErased (i j : Nat) (c : List (BitVec 8)) : List (BitVec 8) := (c.set i 0).set j 0

theorem rsValue_put {c : List (BitVec 8)} {i j : Nat} (length : c.length = 10) (hi : i < j) (hj : j < 10) (k : Nat)
    (x y : BitVec 8) : rsValue k ((c.set i x).set j y) =
      rsValue k (rsErased i j c) ^^^ gfMul (gfPow (k * i)) x ^^^ gfMul (gfPow (k * j)) y := by
  have swap (a b : BitVec 8) : (c.set i a).set j b = (c.set j b).set i a := List.set_comm a b (by omega)
  rw [rsValue_set (by simpa [length] using hj), swap, rsValue_set (by simp [length]; omega), ← swap, rsErased]

/-- The two words that `rsSolve` finds make both values zero, and no other two do. -/
theorem rsSolve_iff {c : List (BitVec 8)} {i j : Nat} (length : c.length = 10) (hi : i < j) (hj : j < 10) (x y : BitVec 8) :
    rsSolve i j c = (x, y) ↔ rsValue 0 ((c.set i x).set j y) = 0 ∧ rsValue 1 ((c.set i x).set j y) = 0 := by
  have solves : rsSolve i j c = (rsValue 0 (rsErased i j c) ^^^ gfMul (rsInverse i j) (rsValue 1 (rsErased i j c) ^^^
      gfMul (gfPow i) (rsValue 0 (rsErased i j c))), gfMul (rsInverse i j) (rsValue 1 (rsErased i j c) ^^^
      gfMul (gfPow i) (rsValue 0 (rsErased i j c)))) := rfl
  have one : gfPow 0 = 1 := rfl
  rw [solves, rsValue_put length hi hj, rsValue_put length hi hj, Nat.zero_mul, Nat.zero_mul, Nat.one_mul, Nat.one_mul, one,
    gfMul_one, gfMul_one, Prod.mk.injEq]
  generalize rsValue 0 (rsErased i j c) = s0
  generalize rsValue 1 (rsErased i j c) = s1
  constructor
  · rintro ⟨rfl, rfl⟩
    have right := rsInverse_right hj hi (s1 ^^^ gfMul (gfPow i) s0)
    generalize gfMul (rsInverse i j) (s1 ^^^ gfMul (gfPow i) s0) = y at right ⊢
    constructor
    · rw [BitVec.xor_assoc, BitVec.xor_assoc, BitVec.xor_self, BitVec.xor_zero, BitVec.xor_self]
      rfl
    · rw [gfMul_xor, ← BitVec.xor_assoc, BitVec.xor_assoc (s1 ^^^ _), right, BitVec.xor_self]
      rfl
  · rintro ⟨first, second⟩
    rw [BitVec.xor_assoc] at first second
    have hs0 : s0 = x ^^^ y := BitVec.xor_eq_zero_iff.mp first
    have hs1 : s1 = gfMul (gfPow i) x ^^^ gfMul (gfPow j) y := BitVec.xor_eq_zero_iff.mp second
    have sum : s1 ^^^ gfMul (gfPow i) s0 = gfMul (gfPow i) y ^^^ gfMul (gfPow j) y := by
      rw [hs0, hs1, gfMul_xor, xor_swap, BitVec.xor_self, BitVec.zero_xor, BitVec.xor_comm]
    rw [sum, rsInverse_left hj hi, hs0, BitVec.xor_assoc, BitVec.xor_self, BitVec.xor_zero]
    exact ⟨rfl, rfl⟩

theorem rsEncode_eq (d : List (BitVec 8)) :
    rsEncode d = ((d ++ [0, 0]).set 8 (rsSolve 8 9 (d ++ [0, 0])).1).set 9 (rsSolve 8 9 (d ++ [0, 0])).2 := rfl

/-- A codeword has the value zero at both roots. -/
theorem rsEncode_values {d : List (BitVec 8)} (length : d.length = 8) : rsValue 0 (rsEncode d) = 0 ∧ rsValue 1 (rsEncode d) = 0 :=
  (rsSolve_iff (by simp [length]) (by decide) (by decide) _ _).mp rfl

theorem rsErased_congr {c e : List (BitVec 8)} {i j : Nat} (lengths : e.length = c.length)
    (same : ∀ k, k ≠ i → k ≠ j → e.getD k 0 = c.getD k 0) (x y : BitVec 8) : (e.set i x).set j y = (c.set i x).set j y := by
  apply List.ext_getElem
  · simp [lengths]
  · intro k hk hk'
    rw [List.getElem_set, List.getElem_set, List.getElem_set, List.getElem_set]
    split
    · rfl
    · split
      · rfl
      · have at_k := same k (Ne.symm ‹_›) (Ne.symm ‹_›)
        simp only [List.length_set] at hk hk'
        simpa [List.getD_eq_getElem?_getD, hk, hk'] using at_k

/-- The other eight words of a codeword restore the two that are lost. -/
theorem rsCorrect_of_values {c e : List (BitVec 8)} {i j : Nat} (length : c.length = 10) (zero : rsValue 0 c = 0 ∧ rsValue 1 c = 0)
    (hi : i < j) (hj : j < 10) (length' : e.length = 10) (same : ∀ k, k ≠ i → k ≠ j → e.getD k 0 = c.getD k 0) :
    rsCorrect i j e = c := by
  have put (x y : BitVec 8) := rsErased_congr (length'.trans length.symm) same x y
  have own : (c.set i (c.getD i 0)).set j (c.getD j 0) = c := by
    have hi' : i < c.length := by omega
    have hj' : j < c.length := by omega
    simp [hi', hj']
  have solves : rsSolve i j e = (c.getD i 0, c.getD j 0) :=
    (rsSolve_iff length' hi hj _ _).mpr (by rw [put, own]; exact zero)
  rw [rsCorrect, solves]
  exact (put _ _).trans own

theorem outerCode : Claims.OuterCode := by
  intro d length c
  have length' : c.length = 10 := by simp [c, rsEncode_eq, length]
  have kept : c.take 8 = d := by simp [c, rsEncode_eq, length]
  obtain ⟨first, second⟩ := rsEncode_values length
  exact ⟨length', kept, first, second, fun i j e hi hj he same => rsCorrect_of_values length' ⟨first, second⟩ hi hj he same⟩

end Sys2Proof.Machine


/-! ## How accesses end -/

namespace Sys2Proof.Machine

/-! ### Jobs -/

theorem job?_id {s : State} {id : Nat} {j : Job} (h : s.job? id = some j) : j.id = id :=
  beq_iff_eq.mp (List.find?_some h :)

/-- The job numbered `id`, after a change of it that keeps its number. -/
theorem job?_modJob {s : State} {id : Nat} {j : Job} (h : s.job? id = some j) {f : Job → Job} (keeps : ∀ j, (f j).id = j.id) :
    (modJob id f s).job? id = some (f j) := by
  have found (l : List Job) (h : l.find? (·.id == id) = some j) :
      (l.map fun j => if j.id = id then f j else j).find? (·.id == id) = some (f j) := by
    induction l with
    | nil => exact absurd h (by simp)
    | cons x l ih =>
      by_cases own : x.id = id
      · rw [List.find?_cons_of_pos (by simpa using own)] at h
        rw [List.map_cons, List.find?_cons_of_pos (by simp [own, keeps]), if_pos own, Option.some.inj h]
      · rw [List.find?_cons_of_neg (by simpa using own)] at h
        rw [List.map_cons, List.find?_cons_of_neg (by simp [own]), ih h]
  exact found s.jobs h

/-- A release says nothing of the jobs. -/
theorem release_withJobs (id : Nat) (ok : Bool) (s : State) (jobs : List Job) :
    release id ok { s with jobs := jobs } = { release id ok s with jobs := jobs } := by
  simp only [release]
  split
  · rfl
  · split <;> rfl

theorem releaseAll_withJobs (ids : List Nat) (ok : Bool) (s : State) (jobs : List Job) :
    releaseAll ids ok { s with jobs := jobs } = { releaseAll ids ok s with jobs := jobs } := by
  unfold releaseAll
  induction ids generalizing s with
  | nil => rfl
  | cons i ids ih => rw [List.foldl_cons, List.foldl_cons, release_withJobs, ih]

/-- `s` once job `id` has ended and given back `entries`. -/
def State.ended (s : State) (id : Nat) (entries : List Nat) : State := dropJob id (releaseAll entries true s)

theorem releaseAll_jobs (ids : List Nat) (ok : Bool) (s : State) : (releaseAll ids ok s).jobs = s.jobs :=
  (congrArg State.jobs (releaseAll_withJobs ids ok s s.jobs) :)

/-- What a job that ends had become makes no difference. -/
theorem ended_modJob (s : State) (id : Nat) (entries : List Nat) {f : Job → Job} (keeps : ∀ j, (f j).id = j.id) :
    (modJob id f s).ended id entries = s.ended id entries := by
  have dropped : (s.jobs.map fun j => if j.id = id then f j else j).filter (·.id != id) = s.jobs.filter (·.id != id) := by
    induction s.jobs with
    | nil => rfl
    | cons x l ih =>
      by_cases own : x.id = id
      · simp only [List.map_cons, own, if_true]
        rw [List.filter_cons_of_neg (by simp [keeps, own]), List.filter_cons_of_neg (by simp [own]), ih]
      · simp only [List.map_cons, own, if_false]
        rw [List.filter_cons_of_pos (by simp [own]), List.filter_cons_of_pos (by simp [own]), ih]
  have jobs := releaseAll_jobs entries true s
  unfold State.ended modJob
  rw [releaseAll_withJobs]
  simp only [dropJob, dropped, jobs]

@[simp] theorem ended_ush (s : State) (id : Nat) (entries : List Nat) : (s.ended id entries).ush = s.ush :=
  releaseAll_ush ..

/-! ### The last access of a job -/

/-- `s` without access `x`. -/
def State.without (s : State) (x : Access) : State := { s with access := s.access.filter fun y => y.req.id != x.req.id }

/-- The job whose last access `x` was, as it ends: nothing is left of it, and its buffer holds what the access brought. -/
def Job.filled (j : Job) (x : Access) : Job := { j with left := 0, buf := j.buf ++ x.data }

/-- `s` as the job `j` of access `x` ends. -/
def State.delivered (s : State) (x : Access) (j : Job) : State :=
  modJob j.id (fun k => { k with buf := k.buf ++ x.data }) (modJob j.id (fun k => { k with left := k.left - 1 }) (s.without x))

theorem delivered_ended (s : State) (x : Access) (j : Job) (entries : List Nat) :
    (s.delivered x j).ended j.id entries = (s.without x).ended j.id entries := by
  rw [State.delivered, ended_modJob _ _ _ (by intro; rfl), ended_modJob _ _ _ (by intro; rfl)]

section
variable {s : State} {id : Nat} {x : Access} {j : Job} (last : Claims.lastAccess s id x j)
include last

theorem lastAccess_job : s.job? x.req.job = some j ∧ j.id = x.req.job ∧ j.voided = false ∧ j.left = 1 ∧ x.ecc = .clean := by
  obtain ⟨-, -, -, clean, job, alive, one⟩ := last
  exact ⟨job, job?_id job, alive, one, clean⟩

theorem dueAccess_of_last (wr : Bool) (dir : x.req.wr.isSome = wr) : s.dueAccess id wr = some x := by
  obtain ⟨found, clocked, due, clean, -⟩ := last
  have notFlagged : (x.ecc != .flagged) = true ∧ (x.ecc != .reread) = true := by rw [clean]; decide
  simp [State.dueAccess, found, clocked, due, dir, notFlagged]

/-- What the last access of a job brings ends the job. -/
theorem deliver_of_last (plain : ∀ k s', k.kind = j.kind → jobStep x k s' =
    modJob k.id (fun k => { k with buf := k.buf ++ x.data }) s') :
    deliver x s = jobDone (j.filled x) (s.delivered x j) := by
  obtain ⟨job, number, alive, one, clean⟩ := lastAccess_job last
  have counted : (modJob x.req.job (fun k => { k with left := k.left - 1 }) (s.without x)).job? x.req.job =
      some { j with left := j.left - 1 } := job?_modJob (s := s.without x) job fun _ => rfl
  have filled : (modJob x.req.job (fun k => { k with buf := k.buf ++ x.data })
      (modJob x.req.job (fun k => { k with left := k.left - 1 }) (s.without x))).job? x.req.job = some (j.filled x) := by
    rw [job?_modJob counted (by intro; rfl), Job.filled, one]
  simp only [State.without] at counted filled
  unfold deliver
  dsimp only
  rw [clean]
  dsimp only
  rw [counted]
  dsimp only
  rw [if_neg (by simp [alive]), plain { j with left := j.left - 1 } _ rfl]
  dsimp only
  rw [number, filled]
  simp [Job.filled, State.delivered, State.without, number]

end

theorem bufBytes_length (buf : List Host.Cell) (a n : Nat) : (bufBytes buf a n).length = n := by
  simp [bufBytes]

theorem extendLoad_bufBytes (sg : Bool) (buf : List Host.Cell) (a n : Nat) : extendLoad sg n (bufBytes buf a n) =
    if sg then BitVec.ofInt 64 (BitVec.ofNat (8 * n) (leNat (bufBytes buf a n))).toInt
    else BitVec.ofNat 64 (leNat (bufBytes buf a n)) := by
  have whole : (bufBytes buf a n).take n = bufBytes buf a n := List.take_of_length_le (by rw [bufBytes_length])
  rw [extendLoad, whole]
  rfl

section
variable {s : State} {id : Nat} {x : Access} {j : Job} (last : Claims.lastAccess s id x j)
include last

/-- A load's last data gives its register the value and ends it. -/
theorem readUsable_load (reads : x.req.wr = none) {t : Fin 16} {rd : Fin 32} {a n : Nat} {sg : Bool} {pc : BitVec 18}
    (kind : j.kind = .load t rd a n sg pc) : readUsable id s =
      loadReg t j.id rd (extendLoad sg n (bufBytes (j.buf ++ x.data) a n)) ((s.without x).ended j.id j.entries) := by
  have plain (k : Job) (s' : State) (same : k.kind = j.kind) :
      jobStep x k s' = modJob k.id (fun k => { k with buf := k.buf ++ x.data }) s' := by
    simp only [jobStep, same, kind]
  rw [readUsable, dueAccess_of_last last false (by simp [reads])]
  dsimp only
  rw [deliver_of_last last plain, ← delivered_ended]
  simp only [jobDone, Job.filled, kind]
  rfl

/-- A store's last write ends it. -/
theorem writeComplete_store (writes : x.req.wr.isSome = true) {t : Fin 16} {pc : BitVec 18} (kind : j.kind = .store t pc) :
    writeComplete id s = (s.without x).ended j.id j.entries := by
  have plain (k : Job) (s' : State) (same : k.kind = j.kind) :
      jobStep x k s' = modJob k.id (fun k => { k with buf := k.buf ++ x.data }) s' := by
    simp only [jobStep, same, kind]
  rw [writeComplete, dueAccess_of_last last true writes]
  dsimp only
  rw [deliver_of_last last plain, ← delivered_ended]
  simp only [jobDone, Job.filled, kind]
  rfl

end

/-- A register that a load still owes takes its value, and its thread goes on if it waits for it. -/
theorem loadReg_of_pend {s : State} {t : Fin 16} {id : Nat} {rd : Fin 32} (owed : (id, rd) ∈ (s.thread t).pend) (v : BitVec 64) :
    (∀ q, ((loadReg t id rd v s).thread t).reg q = if q = 0 then 0 else if q = rd then v else (s.thread t).reg q) ∧
    ((loadReg t id rd v s).thread t).pend = (s.thread t).pend.filter (fun p => p.1 != id) ∧
    ((loadReg t id rd v s).thread t).st = (if (s.thread t).st = .waitData (.reg rd) then .ready else (s.thread t).st) ∧
    ∀ u, u ≠ t → (loadReg t id rd v s).thread u = s.thread u := by
  have pending : (s.thread t).pend.any (fun p => p.1 == id) = true := List.any_eq_true.mpr ⟨_, owed, by simp⟩
  unfold loadReg
  refine ⟨fun q => ?_, ?_, ?_, fun u other => by rw [modThread_thread, if_neg other]⟩
  all_goals rw [modThread_thread, if_pos rfl, if_pos pending]
  all_goals dsimp only
  · rw [← Thread.setReg_reg (s.thread t) rd q v]
    split <;> rfl
  · split <;> rfl
  · rw [Thread.setReg_st]
    split <;> rfl

theorem loadReg_frame (t : Fin 16) (id : Nat) (rd : Fin 32) (v : BitVec 64) (s : State) :
    loadReg t id rd v s = { s with ush := { s.ush with threads := (loadReg t id rd v s).ush.threads } } := rfl

/-! ### Corrections -/

section
variable {s : State} {id : Nat} {x : Access} (found : s.access.find? (fun a => a.req.id == id) = some x)
  (clocked : s.clocked = true) (due : x.due ≤ s.now) (unit : x.req.unit ≠ .scrub) (free : bankIdx x.req.addr ∉ s.granted)
  (first : (s.repairs (bankIdx x.req.addr)).find? (fun a => a.req.unit != .scrub) = some x)
include found clocked due unit free first

/-- The first of a bank's corrections is granted. -/
theorem repairable_of_first {ph : EccPhase} (phase : x.ecc = ph) : s.repairable id ph = some x := by
  have number : x.req.id = id := beq_iff_eq.mp (List.find?_some found :)
  have mine : (fun a : Access => (a.req.unit == .scrub) == (x.req.unit == .scrub)) = fun a => a.req.unit != .scrub := by
    funext a
    rw [beq_eq_false_iff_ne.mpr unit, bne]
    cases a.req.unit == .scrub <;> rfl
  unfold State.repairable
  rw [found]
  dsimp only
  rw [mine, first]
  simp [clocked, phase, due, free, number, unit]

theorem reread_of_first (phase : x.ecc = .flagged) (flagged : BitVec 10) :
    let b := bankIdx x.req.addr
    let n := popWords (x.words ||| flagged)
    reread id flagged s = { useBank b (s.askers b - 1) (spendGrant x.req s) with
      access := s.access.map fun y => if y.req.id = id then { y with
        words := x.words ||| flagged, ecc := (if 3 ≤ n then .uncorrectable n else .reread),
        due := (if 3 ≤ n then s.now else s.now + 12),
        data := (if x.req.wr.isSome then [] else cellsAt x.req.addr (memRead s x.req.addr x.req.len)) } else y } := by
  unfold reread
  rw [repairable_of_first found clocked due unit free first phase]
  simp [modAccess, unit, useBank, Config.hallReplay, spendGrant, State.spend]

end

theorem bankUsed_eq (b lost : Nat) (s : State) : useBank b lost s = Claims.bankUsed b lost s := by
  unfold useBank Claims.bankUsed tierOfBank
  split <;> rfl

theorem storedBytes_of_same {s s' : State} (mem : s'.mem = s.mem) (jobs : s'.jobs = s.jobs) (r : LineReq) :
    storedBytes s' r = storedBytes s r := by
  have word : memNat s' r.addr 8 = memNat s r.addr 8 := memNat_of_mem mem _ _
  have job : s'.job? r.job = s.job? r.job := by rw [State.job?, jobs, State.job?]
  rw [storedBytes, word, job, storedBytes]

theorem useBank_outer (b lost : Nat) (s : State) (t : Tier) : ((useBank b lost s).tier t).outer = (s.tier t).outer := by
  unfold useBank
  cases tierOfBank b <;> cases t <;> rfl

section
variable {s : State} {id : Nat} {x : Access} (found : s.access.find? (fun a => a.req.id == id) = some x)
  (clocked : s.clocked = true) (due : x.due ≤ s.now) (unit : x.req.unit ≠ .scrub) (free : bankIdx x.req.addr ∉ s.granted)
  (first : (s.repairs (bankIdx x.req.addr)).find? (fun a => a.req.unit != .scrub) = some x)
include found clocked due unit free first

/-- A write-back stores what the access stores into its corrected line. -/
theorem writeback_of_first (phase : x.ecc = .reread) :
    (writeback id s).access = s.access.map (fun y => if y.req.id = id then { y with ecc := .clean } else y) ∧
    (writeback id s).granted = bankIdx x.req.addr :: s.granted ∧ (writeback id s).mem = memStore (storedBytes s x.req) s.mem ∧
    (writeback id s).reqs = s.reqs ∧
    ((writeback id s).tier (tierOf x.req.addr)).outer = (s.tier (tierOf x.req.addr)).outer + 1 ∧
    ((writeback id s).hdrOf (tierPage x.req.addr)).evt.toNat / 2 ^ 3 % 2 = 1 := by
  unfold writeback
  rw [repairable_of_first found clocked due unit free first phase]
  dsimp only
  refine ⟨?_, ?_, ?_, ?_, ?_, countEvt_flag_set (by decide) _ _⟩
  · simp [modAccess, useBank, spendGrant, State.spend]
  · simp [modAccess, useBank, spendGrant, State.spend]
  · rw [countEvt_mem]
    refine congrArg₂ memStore (storedBytes_of_same ?_ ?_ x.req) ?_
    all_goals simp [useBank, spendGrant, State.spend]
  · simp [modAccess, useBank, spendGrant, State.spend]
  · have counted : ∀ s' : State, ((countEvt (tierPage x.req.addr) 3 s').tier (tierOf x.req.addr)).outer =
        (s'.tier (tierOf x.req.addr)).outer := fun s' => by cases tierOf x.req.addr <;> simp [State.tier]
    rw [counted]
    refine (congrArg Hall.outer (modTier_tier (tierOf x.req.addr) _ _) :).trans ?_
    simp only [useBank_outer]
    rfl

end

end Sys2Proof.Machine

namespace Sys2Proof
open Sys2Proof.Machine

/-- Settles O44: loads and stores by `deliver_of_last`, corrections by `repairable_of_first`, the outer code by `outerCode`. -/
theorem accessesEnd : Obligations.AccessesEnd := by
  refine ⟨outerCode, fun id s x => ⟨fun j t rd a n sg pc last reads kind owed => ?load, fun j t pc last writes kind => ?store,
    fun flagged found clocked due unit free first => ⟨fun phase => ?reread, fun phase => ?writeback⟩⟩⟩
  case load =>
    intro v
    have row := readUsable_load last reads kind
    rw [extendLoad_bufBytes] at row
    have ush : ((s.without x).ended j.id j.entries).ush = s.ush := ended_ush ..
    have threads (u : Fin 16) : ((s.without x).ended j.id j.entries).thread u = s.thread u := by rw [State.thread, ush]; rfl
    obtain ⟨regs, pend, st, others⟩ := loadReg_of_pend (s := (s.without x).ended j.id j.entries) (t := t)
      (by rw [threads]; exact owed)
      (if sg then BitVec.ofInt 64 (BitVec.ofNat (8 * n) v).toInt else BitVec.ofNat 64 v)
    simp only [threads] at regs pend st others
    refine ⟨_, congrArg Host.Outcome.next row, regs, pend, st, others, ?_⟩
    refine (loadReg_frame ..).trans ?_
    rw [ush]
    rfl
  case store => exact congrArg Host.Outcome.next (writeComplete_store last writes kind)
  case reread =>
    have row := reread_of_first found clocked due unit free first phase flagged
    refine congrArg Host.Outcome.next (row.trans ?_)
    rw [cellsAt_memRead, popWords_eq, bankUsed_eq]
  case writeback =>
    obtain ⟨access, granted, mem, reqs, outer, flag⟩ := writeback_of_first found clocked due unit free first phase
    exact ⟨_, rfl, access, granted, mem, reqs, outer, flag⟩

end Sys2Proof


/-! ## Lanes and masks in a sparse store that lists a key more than once

A sparse store drops one listing of a key when the key takes the store's default. Where the key is listed again below, it
still reads as what that listing says. The claims about lanes and mask bits speak of every state, also of those whose
sparse stores are not in canonical form; `Stacked` is the part of such a store that no sequence of writes outlasts. -/

namespace Sys2Proof.Machine

/-- At least `n` listings of `key`, none of them the default `d`, follow keys below it. -/
def Stacked {β : Type} (d : β) (key : Nat) : Nat → List (Nat × β) → Prop
  | 0, _ => True
  | _ + 1, [] => False
  | n + 1, (k, v) :: r => (k < key ∧ Stacked d key (n + 1) r) ∨ (k = key ∧ v ≠ d ∧ Stacked d key n r)

theorem Stacked.less {β : Type} {d : β} {key : Nat} {l : List (Nat × β)} {n : Nat} (h : Stacked d key (n + 1) l) :
    Stacked d key n l := by
  induction l generalizing n with
  | nil => exact h.elim
  | cons c r ih =>
    cases n with
    | zero => trivial
    | succ n =>
      rcases h with ⟨below, h⟩ | ⟨own, other, h⟩
      · exact .inl ⟨below, ih h⟩
      · exact .inr ⟨own, other, ih h⟩

theorem stacked_replicate {β : Type} {d v : β} (h : v ≠ d) (key n : Nat) :
    Stacked d key n (List.replicate n (key, v)) := by
  induction n with
  | zero => trivial
  | succ n ih => exact .inr ⟨rfl, h, ih⟩

/-- One write of any key takes at most one listing. -/
theorem Stacked.cellsSet {β : Type} [DecidableEq β] {d : β} {key : Nat} {l : List (Nat × β)} {n : Nat}
    (h : Stacked d key (n + 1) l) (a : Nat) (x : β) : Stacked d key n (Machine.cellsSet d a x l) := by
  induction l generalizing n with
  | nil => exact h.elim
  | cons c r ih =>
    obtain ⟨k, v⟩ := c
    cases n with
    | zero => simp only [Stacked]
    | succ n =>
      simp only [Machine.cellsSet]
      rcases Nat.lt_trichotomy k a with before | same | after
      · rw [if_pos before]
        rcases h with ⟨below, h⟩ | ⟨own, other, h⟩
        · exact .inl ⟨below, ih h⟩
        · exact .inr ⟨own, other, ih h⟩
      · subst same
        rw [if_neg (Nat.lt_irrefl k), if_pos rfl]
        split
        case isTrue => exact h.elim (fun h => h.2.less) (fun h => h.2.2)
        case isFalse written =>
          rcases h with ⟨below, h⟩ | ⟨own, -, h⟩
          · exact .inl ⟨below, h.less⟩
          · exact .inr ⟨own, written, h.less⟩
      · rw [if_neg (Nat.not_lt_of_gt after), if_neg (Nat.ne_of_gt after)]
        split
        case isTrue => exact h.less
        case isFalse written =>
          have upTo : k ≤ key := h.elim (fun h => h.1.le) (fun h => h.1.le)
          exact .inl ⟨Nat.lt_of_lt_of_le after upTo, h.less⟩

theorem Stacked.get_ne {β : Type} {d : β} {key : Nat} {l : List (Nat × β)} (h : Stacked d key 1 l) :
    cellsGet d l key ≠ d := by
  induction l with
  | nil => exact h.elim
  | cons c r ih =>
    simp only [cellsGet]
    rcases h with ⟨below, h⟩ | ⟨own, other, -⟩
    · rw [if_neg (Nat.ne_of_lt below), if_neg (Nat.not_lt_of_gt below)]
      exact ih h
    · rw [if_pos own]
      exact other

/-- Results take at most one listing each from the V registers, and from the K registers. -/
theorem stacked_putCells (cells : List VCell) (v : Vec) :
    (∀ key n, Stacked v.v.dflt key (n + cells.length) v.v.cells →
      (cells.foldl putCell v).v.dflt = v.v.dflt ∧ Stacked v.v.dflt key n (cells.foldl putCell v).v.cells) ∧
    (∀ key n, Stacked v.k.dflt key (n + cells.length) v.k.cells →
      (cells.foldl putCell v).k.dflt = v.k.dflt ∧ Stacked v.k.dflt key n (cells.foldl putCell v).k.cells) := by
  induction cells generalizing v with
  | nil => exact ⟨fun _ _ h => ⟨rfl, h⟩, fun _ _ h => ⟨rfl, h⟩⟩
  | cons c cells ih =>
    rw [List.foldl_cons]
    obtain ⟨lanes, masks⟩ := ih (putCell v c)
    cases toK : c.toK with
    | false =>
      simp only [putCell, toK] at lanes masks ⊢
      exact ⟨fun key n h => lanes key n (h.cellsSet c.key _), fun key n h => masks key n h.less⟩
    | true =>
      simp only [putCell, toK] at lanes masks ⊢
      exact ⟨fun key n h => lanes key n h.less, fun key n h => masks key n (h.cellsSet c.key _)⟩

theorem complement_ne {w : Nat} (h : 0 < w) (x : BitVec w) : ~~~x ≠ x := fun same => by
  have bit := congrArg (·.getLsbD 0) same
  simp [h] at bit

/-- A reset state whose V registers read `y` by default, with more listings of lane `n` of register `r` than `cells` has
results. -/
def deepLanes (cells : List VCell) (r n : Nat) (y : BitVec 32) : State :=
  { State.reset with vec := { State.reset.vec with
    v := ⟨y, List.replicate (1 + cells.length) (65536 * r + n, ~~~y)⟩ } }

theorem deepLanes_lane (cells : List VCell) (r n : Nat) (y : BitVec 32) :
    (putCells cells (deepLanes cells r n y)).lane r n ≠ y := by
  obtain ⟨same, deep⟩ := (stacked_putCells cells (deepLanes cells r n y).vec).1 (65536 * r + n) 1
    (stacked_replicate (complement_ne (by decide) y) _ _)
  rw [State.lane, SMap.get, putCells, same]
  exact deep.get_ne

/-- The same of mask bit `n` of register `k`. -/
def deepMasks (cells : List VCell) (k n : Nat) (y : Bool) : State :=
  { State.reset with vec := { State.reset.vec with
    k := ⟨BitVec.ofBool y, List.replicate (1 + cells.length) (65536 * k + n, ~~~BitVec.ofBool y)⟩ } }

theorem deepMasks_mask (cells : List VCell) {k : Nat} (n : Nat) (y : Bool) (h : k ≠ 0) :
    (putCells cells (deepMasks cells k n y)).mask k n ≠ y := by
  obtain ⟨same, deep⟩ := (stacked_putCells cells (deepMasks cells k n y).vec).2 (65536 * k + n) 1
    (stacked_replicate (complement_ne (by decide) (BitVec.ofBool y)) _ _)
  have bit : ∀ b : BitVec 1, b ≠ BitVec.ofBool y → (b == 1) ≠ y := by cases y <;> decide
  rw [State.mask, SMap.get, putCells, same, beq_eq_false_iff_ne.mpr h, Bool.false_or]
  exact bit _ deep.get_ne

/-! ### Claims that no results meet -/

theorem cVd_lt (c : Cmd) : cVd c < 32 := Nat.mod_lt _ (by decide)

/-- No results meet `LaneCells` where an active lane that they cover takes a value that is not of its old one. -/
theorem not_laneCells {s : State} {e : QEntry} {all : Bool} {cover : Nat → Bool} {cells : List VCell}
    {f : Nat → BitVec 32 → BitVec 32} {n : Nat} {y : BitVec 32} (lane : n < 65536) (covers : cover n = true)
    (on : all = true ∨ s.active e.raw n = true) (value : ∀ old, f n old = y) :
    ¬ Claims.LaneCells s e all cover cells f := fun h => by
  obtain ⟨-, lanes⟩ := h (deepLanes cells (cVd e.raw) n y)
  have written := lanes (cVd e.raw) (cVd_lt _) n lane
  rw [if_pos ⟨rfl, covers⟩, if_pos on, value] at written
  exact deepLanes_lane cells _ n y written

/-- No results meet `MaskCells` where the bit of a lane of their pass takes a value that is not of its old one. -/
theorem not_maskCells {s : State} {e : QEntry} {p : Nat} {cells : List VCell} {f : State → Nat → Bool} {n : Nat} {y : Bool}
    (lane : n < 65536) (register : e.raw.toNat / 2 ^ 23 % 8 ≠ 0) (covers : Claims.inPass s.build e p n = true)
    (value : ∀ u, f u n = y) : ¬ Claims.MaskCells s e p cells f := fun h => by
  obtain ⟨-, bits⟩ := h (deepMasks cells (e.raw.toNat / 2 ^ 23 % 8) n y)
  have written := bits (e.raw.toNat / 2 ^ 23 % 8) (Nat.mod_lt _ (by decide)) n lane
  rw [if_pos ⟨register, rfl, covers⟩, value] at written
  exact deepMasks_mask cells n y register written

/-- No row of lanes whose values come from the sources alone meets its claim at a state in which its command starts with
lane 0 active. -/
theorem not_laneOp {i : Instr} {opc fn lat : Nat} {f : Cmd → BitVec 32 → BitVec 32 → BitVec 32 → BitVec 32} {s : State}
    {e : QEntry} (starts : Claims.starting s e opc fn) (covers : Claims.inPass s.build e 0 0 = true)
    (on : s.active e.raw 0 = true) : ¬ Claims.LaneOp i opc fn lat f := fun h => by
  obtain ⟨r, cells, -, lanes, -⟩ := h.1 s e starts
  exact not_laneCells (n := 0) (by decide) covers (.inr on) (fun _ => rfl) lanes

end Sys2Proof.Machine

namespace Sys2Proof
open Sys2Proof.Machine Sys2Proof.Tests

/-- A lane command of the tests that may start meets the claims' premise. -/
theorem starting_of_laneGoes {c : Cmd} (h : laneGoes c = true) : Claims.starting (laneOf c) (entry c) (cOpc c) (cFn c) := by
  obtain ⟨head, ready⟩ := Bool.and_eq_true_iff.mp h
  exact ⟨beq_iff_eq.mp head, rfl, rfl, ready⟩

/-- Refutes O20: the claim holds of no results in a state that lists a lane of Vd more than once, with another value than
its default, where lanes take a sum that is the default (here the V registers' default is 3.0, the sum of the test's VADD). -/
theorem not_vectorFloat : ¬ Obligations.VectorFloat := fun h =>
  not_laneOp (s := laneOf (laneCmd 0x0A 0)) (e := entry (laneCmd 0x0A 0)) (starting_of_laneGoes (by decide)) (by decide) (by decide) h.1

/-- Refutes O21, as O20: lane 1 of the test's VMIN takes the number 1.0 from V1, V2 holding a NaN. -/
theorem not_minMaxNan : ¬ Obligations.MinMaxNan := fun h => by
  obtain ⟨r, cells, -, values⟩ := h (laneOf (laneCmd 0x0A 4)) (entry (laneCmd 0x0A 4)) 1 false (starting_of_laneGoes (by decide)) (by decide)
    (by decide) (by decide) (by decide)
  obtain ⟨-, number, -⟩ := values (deepLanes cells (cVd (laneCmd 0x0A 4)) 1 0x3F800000)
  exact deepLanes_lane cells _ 1 _ ((number (by decide) (by decide)).trans (by decide))

/-- Refutes O22, as O20: the rows of integers. -/
theorem not_vectorInteger : ¬ Obligations.VectorInteger := fun h =>
  not_laneOp (s := laneOf (laneCmd 0x0B 0)) (e := entry (laneCmd 0x0B 0)) (starting_of_laneGoes (by decide)) (by decide) (by decide) h.1

/-- Refutes O23, as O20: VMOV. -/
theorem not_vectorMovesConversions : ¬ Obligations.VectorMovesConversions := fun h =>
  not_laneOp (s := laneOf (laneCmd 0x0D 0)) (e := entry (laneCmd 0x0D 0)) (starting_of_laneGoes (by decide)) (by decide) (by decide) h.1

/-- Refutes O24, as O20: lane 0 of the test's VRCP takes +∞, the reciprocal of +0. -/
theorem not_transcendentalCases : ¬ Obligations.TranscendentalCases := fun h => by
  obtain ⟨run, cells, -, values⟩ := h (queued 3 [entry (laneCmd 0x10 0)] edges) (entry (laneCmd 0x10 0)) 0 0 (by decide)
    (by decide) (by decide) (by decide) ⟨by decide, by decide, by decide, by decide⟩
  obtain ⟨-, reciprocal, -⟩ := values (deepLanes cells (cVd (laneCmd 0x10 0)) 0 0x7F800000)
  exact deepLanes_lane cells _ 0 _ ((reciprocal rfl).1 (by decide))

/-- Refutes O25, as O20 of a mask: bit 0 of K3, which KAND clears. -/
theorem not_vectorMasks : ¬ Obligations.VectorMasks := fun h => by
  obtain ⟨r, cells, -, bits, -⟩ := h.1.1 (laneOf (laneCmd 0x0E 0)) (entry (laneCmd 0x0E 0))
    (starting_of_laneGoes (by decide))
  exact not_maskCells (n := 0) (by decide) (by decide) (by decide) (fun _ => rfl) bits

/-- Refutes O26, as O20: VPERM in normal service. -/
theorem not_vectorPermutes : ¬ Obligations.VectorPermutes := fun h => by
  obtain ⟨r, cells, -, -, lanes, -⟩ := h.1.1 (laneOf (laneCmd 0x13 0)) (entry (laneCmd 0x13 0))
    (starting_of_laneGoes (by decide)) (by decide) (by decide)
  exact not_laneCells (n := 0) (by decide) (by decide) (.inr (by decide)) (fun _ => rfl) lanes

/-- Refutes O27, as O20: VSCAN, whatever the values `g` it gives. -/
theorem not_vectorScans : ¬ Obligations.VectorScans := fun h => by
  obtain ⟨r, cells, -, ⟨g, lanes, -⟩, -⟩ := (h.1 1 (by decide)).1 (laneOf (laneCmd 0x11 1)) (entry (laneCmd 0x11 1))
    (starting_of_laneGoes (by decide))
  exact not_laneCells (n := 0) (by decide) (by decide) (.inr (by decide)) (fun _ => rfl) lanes

/-- Refutes O30, as O20: lane 0 of V3, which VACC.RD reads from an empty bank. -/
theorem not_vectorControl : ¬ Obligations.VectorControl := fun h => by
  obtain ⟨read, -⟩ := h (laneOf accCmd) (entry accCmd) (by decide)
  obtain ⟨cells, lanes, -⟩ := read (by decide) (by decide) (by decide) (by decide)
  have written := (lanes (deepLanes cells 3 0 0)).2 3 (by decide) 0 (by decide)
  exact deepLanes_lane cells 3 0 0 (written.trans ((if_pos (by decide)).trans (by decide)))

/-- The test's VLD whose data is all there, lane 0 of its V3 listed twice. -/
def loadedTwice : State :=
  { loadedOf with vec := { loadedOf.vec with v := ⟨0, List.replicate 2 (65536 * 3, 1)⟩ } }

/-- Refutes O28, as O20: lane 0 of V3, for which the load brings 0, keeps its second listing. -/
theorem not_vectorLoads : ¬ Obligations.VectorLoads := fun h => by
  obtain ⟨-, -, -, ends⟩ := h
  obtain ⟨-, -, -, lanes, -⟩ := ends loadedTwice (entry vldCmd) { memJob vldCmd with kind := .vload (entry vldCmd) } loadedRun
    (by decide) (by decide) (by decide) (by decide) (by decide) (by decide) (by decide) (by decide) (by decide) (by decide)
    (by decide) (by decide) (by decide)
  have written := lanes 3 (by decide) 0 (by decide)
  exact absurd written (by decide +kernel)

end Sys2Proof


/-! ## Steps, tasks and atomics on sync objects -/

namespace Sys2Proof.Machine

/-- A thread that has its turn in normal service can issue. -/
theorem canIssue_of_turn {t : Fin 16} {s : State} (issues : s.turn t ≠ .none) (goes : s.turn t ≠ .stopped) :
    s.canIssue t = true := by
  unfold State.turn at issues goes
  split at issues
  · exact absurd rfl issues
  rename_i may
  rw [if_neg may] at goes
  split at issues
  · exact absurd (if_pos ‹_›) goes
  clear goes
  split at issues
  case h_1 =>
    split at issues
    case isTrue first =>
      have among := List.mem_of_mem_head? (Option.mem_def.mpr first)
      exact (List.mem_filter.mp among).2
    case isFalse => exact absurd rfl issues
  case h_2 =>
    split at issues
    · exact absurd rfl issues
    split at issues
    all_goals
      split at issues
      case isTrue own => exact own.2
      case isFalse => exact absurd rfl issues

/-- A thread that issues is READY. -/
theorem ready_of_issues {t : Fin 16} {o : UOp} {w : BitVec 32} {s : State} (h : Claims.issues s t o w = true) :
    (s.thread t).st = .ready := by
  have slot := hasSlot_of_issues h
  have can : s.canIssue t = true := by
    refine canIssue_of_turn ?_ ?_
    all_goals
      intro turn
      simp [State.hasSlot, turn] at slot
  unfold State.canIssue at can
  exact of_decide_eq_true (Bool.and_eq_true_iff.mp can).1

/-- A body that goes on and changes nothing. -/
theorem usherRow_went {t : Fin 16} {o : UOp} {w : BitVec 32} {s : State} (h : Claims.issues s t o w = true) {body : Body}
    (goes : body t w s = .next s (s.pcNext t)) :
    Claims.OnlyThread s (usherRow o body t s) t (Claims.goesOn (s.thread t) ((s.thread t).pc + 4)) := by
  rw [usherRow_of_next h goes]
  have only := issuedAs_onlyThread s t o w id (Claims.goesOn · (s.pcNext t))
  rwa [modThread_id] at only

/-- A body that goes on and leaves its own thread in another state than READY. -/
theorem usherRow_stays {t : Fin 16} {o : UOp} {w : BitVec 32} {s : State} (h : Claims.issues s t o w = true) {body : Body}
    {st : TState} (waits : st ≠ .ready) (goes : body t w s = .next (modThread t (fun th => { th with st := st }) s) (s.pcNext t)) :
    Claims.OnlyThread s (usherRow o body t s) t
      { s.thread t with st := st, pc := (s.thread t).pc + 4, issued := (s.thread t).issued + 1 } := by
  rw [usherRow_of_next h goes]
  have only := issuedAs_onlyThread s t o w (fun th => { th with st := st }) (Claims.goesOn · (s.pcNext t))
  rwa [goesOn_of_waiting (th := { s.thread t with st := st }) waits] at only

theorem two_pow_bit : ∀ t : Fin 16, BitVec.ofNat 16 (2 ^ t.val) = 1 <<< t.val := by decide

theorem waitExpire_of_reached {t : Fin 16} {s : State} {c : Nat} (waits : (s.thread t).st = .waitStep c)
    (clocked : s.clocked = true) (reached : c ≤ s.step.cycle.toNat) : waitExpire t s = modThread t Thread.resume s := by
  unfold waitExpire
  rw [waits]
  simp [clocked, reached]

theorem taskDone_of_stopped {s : State} (task : s.ush.task = .running) (queues : s.queuesEmpty = true) (range : s.range = [])
    (threads : ∀ t, t ≠ 15 → (s.thread t).st = .halted ∨ (s.thread t).st = .free) : s.taskDone = true := by
  have stopped (t : Fin 16) : (t = fwThread || (s.thread t).st = .halted || (s.thread t).st = .free) = true := by
    by_cases own : t = fwThread
    · simp [own]
    · simpa [own] using threads t own
  simp [State.taskDone, task, queues, range, stopped]

end Sys2Proof.Machine

namespace Sys2Proof
open Sys2Proof.Machine Sys2Proof.Tests

/-- The test's atomic on object 5 is due, whose count, −3, is listed twice. -/
def countedTwice : State :=
  { atomDue with sync := { atomDue.sync with counts := ⟨0, [(5, 0xFFFFFFFD), (5, 1)]⟩ } }

/-- Refutes O12: where a sparse store lists a sync object's count twice, an atomic that takes the count to 0 drops the first
listing, and the count reads as the second. -/
theorem not_atomics : ¬ Obligations.Atomics := fun h => by
  obtain ⟨-, -, -, performed⟩ := h
  obtain ⟨-, -, object⟩ := performed countedTwice 0 (atomOn 0x40000028) 0x100 (atomJob 0x40000028 0 10) rfl
  obtain ⟨count, -⟩ := object 5 0 rfl (by decide) (by decide) (by decide) (by decide) (by decide) (by decide)
  exact absurd count (by decide +kernel)

/-- Settles O9. -/
theorem stepInstructions : Obligations.StepInstructions := by
  refine ⟨fun s task queues range threads => ?_, fun t s w => ⟨fun h => ?wait, fun h => ?ended, fun h => ?halts, fun c waits clocked reached => ?_⟩⟩
  · exact congrArg Host.Outcome.next (if_pos (taskDone_of_stopped task queues range threads))
  case wait =>
    refine ⟨_, rfl, ?_⟩
    split
    case isTrue reached =>
      refine usherRow_went h ?_
      rw [stepWaitBody, wZimm_eq]
      exact if_pos reached
    case isFalse ahead =>
      refine usherRow_stays h (by simp) ?_
      rw [stepWaitBody, wZimm_eq]
      exact if_neg ahead
  case ended =>
    refine ⟨_, rfl, ?_⟩
    rw [usherRow_of_next h rfl]
    refine (issuedAs_eq ..).trans ?_
    rw [goesOn_of_waiting (by simp [State.thread, modThread]), ← two_pow_bit]
    simp [State.thread, modThread, Claims.issueSpent, State.pcNext, State.spend]
  case halts => exact ⟨_, rfl, usherRow_stays h (by simp) rfl⟩
  · exact congrArg Host.Outcome.next (waitExpire_of_reached waits clocked reached)

end Sys2Proof


/-! ## Sync objects -/

namespace Sys2Proof.Machine

theorem syncSatisfied_eq (count target : BitVec 32) :
    syncSatisfied count target = decide (0 ≤ (count - target).toInt) := by
  rw [syncSatisfied, BitVec.toInt_eq_toNat_cond]
  refine decide_eq_decide.mpr ?_
  have := (count - target).isLt
  split <;> omega

theorem objOf_of_object {imm : Bool} {w : BitVec 32} {r : BitVec 64} {n : Nat} (h : Claims.object imm w r n) :
    objOf imm w r = some n := by
  unfold Claims.object at h
  unfold objOf
  cases imm with
  | true => exact congrArg some (by rw [fld_eq_toNat_extractLsb', extractLsb'_eq_ofNat]; simpa using h.symm)
  | false =>
    obtain ⟨value, small⟩ := h
    rw [if_neg (by decide), if_pos (value ▸ small), value]

/-- The state once an operation on object `n` waits for the next cycle. -/
theorem deferSync_eq (n : Nat) (op : SyncOp) (s : State) : deferSync n op s = (s.nextId, { s with
    nextId := s.nextId + 1,
    jobs := s.jobs.map (fun j => if j.id = s.nextId then { j with due := s.now + 1 } else j) ++
      [⟨s.nextId, .syncOp n op, [], 0, 0, 0, none, [], 0, none, none, false, 0, s.now + 1⟩] }) := by
  simp only [deferSync, addJob, modJob, List.map_append, List.map_cons, List.map_nil, if_pos]
  rfl

/-- A change of a sync object leaves a READY thread alone. -/
theorem noteSync_of_ready {th : Thread} (ready : th.st = .ready) (now n : Nat) (v : BitVec 32) :
    Thread.noteSync now n v th = th := by
  unfold Thread.noteSync
  rw [ready]

theorem syncOther_thread (n : Nat) (v : BitVec 32) (s : State) (u : Fin 16) :
    (syncOther n v s).thread u = Thread.noteSync s.now n (v + syncAdded s n) (s.thread u) := by
  simp [syncOther, syncPut, State.thread]

section

variable {t : Fin 16} {o : UOp} {w : BitVec 32} {s : State}

theorem issuedAs_thread_own (s u : State) (t : Fin 16) (o : UOp) (w : BitVec 32) (f : Thread → Thread) :
    (s.issuedAs u t o w f).thread t = f (u.thread t) := by
  rw [issuedAs_thread, if_pos rfl]

/-- What an instruction does to its own thread that writes `v` to rd when `wr`. -/
def writesRd (wr : Bool) (w : BitVec 32) (v : BitVec 64) (th : Thread) : Thread := if wr then th.setReg (wRd w) v else th

theorem writesRd_eq (wr : Bool) (w : BitVec 32) (v : BitVec 64) (th : Thread) :
    writesRd wr w v th = { th with regs := (writesRd wr w v th).regs } := by
  cases wr
  · rfl
  · exact setReg_eq ..

theorem next_writesRd (wr : Bool) (v : BitVec 64) {u : State} (same : u.thread t = s.thread t) :
    (fun u' : State => Res.next u' (u'.pcNext t)) (if wr then modThread t (fun th => th.setReg (wRd w) v) u else u) =
      .next (modThread t (writesRd wr w v) u) (s.pcNext t) := by
  cases wr
  · exact (congrArg (Res.next _ <| ·.pc + 4) same).trans (congrArg (Res.next · _) (modThread_id t _).symm)
  · refine congrArg (Res.next _) ?_
    simp [State.pcNext, same]

theorem syncOpBody_of_count {wr : Bool} {f : BitVec 32 → BitVec 32 → Option (BitVec 32)} {n : Nat} {u : State}
    (object : objOf5 w (s.thread t) = some n)
    (changed : (f (syncBase s n) (((s.thread t).reg (wRa w)).extractLsb' 0 32)).elim s (syncOther n · s) = u)
    (same : u.thread t = s.thread t) :
    syncOpBody wr f t w s = .next (modThread t (writesRd wr w ((syncBase s n).zeroExtend 64)) u) (s.pcNext t) := by
  rw [← next_writesRd wr _ same]
  unfold syncOpBody
  simp only [object]
  cases count : f (syncBase s n) (((s.thread t).reg (wRa w)).extractLsb' 0 32) <;>
    (rw [count] at changed; subst changed; rfl)

/-- An instruction that goes on from `u`, where its own thread stands as before, with its register written when `wr`. -/
theorem issuedAs_written (wr : Bool) {u : State} (same : u.thread t = s.thread t) (v : BitVec 64) :
    let s' := s.issuedAs (modThread t (writesRd wr w v) u) t o w (Claims.goesOn · (s.pcNext t))
    (∀ r, (s'.thread t).reg r = if wr ∧ r = wRd w ∧ r ≠ 0 then v else (s.thread t).reg r) ∧
      (∀ k, k ≠ t → s'.thread k = u.thread k) ∧
      s' = { u with
        energy := (u.spend .issue (some t) 1).energy,
        ush := { u.ush with
          slot0 := s'.ush.slot0, slotsUsed := s'.ush.slotsUsed,
          threads := u.ush.threads.set t
            { Claims.goesOn (s.thread t) ((s.thread t).pc + 4) with regs := (s'.thread t).regs } } } := by
  intro s'
  have thread : s'.thread t =
      Claims.goesOn ((writesRd wr w v) (s.thread t)) (s.pcNext t) := by
    rw [issuedAs_thread, if_pos rfl, modThread_thread, if_pos rfl, same]
  have written : s'.thread t = { Claims.goesOn (s.thread t) (s.pcNext t) with regs := (s'.thread t).regs } := by
    rw [thread, goesOn_regs]
    exact (congrArg (Claims.goesOn · _) (writesRd_eq ..)).trans (goesOn_withRegs ..)
  refine ⟨fun r => ?_, fun k other => ?_, ?_⟩
  · rw [thread, goesOn_reg]
    cases wr
    · simp [writesRd]
    · by_cases zero : r = 0
      · subst zero; simp [writesRd, Thread.reg]
      · simp [writesRd, zero]
  · rw [issuedAs_thread, if_neg other, modThread_thread, if_neg other]
  · have all := issuedAs_eq s (modThread t (writesRd wr w v) u) t o w (Claims.goesOn · (s.pcNext t))
    rw [← issuedAs_thread_own s _ t o w (Claims.goesOn · (s.pcNext t))] at all
    change _ = { u with
      energy := _,
      ush := { u.ush with slot0 := _, slotsUsed := _, threads := (u.ush.threads.set t _).set t (s'.thread t) } } at all
    rw [Vector.set_set, written] at all
    exact all

end

/-- SYNC.ADD and SYNC.SET: the count changes at once, or the operation waits. -/
theorem syncOp_of_change {o : UOp} {i : Fin 16 → Instr} {wr : Bool} {f : BitVec 32 → BitVec 32 → BitVec 32}
    (row : ∀ t s, exec (i t) s = .next (usherRow o (syncChangeBody wr fun c a => some (f c a)) t s)) :
    Claims.SyncOp o i wr f := by
  intro t s w n h th k old v kept object
  have named : objOf5 w th = some n := by
    rw [objOf5, fld_eq_toNat_extractLsb', extractLsb'_eq_ofNat]
    exact objOf_of_object (by simpa using object)
  have operand : (th.reg (wRa w)).extractLsb' 0 32 = k := by rw [extractLsb'_eq_ofNat]; simp [k]
  have wide : old.zeroExtend 64 = BitVec.ofNat 64 old.toNat := (BitVec.ofNat_toNat 64 old).symm
  refine ⟨fun free => ⟨_, row t s, ?_⟩, fun used => ⟨_, row t s, ?_⟩⟩
  · have same : (syncOther n (f old k) s).thread t = s.thread t := by
      rw [syncOther_thread, noteSync_of_ready (ready_of_issues h)]
    have body : syncChangeBody wr (fun c a => some (f c a)) t w s =
        .next (modThread t (writesRd wr w (old.zeroExtend 64)) (syncOther n (f old k) s)) (s.pcNext t) := by
      unfold syncChangeBody
      simp only [show s.thread t = th from rfl, named, State.syncTaken, List.contains_iff_mem, if_neg free]
      exact syncOpBody_of_count named (by rw [operand]; rfl) same
    rw [wide] at body
    rw [usherRow_of_next h body]
    obtain ⟨regs, others, all⟩ := issuedAs_written (s := s) (t := t) (w := w) (o := o) wr same (BitVec.ofNat 64 old.toNat)
    exact ⟨regs, fun u other => (others u other).trans (syncOther_thread ..), all⟩
  · have body : syncChangeBody wr (fun c a => some (f c a)) t w s =
        .next (modThread t (fun th => { th with pend := th.pend ++ (if wr ∧ wRd w ≠ 0 then [(s.nextId, wRd w)] else []) })
          (deferSync n kept s).2) (s.pcNext t) := by
      unfold syncChangeBody
      simp only [show s.thread t = th from rfl, named, State.syncTaken, List.contains_iff_mem, if_pos used, operand]
      refine congrArg (Res.next _) ?_
      rw [State.pcNext, modThread_thread, if_pos rfl]
      rfl
    rw [usherRow_of_next h body]
    refine (issuedAs_eq ..).trans ?_
    rw [modThread_thread, if_pos rfl, goesOn_withPend, deferSync_eq]
    simp only [modThread, Vector.set_set]
    rfl

end Sys2Proof.Machine

namespace Sys2Proof.Machine

/-- SYNC.RD reads the count before the advances of the cycle. -/
theorem syncRd_result {t : Fin 16} {s : State} {w : BitVec 32} {n : Nat} (h : Claims.issues s t .syncRd w = true)
    (object : objOf5 w (s.thread t) = some n) :
    Claims.Result s (usherRow .syncRd (syncOpBody true fun _ _ => none) t s) t (wRd w)
      (BitVec.ofNat 64 (syncBase s n).toNat) ((s.thread t).pc + 4) := by
  rw [usherRow_of_next h (syncOpBody_of_count object rfl rfl), BitVec.ofNat_toNat]
  exact issuedAs_result s t .syncRd w (wRd w) _ _

theorem syncWaitBody_eq {t : Fin 16} {s : State} {w : BitVec 32} {n : Nat}
    (object : objOf (bitAt w 23) w ((s.thread t).reg (wRb w)) = some n) :
    syncWaitBody t w s =
      (let target := ((s.thread t).reg (wRa w)).extractLsb' 0 32
      if 0 ≤ (syncGet s n - target).toInt then .next s (s.pcNext t)
      else .next (modThread t (fun th => { th with st := .waitSync (.obj (BitVec.ofNat 13 n) target none) }) s) (s.pcNext t)) := by
  unfold syncWaitBody
  simp only [object, syncSatisfied_eq, decide_eq_true_eq]

theorem noteSync_of_waiting {th : Thread} {m : BitVec 13} {target : BitVec 32} {k : Option Nat} {now : Nat}
    (waits : th.st = .waitSync (.obj m target k)) (open_ : k = none ∨ k = some (now + 4)) (v : BitVec 32) :
    Thread.noteSync now m.toNat v th =
      { th with st := .waitSync (.obj m target (if 0 ≤ (v - target).toInt then some (now + 4) else none)) } := by
  unfold Thread.noteSync
  rw [waits]
  dsimp only
  rw [if_pos ⟨rfl, open_⟩, syncSatisfied_eq]
  simp only [decide_eq_true_eq]
  rfl

theorem wakeSync_of_due {th : Thread} {m : BitVec 13} {target : BitVec 32} {k now : Nat}
    (waits : th.st = .waitSync (.obj m target (some k))) (due : k ≤ now) : th.wakeSync now = th.resume := by
  unfold Thread.wakeSync
  rw [waits]
  exact if_pos due

theorem wakeSync_of_waiting {th : Thread} {now : Nat}
    (later : ∀ m target k, th.st = .waitSync (.obj m target (some k)) → now < k) : th.wakeSync now = th := by
  unfold Thread.wakeSync
  split
  case h_1 m target k waits => exact if_neg (Nat.not_le_of_gt (later _ _ _ waits))
  case h_2 => rfl

/-- A write of SYNC_VAL stores its fields VALUE and EXPECT. -/
theorem syncVal_row {o : Originator} {v : BitVec 64} {s : State} (h : Claims.writes o .sync 0x48 s) :
    exec (.syncValWrite o v) s = .next (Claims.answered o .sync (syncVal v s)) := by
  refine regRow_effect h (by decide) (m := BitVec.allOnes 64) (by simp [regFields, Access3.all, bitsMask, put]) (by decide) ?_
  rw [BitVec.and_allOnes]
  rfl

/-- What SYNC_VAL sets, and what waits for the next cycle. -/
theorem syncVal_eq (v : BitVec 64) (s : State) :
    (s.sync.sel.toNat ∉ s.sync.taken → syncVal v s =
      if syncBase s s.sync.sel.toNat = v.extractLsb' 32 32 then syncOther s.sync.sel.toNat (v.extractLsb' 0 32) s
      else countEvt .sync 0 s) ∧
    (s.sync.sel.toNat ∈ s.sync.taken → syncVal v s =
      (deferSync s.sync.sel.toNat (.val (v.extractLsb' 0 32) (v.extractLsb' 32 32)) s).2) := by
  refine ⟨fun free => ?_, fun used => ?_⟩
  · simp only [syncVal, State.syncTaken, List.contains_iff_mem, if_neg free]
  · simp only [syncVal, State.syncTaken, List.contains_iff_mem, if_pos used]

end Sys2Proof.Machine

namespace Sys2Proof
open Sys2Proof.Machine

theorem syncOperations : Claims.SyncOperations := by
  refine ⟨syncOp_of_change fun _ _ => rfl, syncOp_of_change fun _ _ => rfl, fun t s w n h object => ⟨_, rfl, ?_⟩⟩
  refine syncRd_result h ?_
  rw [objOf5, fld_eq_toNat_extractLsb', extractLsb'_eq_ofNat]
  exact objOf_of_object (by simpa using object)

theorem syncWaits : Claims.SyncWaits := by
  intro t s w n th target
  refine ⟨fun h object => ⟨_, rfl, ?wait⟩, fun m tgt k v waits own open_ => own ▸ noteSync_of_waiting waits open_ v,
    ⟨_, rfl, rfl, fun m tgt k waits due => ?_, fun later => ?_⟩, fun o v h sel => ?val⟩
  case wait =>
    have body := syncWaitBody_eq (objOf_of_object object)
    rw [extractLsb'_eq_ofNat, Nat.pow_zero, Nat.div_one] at body
    split
    case isTrue reached => exact usherRow_went h (body.trans (if_pos reached))
    case isFalse waits => exact usherRow_stays h (by simp) (body.trans (if_neg waits))
  · exact (Vector.getElem_map ..).trans (wakeSync_of_due waits due)
  · exact (Vector.getElem_map ..).trans (wakeSync_of_waiting later)
  case val =>
    intro new c
    subst sel
    have row := syncVal_row (v := v) h
    obtain ⟨sets, defers⟩ := syncVal_eq v s
    rw [extractLsb'_eq_ofNat, extractLsb'_eq_ofNat, Nat.pow_zero, Nat.div_one] at sets defers
    refine ⟨fun free => ?_, fun used => ?_⟩
    · rw [row, sets free]
      rfl
    · rw [row, defers used, deferSync_eq]

/-- Settles O10. -/
theorem syncObjects : Obligations.SyncObjects := ⟨syncOperations, syncWaits⟩

end Sys2Proof


/-! ## The requests of a job

What the units request is said once: `s.Asks t job lines` holds when `t` is `s` with the requests `lines` of `job` added, up
to their numbers. Requests that follow one another add up. -/

namespace Sys2Proof.Machine

/-- A request without its number. -/
def LineReq.unnumbered (r : LineReq) : LineReq := { r with id := 0 }

/-- Requests of `lines`, one behind another, lead from `s` to `t`. -/
def State.Asks (s t : State) (job : Nat) (lines : List LineReq) : Prop :=
  ∃ new, t = s.requesting job new ∧ new.map LineReq.unnumbered = lines

theorem requesting_requesting (s : State) (job : Nat) (a b : List LineReq) :
    (s.requesting job a).requesting job b = s.requesting job (a ++ b) := by
  have twice (j : Job) : (fun j : Job => if j.id = job then { j with left := j.left + b.length } else j)
      (if j.id = job then { j with left := j.left + a.length } else j) =
      if j.id = job then { j with left := j.left + (a ++ b).length } else j := by
    by_cases own : j.id = job
    · simp [own, Nat.add_assoc]
    · simp [own]
  simp only [State.requesting, List.map_map, List.length_append, Nat.add_assoc, List.append_assoc]
  congr 1
  exact List.map_congr_left fun j _ => (twice j).trans (by rw [List.length_append])

theorem requesting_nil (s : State) (job : Nat) : s.requesting job [] = s := by
  simp [State.requesting]

theorem State.Asks.refl (s : State) (job : Nat) : s.Asks s job [] := ⟨[], (requesting_nil s job).symm, rfl⟩

theorem State.Asks.trans {s t u : State} {job : Nat} {a b : List LineReq} (first : s.Asks t job a) (second : t.Asks u job b) :
    s.Asks u job (a ++ b) := by
  obtain ⟨new, rfl, rfl⟩ := first
  obtain ⟨more, rfl, rfl⟩ := second
  exact ⟨new ++ more, requesting_requesting .., by rw [List.map_append]⟩

/-- Steps that each request, whatever has been requested before, request one behind another. -/
theorem asks_foldl {α : Type} {s t : State} {job : Nat} {before : List LineReq} (base : s.Asks t job before)
    {step : State → α → State} {lines : α → List LineReq}
    (asks : ∀ u new, s.Asks u job new → ∀ x, u.Asks (step u x) job (lines x)) (l : List α) :
    s.Asks (l.foldl step t) job (before ++ l.flatMap lines) := by
  induction l generalizing t before with
  | nil => simpa using base
  | cons x l ih =>
    rw [List.flatMap_cons, ← List.append_assoc]
    exact ih (base.trans (asks t before base x))

/-- The requests of the pieces `cs`. -/
def askLines (job tag rank : Nat) (unit : MemUnit) (entry : Option Nat) (wr : Nat × Nat → Option (List Host.Cell))
    (cs : List (Nat × Nat)) : List LineReq :=
  cs.map fun c => ⟨0, job, tag, rank, unit, entry, c.1, c.2, wr c⟩

theorem asks_addReqs (job tag rank : Nat) (unit : MemUnit) (entry : Option Nat) (wr : Nat × Nat → Option (List Host.Cell))
    (cs : List (Nat × Nat)) (s : State) :
    s.Asks (cs.foldl (fun s c => addReq job tag rank unit entry c.1 c.2 (wr c) s) s) job
      (askLines job tag rank unit entry wr cs) :=
  ⟨_, foldl_addReq job tag rank unit entry Prod.fst Prod.snd wr cs s,
    lineReqs_map (f := LineReq.unnumbered) (h := fun _ _ => rfl) ..⟩

/-- The requests of a read of `n` bytes from `a`. -/
def readLines (job tag : Nat) (unit : MemUnit) (entry : Option Nat) (a n : Nat) : List LineReq :=
  askLines job tag (rankOf unit) unit entry (fun _ => none) (lineChunks a n)

theorem asks_addRead (job tag : Nat) (unit : MemUnit) (entry : Option Nat) (a n : Nat) (s : State) :
    s.Asks (addRead job tag unit entry a n s) job (readLines job tag unit entry a n) := asks_addReqs ..

/-- The requests of a write of `bytes` from `a`. -/
def writeLines (job tag : Nat) (unit : MemUnit) (entry : Option Nat) (a : Nat) (bytes : List (BitVec 8)) : List LineReq :=
  askLines job tag (rankOf unit) unit entry (fun c => some (cellsAt c.1 ((bytes.drop (c.1 - a)).take c.2)))
    (lineChunks a bytes.length)

theorem asks_addWrite (job tag : Nat) (unit : MemUnit) (entry : Option Nat) (a : Nat) (bytes : List (BitVec 8)) (s : State) :
    s.Asks (addWrite job tag unit entry a bytes s) job (writeLines job tag unit entry a bytes) := asks_addReqs ..

/-! ### What requests say -/

section

variable {s t : State} {job : Nat} {lines : List LineReq}

/-- Requests change nothing but the requests, the numbers given, and the job's count. -/
theorem State.Asks.frame (h : s.Asks t job lines) :
    t = { s with reqs := t.reqs, jobs := t.jobs, nextId := t.nextId } := by
  obtain ⟨new, rfl, -⟩ := h
  rfl

/-- The requests that were added, by what does not depend on their numbers. -/
theorem State.Asks.reqs (h : s.Asks t job lines) : ∃ new, t.reqs = s.reqs ++ new ∧ new.map LineReq.unnumbered = lines := by
  obtain ⟨new, rfl, same⟩ := h
  exact ⟨new, rfl, same⟩

theorem map_unnumbered {β : Type} {new : List LineReq} (h : new.map LineReq.unnumbered = lines) {f : LineReq → β}
    (own : ∀ r, f r.unnumbered = f r) : new.map f = lines.map f := by
  subst h
  rw [List.map_map]
  exact List.map_congr_left fun r _ => (own r).symm

theorem flatMap_unnumbered {β : Type} {new : List LineReq} (h : new.map LineReq.unnumbered = lines) {f : LineReq → List β}
    (own : ∀ r, f r.unnumbered = f r) : new.flatMap f = lines.flatMap f := by
  rw [List.flatMap_def, List.flatMap_def, map_unnumbered h own]

theorem forall_unnumbered {new : List LineReq} (h : new.map LineReq.unnumbered = lines) {P : LineReq → Prop}
    (all : ∀ r ∈ lines, P r) (own : ∀ r, P r.unnumbered → P r) : ∀ r ∈ new, P r := by
  subst h
  exact fun r m => own r (all _ (List.mem_map_of_mem m))

end

theorem mem_askLines {job tag rank : Nat} {unit : MemUnit} {entry : Option Nat} {wr : Nat × Nat → Option (List Host.Cell)}
    {cs : List (Nat × Nat)} {r : LineReq} (h : r ∈ askLines job tag rank unit entry wr cs) :
    r.job = job ∧ r.tag = tag ∧ r.unit = unit ∧ r.entry = entry ∧ ∃ c ∈ cs, r.wr = wr c := by
  obtain ⟨c, m, rfl⟩ := List.mem_map.mp h
  exact ⟨rfl, rfl, rfl, rfl, c, m, rfl⟩

theorem mem_readLines {job tag a n : Nat} {unit : MemUnit} {entry : Option Nat} {r : LineReq}
    (h : r ∈ readLines job tag unit entry a n) :
    r.job = job ∧ r.tag = tag ∧ r.unit = unit ∧ r.entry = entry ∧ r.wr = none := by
  obtain ⟨own, tagged, of, under, c, -, wr⟩ := mem_askLines h
  exact ⟨own, tagged, of, under, wr⟩

theorem mem_writeLines {job tag a : Nat} {unit : MemUnit} {entry : Option Nat} {bytes : List (BitVec 8)} {r : LineReq}
    (h : r ∈ writeLines job tag unit entry a bytes) :
    r.job = job ∧ r.tag = tag ∧ r.unit = unit ∧ r.entry = entry ∧ r.wr.isSome = true := by
  obtain ⟨own, tagged, of, under, c, -, wr⟩ := mem_askLines h
  exact ⟨own, tagged, of, under, by rw [wr]; rfl⟩

theorem askLines_pieces (job tag rank : Nat) (unit : MemUnit) (entry : Option Nat) (wr : Nat × Nat → Option (List Host.Cell))
    (cs : List (Nat × Nat)) : (askLines job tag rank unit entry wr cs).map (fun r => (r.addr, r.len)) = cs := by
  simp [askLines, Function.comp_def]

/-! ### The pieces of a write carry its bytes -/

theorem cellsAt_append (a : Nat) (x y : List (BitVec 8)) : cellsAt a (x ++ y) = cellsAt a x ++ cellsAt (a + x.length) y := by
  simp [cellsAt, List.mapIdx_append, Nat.add_assoc, Nat.add_comm, Nat.add_left_comm]

/-- Induction over the pieces of `n` bytes from `a`: the fuel suffices while the lines of the bytes do not outnumber it. -/
theorem lineChunksAux_cells (fuel a n : Nat) (enough : n = 0 ∨ a % 128 + n ≤ 128 * fuel) (start : Nat) (bytes : List (BitVec 8))
    (from_ : start ≤ a) (rest : bytes.length = a - start + n) :
    (lineChunksAux fuel a n).flatMap (fun c => cellsAt c.1 ((bytes.drop (c.1 - start)).take c.2)) =
      cellsAt a (bytes.drop (a - start)) := by
  induction fuel generalizing a n with
  | zero =>
    have none : bytes.drop (a - start) = [] := List.drop_eq_nil_of_le (by omega)
    rw [none]
    rfl
  | succ fuel ih =>
    rw [lineChunksAux]
    split
    case isTrue zero =>
      have none : bytes.drop (a - start) = [] := List.drop_eq_nil_of_le (by omega)
      rw [none]
      rfl
    case isFalse some =>
      generalize length : min n (128 - a % 128) = m
      have fits : m ≤ n ∧ (m = n ∨ (a + m) % 128 = 0 ∧ a % 128 + m = 128) := by omega
      have later : a + m - start = a - start + m := by omega
      have next := ih (a + m) (n - m) (by omega) (by omega) (by omega)
      rw [later, ← List.drop_drop] at next
      have whole := cellsAt_append a ((bytes.drop (a - start)).take m) ((bytes.drop (a - start)).drop m)
      rw [List.take_append_drop, List.length_take, List.length_drop, Nat.min_eq_left (by omega)] at whole
      rw [List.flatMap_cons, next, whole]

theorem writeLines_cells (job tag : Nat) (unit : MemUnit) (entry : Option Nat) (a : Nat) (bytes : List (BitVec 8)) :
    (writeLines job tag unit entry a bytes).flatMap (fun r => r.wr.getD []) = cellsAt a bytes := by
  have cells := lineChunksAux_cells (bytes.length / 128 + 2) a bytes.length (by omega) a bytes (Nat.le_refl a) (by omega)
  rw [Nat.sub_self, List.drop_zero] at cells
  rw [writeLines, askLines, List.flatMap_map]
  exact cells

end Sys2Proof.Machine


/-! ## Queue contexts -/

namespace Sys2Proof.Machine

section

variable {t : Fin 16} {o : UOp} {s : State} {w : BitVec 32}

/-- A body that goes on from `u`. -/
theorem issuedAs_wentFrom (s u : State) (t : Fin 16) (o : UOp) (w : BitVec 32) (pc : BitVec 18) :
    Claims.Went u (s.issuedAs u t o w (Claims.goesOn · pc)) t pc := issuedAs_eq ..

theorem issuedAs_threads (s u : State) (t : Fin 16) (o : UOp) (w : BitVec 32) (f : Thread → Thread) :
    (s.issuedAs u t o w f).ush.threads = u.ush.threads.set t (f (u.thread t)) := by rw [issuedAs_eq]

/-- A body that waits. -/
theorem usherRow_waits (h : Claims.issues s t o w = true) {body : Body} {st : TState} (waits : body t w s = .wait st) :
    Claims.Waits s (usherRow o body t s) t { s.thread t with st := st } := by
  rw [usherRow_of_wait h waits]
  unfold useSlot
  split <;> rfl

/-- A body that goes on from a state whose threads are those of `s`. -/
theorem usherRow_wentFrom (h : Claims.issues s t o w = true) {body : Body} {u : State}
    (goes : body t w s = .next u (s.pcNext t)) : Claims.Went u (usherRow o body t s) t ((s.thread t).pc + 4) := by
  rw [usherRow_of_next h goes]
  exact issuedAs_wentFrom ..

end

theorem queueConfigure : Claims.QueueConfigure := by
  intro t s w h th q a lg base x number low high aligned inside
  have depth : fld a 8 4 = lg := by rw [fld_eq_toNat_extractLsb', extractLsb'_eq_ofNat]; simp [lg]
  have enables : bitAt a 0 = decide (a.toNat % 2 = 1) := by
    rw [bitAt, BitVec.getLsbD, Nat.testBit_eq_decide_div_mod_eq, Nat.pow_zero, Nat.div_one]
  have body (legal : ((bitAt a 0 && x.en) || (!bitAt a 0 && (s.queWaiters q || decide (x.res ≠ x.tail)))) = false) :
      queCfgBody t w s = .next (modQue q (fun x =>
        if bitAt a 0 then ⟨true, BitVec.ofNat 4 lg, BitVec.ofNat 32 base, 0, 0, 0, []⟩
        else { x with en := false, depthLog2 := BitVec.ofNat 4 lg, base := BitVec.ofNat 32 base }) s) (s.pcNext t) := by
    have sound : ((bitAt a 0 && x.en) || !(decide (1 ≤ lg) && decide (lg ≤ 12)) || decide (base % (8 * 2 ^ lg) ≠ 0) ||
        !inHall base (8 * 2 ^ lg) || (!bitAt a 0 && (s.queWaiters q || decide (x.res ≠ x.tail)))) = false := by
      have hall : inHall base (8 * 2 ^ lg) = true := decide_eq_true inside
      obtain ⟨enabled, used⟩ := Bool.or_eq_false_iff.mp legal
      rw [enabled, used, decide_eq_true low, decide_eq_true high, hall]
      simp [aligned]
    unfold queCfgBody
    dsimp only
    rw [if_neg (Nat.not_le_of_gt number)]
    rw [← depth] at sound ⊢
    rw [if_neg (by rw [sound]; exact Bool.false_ne_true)]
  refine ⟨fun on off => ⟨_, rfl, ?_⟩, fun off idle empty => ⟨_, rfl, ?_⟩⟩
  · have bit : bitAt a 0 = true := by rw [enables]; exact decide_eq_true on
    have goes := body (by simp [bit, off])
    simp only [bit, if_true] at goes
    exact usherRow_wentFrom h goes
  · have bit : bitAt a 0 = false := by rw [enables]; exact decide_eq_false (by omega)
    have goes := body (by simp [bit, idle, empty])
    simp only [bit, Bool.false_eq_true, if_false] at goes
    exact usherRow_wentFrom h goes

/-- `s` with an access to the 8 bytes at `a` taken in: its entry and its job. -/
def State.slotAccess (s : State) (kind : JobKind) (thread : Option (Fin 16)) (a : Nat) (wr : Bool) : State :=
  let e := takeEntry a (a + 7) wr .usher none s
  (addJob kind [e.1] s.ush.pushSeq.toNat thread none e.2).2

theorem slotAccess_thread (s : State) (kind : JobKind) (thread : Option (Fin 16)) (a : Nat) (wr : Bool) (u : Fin 16) :
    (s.slotAccess kind thread a wr).thread u = s.thread u := rfl

theorem requesting_thread (s : State) (job : Nat) (new : List LineReq) (u : Fin 16) :
    (s.requesting job new).thread u = s.thread u := rfl

section

variable {t : Fin 16} {s : State} {w : BitVec 32} {q : Nat} (named : ((s.thread t).reg (wRa w)).toNat = q) (number : q < 8192)
  (on : (s.que q).en = true)

include named number on

theorem quePutBody_of_room (free : s.range.length < 64) (room : (s.que q).res - (s.que q).head < (s.que q).depth) :
    quePutBody t w s =
      .next (quePutNow q ((s.thread t).reg (wRb w)) .usher (some (t, (s.thread t).pc)) s).2 (s.pcNext t) := by
  subst named
  unfold quePutBody
  dsimp only
  rw [if_neg (by simp [on, number]), if_neg (Nat.not_le_of_gt room), if_neg (by simp [rangeFull_of_room free])]

theorem quePutBody_of_full (full : (s.que q).depth ≤ (s.que q).res - (s.que q).head) :
    quePutBody t w s = .wait (.waitSync (.quePut (BitVec.ofNat 13 q))) := by
  subst named
  unfold quePutBody
  dsimp only
  rw [if_neg (by simp [on, number]), if_pos full]

theorem queGetBody_of_empty (empty : (s.que q).head = (s.que q).tail) :
    queGetBody t w s = .wait (.waitSync (.queGet (BitVec.ofNat 13 q))) := by
  subst named
  unfold queGetBody
  dsimp only
  rw [if_neg (by simp [on, number]), if_pos empty]

end

/-- What a put takes in, the requests of its 8 bytes `new` among it. -/
theorem quePutNow_eq (q : Nat) (v : BitVec 64) (by_ : Option (Fin 16 × BitVec 18)) (s : State) :
    ∃ new, new.map LineReq.unnumbered = writeLines (s.nextId + 1) 0 .usher (some s.nextId) ((s.que q).slot (s.que q).res)
        (leBytes v.toNat 8) ∧
      (quePutNow q v .usher by_ s).2 = modQue q (fun x => { x with res := x.res + 1 })
        ((s.slotAccess (.quePut (BitVec.ofNat 13 q) (s.que q).res by_) (by_.map (·.1)) ((s.que q).slot (s.que q).res) true).requesting
          (s.nextId + 1) new) := by
  obtain ⟨new, asks, lines⟩ := asks_addWrite (s.nextId + 1) 0 .usher (some s.nextId) ((s.que q).slot (s.que q).res)
    (leBytes v.toNat 8)
    (s.slotAccess (.quePut (BitVec.ofNat 13 q) (s.que q).res by_) (by_.map (·.1)) ((s.que q).slot (s.que q).res) true)
  exact ⟨new, lines, congrArg (modQue q fun x => { x with res := x.res + 1 }) asks⟩

/-- Thread `t` of `u` owes register `r` the data of job `id`. -/
def State.owesReg (u : State) (t : Fin 16) (r : Fin 32) (id : Nat) : State :=
  modThread t (fun th => { th with pend := th.pend ++ (if r = 0 then [] else [(id, r)]) }) u

/-- What a get leaves of the state `u` in which the read of its entry is asked for. -/
def State.got (u : State) (q : Nat) : State := wakeQue true q (modQue q (fun x => { x with head := x.head + 1 }) u)

theorem queGetBody_of_entry {t : Fin 16} {s : State} {w : BitVec 32} {q : Nat}
    (named : ((s.thread t).reg (wRa w)).toNat = q) (number : q < 8192) (on : (s.que q).en = true) (free : s.range.length < 64)
    (entry : (s.que q).head ≠ (s.que q).tail) :
    ∃ new, new.map LineReq.unnumbered = readLines (s.nextId + 1) 0 .usher (some s.nextId) ((s.que q).slot (s.que q).head) 8 ∧
      queGetBody t w s = .next (((((s.slotAccess (.queGet t (wRd w) ((s.que q).slot (s.que q).head) (s.thread t).pc) (some t)
        ((s.que q).slot (s.que q).head) false).requesting (s.nextId + 1) new).owesReg t (wRd w) (s.nextId + 1)).got q))
        ((s.thread t).pc + 4) := by
  obtain ⟨new, asks, lines⟩ := asks_addRead (s.nextId + 1) 0 .usher (some s.nextId) ((s.que q).slot (s.que q).head) 8
    (s.slotAccess (.queGet t (wRd w) ((s.que q).slot (s.que q).head) (s.thread t).pc) (some t)
      ((s.que q).slot (s.que q).head) false)
  refine ⟨new, lines, ?_⟩
  subst named
  unfold queGetBody
  dsimp only
  rw [if_neg (by simp [on, number]), if_neg entry, if_neg (by simp [rangeFull_of_room free])]
  have result := congrArg (fun u : State => Res.next ((u.owesReg t (wRd w) (s.nextId + 1)).got ((s.thread t).reg (wRa w)).toNat)
    ((u.owesReg t (wRd w) (s.nextId + 1)).pcNext t)) asks
  refine result.trans (congrArg (Res.next _) ?_)
  rw [State.pcNext, State.owesReg, modThread_thread, if_pos rfl]
  rfl

/-- A get lets the threads that wait for room in its context try again. -/
theorem got_thread (u : State) {q : Nat} (number : q < 8192) (k : Fin 16) :
    (u.got q).thread k =
      if (u.thread k).st = .waitSync (.quePut (BitVec.ofNat 13 q)) then { u.thread k with st := .ready } else u.thread k := by
  have same (n : BitVec 13) : n.toNat = q ↔ n = BitVec.ofNat 13 q := by
    rw [← BitVec.toNat_inj, BitVec.toNat_ofNat, Nat.mod_eq_of_lt number]
  have woken (th : Thread) : (match th.st with
      | .waitSync (.quePut n) => if true && n.toNat == q then { th with st := .ready } else th
      | .waitSync (.queGet n) => if !true && n.toNat == q then { th with st := .ready } else th
      | _ => th) = if th.st = .waitSync (.quePut (BitVec.ofNat 13 q)) then { th with st := .ready } else th := by
    split
    case h_1 n waits => simp [waits, same]
    case h_2 n waits => simp [waits]
    case h_3 other _ => rw [if_neg (other _)]
  exact (Vector.getElem_map ..).trans (woken _)

theorem queuePutGet : Claims.QueuePutGet := by
  intro t s w th q x slot number on free
  refine ⟨fun h room => ⟨_, rfl, ?put⟩, fun h full => ⟨_, rfl, usherRow_waits h (quePutBody_of_full rfl number on full)⟩,
    fun h some => ⟨_, rfl, ?get⟩, fun h none => ⟨_, rfl, usherRow_waits h (queGetBody_of_empty rfl number on none)⟩⟩
  case put =>
    rw [usherRow_of_next h (quePutBody_of_room rfl number on free room)]
    obtain ⟨new, lines, put⟩ := quePutNow_eq q (th.reg (wRb w)) (some (t, th.pc)) s
    rw [put]
    refine ⟨issuedAs_range .., ⟨new, issuedAs_reqs .., ?_, ?_, ?_⟩, ?_⟩
    · rw [map_unnumbered lines fun _ => rfl]
      exact (askLines_pieces ..).trans (congrArg (lineChunks _) (leBytes_length ..))
    · rw [flatMap_unnumbered lines fun _ => rfl]
      exact writeLines_cells ..
    · refine forall_unnumbered lines (fun r m => ?_) fun _ h => h
      obtain ⟨job, -, unit, entry, wr⟩ := mem_writeLines m
      exact ⟨job, unit, entry, wr⟩
    · refine (issuedAs_eq ..).trans ?_
      simp only [issuedAs_range, issuedAs_jobs, issuedAs_reqs, issuedAs_rangeHigh, issuedAs_nextId]
      rfl
  case get =>
    obtain ⟨new, lines, get⟩ := queGetBody_of_entry rfl number on free some
    rw [usherRow_of_next h get]
    refine ⟨issuedAs_range .., ⟨new, issuedAs_reqs .., ?_, ?_⟩, fun u other => ?_, ?_, ?_⟩
    · rw [map_unnumbered lines fun _ => rfl]
      exact askLines_pieces ..
    · refine forall_unnumbered lines (fun r m => ?_) fun _ h => h
      obtain ⟨job, -, unit, entry, wr⟩ := mem_readLines m
      exact ⟨job, unit, entry, wr⟩
    · rw [issuedAs_thread, if_neg other, got_thread _ number]
      simp only [State.owesReg, modThread_thread, if_neg other]
      rfl
    · rw [issuedAs_thread, if_pos rfl, got_thread _ number]
      simp only [State.owesReg, modThread_thread, if_pos, requesting_thread, slotAccess_thread]
      rw [if_neg (by rw [ready_of_issues h]; simp), goesOn_withPend]
    · refine (issuedAs_eq ..).trans ?_
      simp only [issuedAs_range, issuedAs_jobs, issuedAs_reqs, issuedAs_rangeHigh, issuedAs_nextId, issuedAs_threads]
      rfl

end Sys2Proof.Machine

namespace Sys2Proof
open Sys2Proof.Machine

/-- Settles O11. -/
theorem queueContexts : Obligations.QueueContexts := ⟨queueConfigure, queuePutGet⟩

end Sys2Proof


/-! ## The arrays -/

namespace Sys2Proof.Machine

section

variable {s : State} {a : Fin 2} {e : QEntry} {opc : Nat}

theorem opaStart_of_go (head : s.head? (opaQ a) = some e) (opcode : cOpc e.raw = opc) (go : s.opaNext a e = .go) :
    opaStart opc a s = runArray a e s := by
  unfold opaStart
  simp only [head, opcode, ne_eq, not_true_eq_false, if_false, go]

/-- An array command that starts, by its bank, its beats, and the shape and kind that it leaves. -/
theorem runArray_eq {b : Fin 2} {n : Nat} {shape : BitVec 3} {kind : Bool} (bank : arrayBank e.raw = b)
    (beats : arrayBeats e.raw = n)
    (shaped : (if cOpc e.raw = 1 then BitVec.ofNat 3 (opxOf e.raw).shape else (s.opa[a]).shape) = shape)
    (kinded : arrayKind e.raw ((s.opa[a]).banks[b]).kindNext = kind) :
    runArray a e s = { Claims.arrayPopped s a with opa := s.opa.set a (Claims.arrayRuns s a b e n shape kind) } := by
  subst bank beats shaped kinded
  rfl

end

theorem opxStart : ∀ (a : Fin 2) (s : State) (e : QEntry) (ha hb : TileShape), Claims.opxReady s a e ha hb →
    let o := opxOf e.raw
    exec (.opx a) s = .next { Claims.arrayPopped s a with
      opa := s.opa.set a (Claims.arrayRuns s a o.bank e o.beats (e.raw.extractLsb' 23 3)
        (if o.z then decide (o.var = 2) else ((s.opa[a]).banks[o.bank]).kindNext)) } := by
  intro a s e ha hb ready o
  obtain ⟨head, opcode, go, -, -⟩ := ready
  refine congrArg Host.Outcome.next ((opaStart_of_go head opcode go).trans (runArray_eq ?_ ?_ ?_ ?_))
  · rw [arrayBank, if_pos opcode]
  · rw [arrayBeats, if_pos opcode]
  · rw [if_pos opcode]
    exact (congrArg (BitVec.ofNat 3) (fld_eq_toNat_extractLsb' ..)).trans (by rw [BitVec.ofNat_toNat, BitVec.setWidth_eq])
  · rw [arrayKind, if_pos opcode]
    rfl

/-- Cycles from one beat of command `c` to the next. -/
def beatGap (c : Cmd) : Nat := if cOpc c = 1 ∧ (opxOf c).half = true then 2 else 1

/-- Array `x` once the beat `t` has entered in cycle `now`. -/
def Opa.entered (x : Opa) (now : Nat) (t : Beat) : Opa :=
  { x with
    left := x.left - 1, nextBeat := now + beatGap x.cur, asked := false, pipe := x.pipe ++ [t],
    beats := x.beats + 1, beatIdx := BitVec.ofNat 16 x.beatIx,
    zgated := if x.zgEn then x.zgated + BitVec.ofNat 48 t.gated else x.zgated,
    freeAt := if x.left = 1 then now + beatGap x.cur else x.freeAt,
    banks := if x.left = 1 then x.banks.set (arrayBank x.cur) { x.banks[arrayBank x.cur] with
        pend := setReadout (now + 44) (x.banks[arrayBank x.cur]).pend }
      else x.banks }

theorem foldl_retireUse_frame {α : Type} (π : State → α) (keeps : ∀ t s, π (retireUse t s) = π s) (ts : List (Fin 16)) (s : State) :
    π (retireTiles ts s) = π s := by
  induction ts generalizing s with
  | nil => rfl
  | cons t ts ih => exact (ih _).trans (keeps t s)

theorem enterBeat_opa (a : Fin 2) (s : State) :
    (enterBeat a s).opa = s.opa.set a ((s.opa[a]).entered s.now (takeBeat s (s.opa[a]).cur (s.opa[a]).beatIx)) := by
  unfold enterBeat
  dsimp only
  split
  case isTrue last =>
    rw [foldl_retireUse_frame (π := State.opa) fun _ _ => rfl]
    simp only [Opa.entered, if_pos last]
    rfl
  case isFalse more =>
    simp only [Opa.entered, if_neg more]
    rfl

/-- The last beat ends the use of the tile registers. -/
theorem enterBeat_tile (a : Fin 2) (s : State) :
    (enterBeat a s).tile = if s.opa[a].left = 1 then (retireTiles (tileUses s.opa[a].cur) s).tile else s.tile := by
  have same (ts : List (Fin 16)) (u v : State) (tile : u.tile = v.tile) (now : u.now = v.now) :
      (retireTiles ts u).tile = (retireTiles ts v).tile := by
    induction ts generalizing u v with
    | nil => exact tile
    | cons t ts ih => exact ih _ _ (by simp only [retireUse, tile, now]) now
  unfold enterBeat
  dsimp only
  split
  · exact same _ _ _ rfl rfl
  · rfl

theorem retireUse_retiredAt (t u : Fin 16) (s : State) :
    ((retireUse t s).tile.regs[u]).retiredAt =
      if t = u then max (s.tile.regs[u]).retiredAt s.now else (s.tile.regs[u]).retiredAt := by
  simp only [retireUse, Fin.getElem_fin, Vector.getElem_set, Fin.ext_iff]
  split
  case isTrue same => simp [same]
  case isFalse => rfl

theorem retireTiles_grows (ts : List (Fin 16)) (u : Fin 16) (s : State) :
    (s.tile.regs[u]).retiredAt ≤ ((retireTiles ts s).tile.regs[u]).retiredAt := by
  induction ts generalizing s with
  | nil => exact Nat.le_refl _
  | cons t ts ih =>
    refine Nat.le_trans ?_ (ih (retireUse t s))
    rw [retireUse_retiredAt]
    split
    · exact Nat.le_max_left ..
    · exact Nat.le_refl _

theorem retireTiles_retiredAt {ts : List (Fin 16)} {t : Fin 16} (h : t ∈ ts) (s : State) :
    s.now ≤ ((retireTiles ts s).tile.regs[t]).retiredAt := by
  induction ts generalizing s with
  | nil => exact absurd h (List.not_mem_nil)
  | cons u ts ih =>
    rcases List.mem_cons.mp h with rfl | later
    · refine Nat.le_trans ?_ (retireTiles_grows ts t (retireUse t s))
      rw [retireUse_retiredAt, if_pos rfl]
      exact Nat.le_max_right ..
    · exact ih later (retireUse u s)

theorem setReadout_last (at_ : Nat) (l : List Readout) (sig : Option (BitVec 13)) :
    setReadout at_ (l ++ [⟨none, sig⟩]) = l ++ [⟨some at_, sig⟩] := by
  unfold setReadout
  rw [List.mapIdx_append]
  congr 1
  · refine List.ext_getElem (by simp) fun i _ less => ?_
    rw [List.getElem_mapIdx, if_neg (by rw [List.length_append]; simp; omega)]
  · simp

/-- What an entering beat leaves of its array's banks. -/
theorem entered_bank (x : Opa) (now : Nat) (t : Beat) (k : Fin 2) :
    (x.entered now t).banks[k] = if x.left = 1 ∧ arrayBank x.cur = k then
      { x.banks[k] with pend := setReadout (now + 44) (x.banks[k]).pend } else x.banks[k] := by
  unfold Opa.entered
  by_cases last : x.left = 1
  · by_cases own : arrayBank x.cur = k
    · subst own; simp [last]
    · simp [last, own, Vector.getElem_set, ← Fin.ext_iff]
  · simp [last]

theorem beatEnters : Claims.BeatEnters := by
  intro a s x t x' b gap
  have opa := enterBeat_opa a s
  have own : x' = x.entered s.now t := by simp [x', opa, x, t]
  have bank (k : Fin 2) := congrArg (·.banks[k]) own
  simp only [entered_bank] at bank
  have index : (BitVec.ofNat 16 x.beatIx).toNat = x.beatIx % 65536 := BitVec.toNat_ofNat ..
  refine ⟨rfl, by rw [own]; rfl, by rw [own]; rfl, by rw [own]; rfl, by rw [own]; rfl, by rw [own]; exact index, by rw [own]; rfl,
    fun k => ?_, fun more => ⟨?_, ?_, ?_⟩, fun last => ⟨?_, fun l sig pend => ?_, fun r used => ?_⟩, fun k other => ?_, ?_⟩
  · rw [bank]
    split <;> exact ⟨rfl, rfl⟩
  · rw [own]
    exact if_neg more
  · rw [own]
    exact if_neg more
  · exact (enterBeat_tile a s).trans (if_neg more)
  · rw [own]
    exact if_pos last
  · rw [bank, if_pos ⟨last, rfl⟩]
    exact (congrArg _ pend).trans (setReadout_last ..)
  · rw [(enterBeat_tile a s).trans (if_pos last)]
    exact retireTiles_retiredAt used s
  · rw [opa]
    simp [Vector.getElem_set, ← Fin.ext_iff, Ne.symm other]
  · exact enterBeat_mem a s

/-! ### A filled store -/

theorem cellsGet_after {β : Type} {d : β} {l m : List (Nat × β)} {a : Nat} (h : ∀ c ∈ l, c.1 < a) :
    cellsGet d (l ++ m) a = cellsGet d m a := by
  induction l with
  | nil => rfl
  | cons c l ih =>
    have below := h c (List.mem_cons_self ..)
    rw [List.cons_append, cellsGet, if_neg (Nat.ne_of_lt below), if_neg (Nat.not_lt_of_gt below)]
    exact ih fun c m => h c (List.mem_cons_of_mem _ m)

/-- The listings that a fill makes of keys from `lo + k` on. -/
def filled {β : Type} [DecidableEq β] (d : β) (lo k n : Nat) (f : Nat → β) : List (Nat × β) :=
  (List.range' k n).filterMap fun i => if f i = d then none else some (lo + i, f i)

theorem cellsGet_filled {β : Type} [DecidableEq β] {d : β} {lo k n i : Nat} {f : Nat → β} {rest : List (Nat × β)}
    (above : ∀ c ∈ rest, lo + k + n ≤ c.1) (first : k ≤ i) (last : i < k + n) :
    cellsGet d (filled d lo k n f ++ rest) (lo + i) = f i := by
  induction n generalizing k with
  | zero => omega
  | succ n ih =>
    have later : ∀ c ∈ filled d lo (k + 1) n f ++ rest, lo + k < c.1 := by
      intro c m
      rcases List.mem_append.mp m with m | m
      · obtain ⟨j, mj, eq⟩ := List.mem_filterMap.mp m
        have range := List.mem_range'_1.mp mj
        split at eq
        · cases eq
        · cases eq
          dsimp only
          omega
      · have := above c m
        omega
    have cons : filled d lo k (n + 1) f =
        (if f k = d then [] else [(lo + k, f k)]) ++ filled d lo (k + 1) n f := by
      rw [filled, List.range'_succ, List.filterMap_cons]
      by_cases default : f k = d <;> simp [default, filled]
    rw [cons]
    by_cases own : i = k
    · subst own
      by_cases default : f i = d
      · rw [if_pos default, List.nil_append, cellsGet_below _ _ _ later, default]
      · rw [if_neg default, List.append_assoc, List.singleton_append, cellsGet, if_pos rfl]
    · have next := ih (k := k + 1) (fun c m => by have := above c m; omega) (by omega) (by omega)
      by_cases default : f k = d
      · rwa [if_pos default, List.nil_append]
      · rw [if_neg default, List.append_assoc, List.singleton_append, cellsGet, if_neg (by omega), if_neg (by omega), next]

/-- A filled key reads as what it was filled with, whatever the store listed before. -/
theorem fill_get {w : Nat} (m : SMap w) {lo n i : Nat} (f : Nat → BitVec w) (h : i < n) :
    (m.fill lo n f).get (lo + i) = f i := by
  have listings : (m.fill lo n f).cells = m.cells.filter (fun c => c.1 < lo) ++
      (filled m.dflt lo 0 n f ++ m.cells.filter (fun c => lo + n ≤ c.1)) := by
    rw [SMap.fill, cellsFill, filled, List.range_eq_range', List.append_assoc]
  rw [SMap.get, listings, cellsGet_after]
  · refine cellsGet_filled (fun c m => ?_) (Nat.zero_le i) (by omega)
    exact of_decide_eq_true (List.mem_filter.mp m).2
  · intro c m
    have below : c.1 < lo := of_decide_eq_true (List.mem_filter.mp m).2
    omega

/-! ### Commits -/

/-- The bank `k` once the beat `t` has committed. -/
def Beat.committed (t : Beat) (k : Bank) : Bank :=
  { k with
    cells := k.cells.fill 0 16384 fun i => ((t.bank k)[i]?.map (·.1)).getD 0,
    int32 := if t.first then arrayKind t.cmd k.int32 else k.int32 }

theorem noteIf_opa (c : Bool) (p : Page) (bit : Nat) (s : State) : (s.noteIf c p bit).opa = s.opa := by cases c <;> rfl

/-- A commit changes its bank, and the sticky flags. -/
theorem commitBeat_bank (a : Fin 2) (t : Beat) (s : State) (k : Fin 2) :
    ((commitBeat a t s).opa[a]).banks[k] =
      if arrayBank t.cmd = k then t.committed ((s.opa[a]).banks[k]) else (s.opa[a]).banks[k] := by
  have array : (commitBeat a t s).opa[a].banks =
      (s.opa[a]).banks.set (arrayBank t.cmd) (t.committed ((s.opa[a]).banks[arrayBank t.cmd])) := by
    simp only [commitBeat, modOpa, noteIf_opa, Fin.getElem_fin, Vector.getElem_set_self]
    rfl
  rw [array]
  by_cases own : arrayBank t.cmd = k
  · subst own; simp
  · simp [own, Vector.getElem_set, ← Fin.ext_iff]

theorem commitBeat_other {a k : Fin 2} (other : k ≠ a) (t : Beat) (s : State) : (commitBeat a t s).opa[k] = s.opa[k] := by
  simp [commitBeat, modOpa, noteIf_opa, Vector.getElem_set, ← Fin.ext_iff, Ne.symm other]

/-- Each cell of the bank takes what the beat makes of it. -/
theorem committed_cell (t : Beat) (k : Bank) {r c : Nat} (hr : r < 128) (hc : c < 128) :
    (t.committed k).cells.get (128 * r + c) = (t.cell r c (k.cells.get (128 * r + c))).1 := by
  have inside : 128 * r + c < 16384 := by omega
  have filled := fill_get k.cells (lo := 0) (fun i => ((t.bank k)[i]?.map (·.1)).getD 0) inside
  rw [Nat.zero_add] at filled
  refine filled.trans ?_
  have row : (128 * r + c) / 128 = r := by omega
  have column : (128 * r + c) % 128 = c := by omega
  simp [Beat.bank, inside, row, column]

end Sys2Proof.Machine

namespace Sys2Proof
open Sys2Proof.Machine

/-- Settles O13. -/
theorem opxStarts : Obligations.OpxStarts := ⟨opxStart, beatEnters⟩

end Sys2Proof

namespace Sys2Proof
open Sys2Proof.Machine Sys2Proof.Tests

/-- In inspection mode, the head of array 0's queue meets registers that hold no tile, in a cycle in which the array's page
has logged an occurrence of event bit 1. -/
def shapeAfterKind : State :=
  { liveIn (queued 0 [entry opxInt] at10) with setNow := [(.opa0, 1)] }

/-- Refutes O16: TILE_SHAPE, of event bit 0, leaves the log to the occurrence of a higher bit in the same cycle (R332). -/
theorem not_opxFaults : ¬ Obligations.OpxFaults := fun h => by
  obtain ⟨-, s', row, -, -, live⟩ := h 0 shapeAfterKind (entry opxInt) 0x10 (by decide) (by decide) (by decide)
  obtain ⟨-, -, -, log⟩ := live (by decide)
  have keeps : nx (exec (.opx 0) shapeAfterKind) (fun s => (s.hdrOf .opa0).log == 0) = true := by decide
  rw [row] at keeps
  have zero : (s'.hdrOf .opa0).log = 0 := by simpa [nx] using keeps
  exact absurd (zero.symm.trans log) (by decide)

end Sys2Proof


/-! ## Control of the arrays, and the cells of a beat -/

namespace Sys2Proof.Machine

theorem arrayBank_of_clear {c : Cmd} (clear : cOpc c = 2) : arrayBank c = Fin.ofNat 2 (c.toNat / 2 ^ 19) := by
  rw [arrayBank, if_neg (by rw [clear]; decide), fld_eq_toNat_extractLsb', extractLsb'_eq_ofNat]
  simp [Fin.ofNat]

theorem bitAt_eq_div {n : Nat} (v : BitVec n) (i : Nat) : bitAt v i = decide (v.toNat / 2 ^ i % 2 = 1) := by
  rw [bitAt, BitVec.getLsbD, Nat.testBit_eq_decide_div_mod_eq]

/-- The first beat of a command gives its bank its kind. -/
theorem committed_kind {t : Beat} (first : t.first = true) (k : Bank) : (t.committed k).int32 = arrayKind t.cmd k.int32 :=
  if_pos first

theorem bankReadoutPoint_of_due {a b : Fin 2} {s : State} {k : Nat} {sig : Option (BitVec 13)} {r : List Readout}
    (pend : ((s.opa[a]).banks[b]).pend = ⟨some k, sig⟩ :: r) (clocked : s.clocked = true) (due : k ≤ s.now) :
    bankReadoutPoint a b s =
      signalOpt sig (modOpa a (fun x => { x with banks := x.banks.set b { x.banks[b] with pend := r } }) s) := by
  unfold bankReadoutPoint
  rw [pend]
  dsimp only
  rw [if_neg (by simp [clocked, due])]

/-- RESUME of a held array. -/
theorem opaCtl_of_held {a : Fin 2} {v : BitVec 64} {s : State} (resume : bitAt v 8 = true) (held : (s.opa[a]).held = true) :
    opaCtl a v s = { Claims.arrayPopped s a with
      opa := s.opa.set a { s.opa[a] with zgEn := bitAt v 0, held := false } } := by
  have held' : ((modOpa a (fun x => { x with zgEn := bitAt v 0 }) s).opa[a]).held = true := by
    simpa [modOpa] using held
  rw [opaCtl, if_pos (by rw [resume, held']; rfl)]
  simp only [modOpa, Fin.getElem_fin, Vector.getElem_set_self, Vector.set_set]
  rfl

/-- A RESUME is a write of OPAn_CTL with bit 8. -/
theorem opaResume_ctl {a : Fin 2} {o : Originator} {s : State} (h : Claims.writes o (Page.opa a) 0x40 s) (v : BitVec 64) :
    exec (.opaResume o a v) s =
      .next (Claims.answered o (Page.opa a) (opaCtl a (setBit 8 v &&& (1 ||| bitsMask 8 1)) s)) := by
  obtain rfl | rfl : a = 0 ∨ a = 1 := by omega
  all_goals
    exact regRow_effect h (by decide) (m := 1 ||| bitsMask 8 1) (by simp [regFields, opaFields, Access3.all, Page.opa])
      (by decide) rfl

end Sys2Proof.Machine

namespace Sys2Proof
open Sys2Proof.Machine

/-- Settles O15. -/
theorem arrayControl : Obligations.ArrayControl := by
  intro a s x
  refine ⟨fun e head opcode go => ?_, fun c s₀ opcode => ?_, fun b k sig r pend clocked due => ?_, fun o v h held => ?_⟩
  · refine congrArg Host.Outcome.next ((opaStart_of_go head opcode go).trans (runArray_eq (arrayBank_of_clear opcode) ?_ ?_ ?_))
    · rw [arrayBeats, if_neg (by rw [opcode]; decide)]
    · rw [if_neg (by rw [opcode]; decide)]
    · rw [arrayKind, if_neg (by rw [opcode]; decide), bitAt_eq_div]
  · intro b s'
    have bank : arrayBank (takeBeat s₀ c 0).cmd = b := arrayBank_of_clear opcode
    refine ⟨?_, fun r hr k hk => ?_, fun k other => ?_⟩
    · rw [commitBeat_bank, if_pos bank]
      refine (committed_kind (t := takeBeat s₀ c 0) rfl _).trans ?_
      exact (if_neg (by rw [show (takeBeat s₀ c 0).cmd = c from rfl, opcode]; decide)).trans (bitAt_eq_div ..)
    · rw [Claims.cell, commitBeat_bank, if_pos bank, committed_cell _ _ hr hk, Beat.cell]
      exact congrArg Prod.fst (if_pos (by rw [show (takeBeat s₀ c 0).cmd = c from rfl, opcode]; decide))
    · exact (commitBeat_bank ..).trans (if_neg (by rw [bank]; exact Ne.symm other))
  · exact congrArg Host.Outcome.next (bankReadoutPoint_of_due pend clocked due)
  · rw [opaResume_ctl h, opaCtl_of_held (bitAt_setBit_and (by decide) (by decide) v) held,
      bitAt_setBit_and_ne (by decide) (by decide), Nat.pow_zero, Nat.div_one]

end Sys2Proof

namespace Sys2Proof.Machine

section

variable {s : State} {c : Cmd} {ha hb : TileShape} (opcode : cOpc c = 1) (shapeA : s.shapeOf (opxOf c).ta = some ha)
  (shapeB : s.shapeOf (opxOf c).tb = some hb)

include opcode shapeA shapeB

/-- What a beat of an OPX takes with it. -/
theorem takeBeat_eq (b : Nat) : takeBeat s c b = ⟨s.now + Config.opaCommit, c, b = 0, ha.fmt.toNat, hb.fmt.toNat,
    (opxOf c).a.vecs s ha (opxOf c) b, (opxOf c).b.vecs s hb (opxOf c) b⟩ := by
  have sideA : s.shapeOf (opxOf c).a.t = some ha := shapeA
  have sideB : s.shapeOf (opxOf c).b.t = some hb := shapeB
  simp only [takeBeat, sideA, sideB, opcode, if_true]

end

section

variable {t : Beat} {r c p i j : Nat} (opcode : cOpc t.cmd = 1) (place : (opxOf t.cmd).locate r c = (p, i, j)) (old : BitVec 32)

include opcode place

/-- A cell outside the active partitions keeps its value. -/
theorem cell_of_idle (idle : p ∉ (opxOf t.cmd).active) : (t.cell r c old).1 = old := by
  unfold Beat.cell
  dsimp only
  rw [place, if_neg (not_not.mpr opcode), if_pos (by simpa using idle)]

/-- A cell of an active partition takes the start value, and adds to it in the active rows and columns. -/
theorem cell_of_active (active : p ∈ (opxOf t.cmd).active) : (t.cell r c old).1 =
    (if i < (opxOf t.cmd).mact ∧ j < (opxOf t.cmd).nact then
      (t.add (t.a.getD ((opxOf t.cmd).a.index p i) []) (t.b.getD ((opxOf t.cmd).b.index p j) [])
        (if (opxOf t.cmd).z && t.first then 0 else old)).1
    else if (opxOf t.cmd).z && t.first then 0 else old) := by
  unfold Beat.cell
  dsimp only
  rw [place, if_neg (not_not.mpr opcode), if_neg (by simpa using active)]
  split <;> rfl

end

/-- The k-vector at an index of an active partition. -/
theorem vecs_getD (s : State) (o : OpxCmd) (x : Operand) (h : TileShape) (b : Nat) {p i : Nat} (part : p < o.parts) (inside : i < x.act) :
    (x.vecs s h o b).getD (x.index p i) [] = Claims.kvec s o x h b (x.index p i) := by
  have index : x.index p i < if x.shared then x.act else o.parts * x.act := by
    unfold Operand.index
    split
    · exact inside
    · calc p * x.act + i < p * x.act + x.act := Nat.add_lt_add_left inside _
        _ = (p + 1) * x.act := (Nat.succ_mul ..).symm
        _ ≤ o.parts * x.act := Nat.mul_le_mul_right _ part
  have element : (x.vecs s h o b).getD (x.index p i) [] = (List.range o.k).map fun u =>
      if x.ax then (tileElem s x.t h (o.kstart + b * o.k + u) (x.index p i), tileScale s x.t h (o.kstart + b * o.k + u) (x.index p i))
      else (tileElem s x.t h (x.index p i) (o.kstart + b * o.k + u), tileScale s x.t h (x.index p i) (o.kstart + b * o.k + u)) := by
    simp [Operand.vecs, List.getD_eq_getElem?_getD, List.getElem?_range index]
  rw [element]
  refine List.map_congr_left fun u _ => ?_
  split <;> rfl

/-- The sum of an INT8 step, clamped. -/
theorem cubeStepInt_eq (start : BitVec 32) (va vb : List (Nat × Nat)) :
    (cubeStepInt start ((va.zip vb).map fun x => (int8 x.1.1, int8 x.2.1))).1 =
      (let sum := start.toInt +
        (List.zipWith (fun x y => (BitVec.ofNat 8 x.1).toInt * (BitVec.ofNat 8 y.1).toInt) va vb).sum
      if sum > 2147483647 then 0x7FFFFFFF else if sum < -2147483648 then 0x80000000 else BitVec.ofInt 32 sum) := by
  have products : ((va.zip vb).map fun x => (int8 x.1.1, int8 x.2.1)).map (fun p => p.1 * p.2) =
      List.zipWith (fun x y => (BitVec.ofNat 8 x.1).toInt * (BitVec.ofNat 8 y.1).toInt) va vb := by
    rw [List.map_map]
    exact List.map_zip_eq_zipWith
  rw [cubeStepInt, products, sat32]
  dsimp only
  split
  case isTrue low => rw [if_neg (by omega)]; rfl
  case isFalse => split <;> rfl

/-- A beat of an INT8 command. -/
theorem add_of_int8 {t : Beat} (int8 : (opxOf t.cmd).var = 2) (va vb : List (Nat × Nat)) (start : BitVec 32) :
    (t.add va vb start).1 = (let sum := start.toInt +
        (List.zipWith (fun x y => (BitVec.ofNat 8 x.1).toInt * (BitVec.ofNat 8 y.1).toInt) va vb).sum
      if sum > 2147483647 then 0x7FFFFFFF else if sum < -2147483648 then 0x80000000 else BitVec.ofInt 32 sum) :=
  (congrArg Prod.fst (if_pos (beq_iff_eq.mpr int8))).trans (cubeStepInt_eq start va vb)

/-- A beat of another variant, with the scales of both k-vectors' first elements. -/
theorem add_of_float {t : Beat} (float : (opxOf t.cmd).var ≠ 2) (va vb : List (Nat × Nat)) (start : BitVec 32) :
    (t.add va vb start).1 = cubeStep start (List.zipWith (fun x y => (elemNum t.fmtA x.1, elemNum t.fmtB y.1)) va vb)
      ((va.head?.map (·.2)).getD 127) ((vb.head?.map (·.2)).getD 127) := by
  have pairs : (va.zip vb).map (fun x => (elemNum t.fmtA x.1.1, elemNum t.fmtB x.2.1)) =
      List.zipWith (fun x y => (elemNum t.fmtA x.1, elemNum t.fmtB y.1)) va vb := List.map_zip_eq_zipWith
  rw [← pairs]
  refine (congrArg Prod.fst (if_neg fun same => float (beq_iff_eq.mp same))).trans ?_
  cases va <;> cases vb <;> rfl

end Sys2Proof.Machine

namespace Sys2Proof
open Sys2Proof.Machine

/-- Settles O14. -/
theorem opxCells : Obligations.OpxCells := by
  intro a s₀ s c b ha hb opcode o shapeA shapeB s'
  have beat := takeBeat_eq opcode shapeA shapeB b
  have bank : arrayBank (takeBeat s₀ c b).cmd = o.bank := if_pos opcode
  refine ⟨fun k other => (commitBeat_bank ..).trans (if_neg (by rw [bank]; exact Ne.symm other)),
    fun k other => commitBeat_other other .., commitBeat_mem .., ?_, fun r hr k hk => ?_⟩
  · refine (congrArg Bank.int32 ((commitBeat_bank ..).trans (if_pos bank))).trans ?_
    by_cases first : b = 0
    · refine (committed_kind (decide_eq_true first) _).trans ((if_pos opcode).trans ?_)
      simp [first]
      rfl
    · exact (if_neg (by simpa [takeBeat] using first)).trans (if_neg fun h => first h.1).symm
  · intro old new start p i j place va vb
    have value : new = ((takeBeat s₀ c b).cell r k old).1 := by
      simp only [new, Claims.cell, s', commitBeat_bank, if_pos bank, committed_cell _ _ hr hk]
      rfl
    have act : (takeBeat s₀ c b).cmd = c := rfl
    have started : (if o.z && (takeBeat s₀ c b).first then (0 : BitVec 32) else old) = start := by
      have first : (takeBeat s₀ c b).first = decide (b = 0) := rfl
      simp only [first, start, Bool.and_eq_true, decide_eq_true_eq]
    refine ⟨fun idle => value.trans (cell_of_idle (t := takeBeat s₀ c b) opcode place old idle), fun active outside => ?_, fun active hi hj => ?_⟩
    · refine value.trans ((cell_of_active (t := takeBeat s₀ c b) opcode place old active).trans ((if_neg ?_).trans started))
      change ¬ (i < o.mact ∧ j < o.nact)
      omega
    · have part : p < o.parts := List.mem_range.mp (List.mem_filter.mp active).1
      have added := value.trans ((cell_of_active (t := takeBeat s₀ c b) opcode place old active).trans (if_pos ⟨hi, hj⟩))
      have sideA : (takeBeat s₀ c b).a.getD (o.a.index p i) [] = va := by
        rw [beat]
        exact vecs_getD s₀ o o.a ha b part hi
      have sideB : (takeBeat s₀ c b).b.getD (o.b.index p j) [] = vb := by
        rw [beat]
        exact vecs_getD s₀ o o.b hb b part hj
      rw [act, started, sideA, sideB] at added
      refine ⟨fun int8 => added.trans (add_of_int8 (t := takeBeat s₀ c b) int8 va vb start),
        fun float => (added.trans (add_of_float (t := takeBeat s₀ c b) float va vb start)).trans ?_⟩
      rw [beat]

end Sys2Proof


/-! ## The tile unit: configuration, TILE_CTL, and what a move requests -/

namespace Sys2Proof.Machine

/-! ### Configuration -/

theorem tileStart_of_ready {s : State} {opc : Nat} {e : QEntry} (ready : Claims.tileReady s opc e)
    (go : QEntry → State → State) : tileStart opc go s = go e s := by
  obtain ⟨head, opcode, free, running⟩ := ready
  have unpaused : ¬(s.tile.pause && s.clu.live) = true := by
    obtain pause | live := running
    · simp [pause]
    · simp [live]
  unfold tileStart
  rw [head]
  dsimp only
  rw [if_neg (by simp [opcode, free]), if_neg unpaused]

theorem startCfg_of_legal {s : State} {e : QEntry} (legal : cOpc e.raw = 3 → (tcfgShape e.raw).bad = false) :
    startCfg e s = { popQueue 2 s with tile := { s.tile with cfg := some (e, s.now) } } := by
  refine if_neg fun refused => ?_
  rw [legal refused.1] at refused
  exact absurd refused.2 Bool.false_ne_true

/-! ### TILE_CTL -/

/-- The fields of TILE_CTL that a write reaches. -/
def tileCtlMask : BitVec 64 := 1 ||| bitsMask 8 2

theorem regRow_tileCtl {o : Originator} {s : State} (h : Claims.writes o .tile 0x40 s) (v : BitVec 64) :
    regRow o .tile 0x40 v s = .next (Claims.answered o .tile (tileCtl (v &&& tileCtlMask) s)) :=
  regRow_effect h (by decide) (m := tileCtlMask) (by simp [regFields, Access3.all, tileCtlMask]) (by decide) rfl

theorem tileCtl_of_free {v : BitVec 64} {s : State} (free : s.tile.held = none) :
    tileCtl v s = { s with tile := { s.tile with pause := bitAt v 0 } } := by
  unfold tileCtl
  dsimp only
  rw [free]

section

variable {v : BitVec 64} {s : State} {e : QEntry} (held : s.tile.held = some e)
include held

theorem tileCtl_of_discard (discard : bitAt v 9 = true) :
    tileCtl v s = retireUse (cTreg e.raw)
      (releaseAll e.entries false { s with tile := { s.tile with held := none, pause := false } }) := by
  unfold tileCtl
  dsimp only
  rw [held]
  exact if_pos discard

theorem tileCtl_of_resume (kept : bitAt v 9 = false) (resume : bitAt v 8 = true) :
    tileCtl v s = modQueue 2 (fun q => { q with cmds := restartAt e s.tile.startRow.toNat :: q.cmds })
      { s with tile := { s.tile with held := none, pause := false } } := by
  unfold tileCtl
  dsimp only
  rw [held]
  dsimp only
  rw [if_neg (by simp [kept]), if_pos resume]

end

end Sys2Proof.Machine

namespace Sys2Proof
open Sys2Proof.Machine

/-- Settles O17. -/
theorem tileConfiguration : Obligations.TileConfiguration := by
  intro s e
  refine ⟨fun ready legal => congrArg Host.Outcome.next ((tileStart_of_ready ready _).trans (startCfg_of_legal fun _ => legal)),
    fun ready => congrArg Host.Outcome.next ((tileStart_of_ready ready _).trans (startCfg_of_legal fun cfg => ?_)),
    ?_⟩
  · exact absurd (ready.2.1.symm.trans cfg) (by decide)
  · intro st waits t r clocked unused loaded due
    have takes : ¬(!s.clocked || s.opxUses t e.seq || s.loading t || s.now < max st r.retiredAt + Config.tileCfg) = true := by
      rw [clocked, unused, loaded, show decide (s.now < max st r.retiredAt + Config.tileCfg) = false from
        decide_eq_false (Nat.not_lt.mpr due)]
      decide
    refine congrArg Host.Outcome.next ?_
    unfold tileCfgTakeEffect
    rw [waits]
    dsimp only
    rw [if_neg takes]
    by_cases tcfg : cOpc e.raw = 3
    · simp only [if_pos tcfg]
      rfl
    · simp only [if_neg tcfg]
      rfl

/-- Settles O19. -/
theorem tileControl : Obligations.TileControl := by
  intro s o v h
  refine ⟨fun free => ?_, fun e held => ⟨fun kept => ?_, ?_⟩⟩
  · refine (regRow_tileCtl h v).trans ?_
    rw [tileCtl_of_free free, bitAt_and_field (by decide), Nat.pow_zero, Nat.div_one]
  · refine (regRow_tileCtl h (setBit 8 v)).trans ?_
    rw [tileCtl_of_resume held _ (bitAt_setBit_and (by decide) (by decide) v)]
    rw [bitAt_setBit_and_ne (by decide) (by decide), kept]
    rfl
  · refine (regRow_tileCtl h (setBit 9 v)).trans ?_
    rw [tileCtl_of_discard held (bitAt_setBit_and (by decide) (by decide) v)]

end Sys2Proof


/-! ## Entries taken at a start; what a move of the tile unit requests; and where a line lands -/

namespace Sys2Proof.Machine

/-! ### What taking entries leaves alone -/

/-- `π` speaks of nothing that taking entries changes: the range table and its high mark, the numbers given, the slots. -/
def KeptByTaking {α : Type} (π : State → α) : Prop :=
  ∀ (s : State) (range : List RangeEntry) (nextId : Nat) (high : BitVec 7) (land : Land),
    π { s with range := range, nextId := nextId, ush := { s.ush with rangeHigh := high }, land := land } = π s

section

variable {α : Type} {π : State → α} (kept : KeptByTaking π)
include kept

theorem KeptByTaking.tagTake (l : Fin 64) (k : Nat) (wr : Bool) (s : State) : π (tagTake l k wr s) = π s := by
  have both (c : Prop) [Decidable c] (f : Ring → Ring) (g : Slot → Slot) :
      π (if c then modRing l f (setSlot l k g s) else setSlot l k g s) = π s := by
    split
    · exact kept s s.range s.nextId s.ush.rangeHigh (modRing l f (setSlot l k g s)).land
    · exact kept s s.range s.nextId s.ush.rangeHigh (setSlot l k g s).land
  unfold Machine.tagTake
  split
  · exact both ..
  · exact both ..

theorem KeptByTaking.takeEntry (lo hi : Nat) (wr : Bool) (unit : MemUnit) (slot : Option (Fin 64 × Nat)) (s : State) :
    π (takeEntry lo hi wr unit slot s).2 = π s := kept s ..

theorem KeptByTaking.takeOne (unit : MemUnit) (o : Nat × Nat × Bool) (s : State) : π (takeOne unit o s).2 = π s := by
  unfold Machine.takeOne
  split
  · rw [kept.takeEntry, kept.tagTake]
  · rw [kept.takeEntry]

theorem KeptByTaking.takeAtStart (unit : MemUnit) (ops : List (Nat × Nat × Bool)) (had : List Nat) (s : State) :
    π (takeAtStart unit ops had s).2 = π s := by
  unfold Machine.takeAtStart
  split
  case isTrue => rfl
  case isFalse =>
    refine List.foldlRecOn ops _ (motive := fun acc : List Nat × List Nat × State => π acc.2.2 = π s) rfl fun acc h o _ => ?_
    dsimp only
    split
    · exact (kept.takeOne ..).trans h
    · split
      · exact h
      · exact (kept.takeOne ..).trans h

end

/-! ### The requests of a TLD and of a TST -/

theorem TmoveCmd.scaleRow?_eq (m : TmoveCmd) (r : Nat) :
    m.scaleRow? r = if m.scl = 0 ∨ (m.sbax = true ∧ r % 32 ≠ 0) then none else some (if m.sbax then r / 32 else r) := by
  unfold TmoveCmd.scaleRow?
  by_cases plain : m.scl = 0
  · simp [plain]
  · cases m.sbax
    · simp [plain]
    · by_cases block : r % 32 = 0
      · simp [plain, block]
      · simp [plain, block]

/-- What row `r` of a move comes to: `line` of the data, and `scales` of the scale row that goes with it. -/
def TmoveCmd.rowOf {α : Type} (m : TmoveCmd) (line : Nat → List α) (scales : Nat → Nat → List α) (r : Nat) : List α :=
  line r ++ ((m.scaleRow? r).map (scales r)).getD []

theorem TmoveCmd.rowOf_eq {α : Type} (m : TmoveCmd) (line : Nat → List α) (scales : Nat → Nat → List α) (r : Nat) :
    m.rowOf line scales r = line r ++ if m.scl = 0 ∨ (m.sbax = true ∧ r % 32 ≠ 0) then [] else
      scales r (if m.sbax then r / 32 else r) := by
  rw [TmoveCmd.rowOf, scaleRow?_eq, apply_ite (Option.map _), apply_ite (Option.getD · _)]
  rfl

theorem TmoveCmd.rowOf_map {α β : Type} (f : α → β) (m : TmoveCmd) (line : Nat → List α) (scales : Nat → Nat → List α)
    (r : Nat) :
    (m.rowOf line scales r).map f = m.rowOf (fun r => (line r).map f) (fun r i => (scales r i).map f) r := by
  rw [TmoveCmd.rowOf, TmoveCmd.rowOf]
  cases m.scaleRow? r <;> simp

theorem TmoveCmd.rowOf_flatMap {α β : Type} (f : α → List β) (m : TmoveCmd) (line : Nat → List α)
    (scales : Nat → Nat → List α) (r : Nat) :
    (m.rowOf line scales r).flatMap f = m.rowOf (fun r => (line r).flatMap f) (fun r i => (scales r i).flatMap f) r := by
  rw [TmoveCmd.rowOf, TmoveCmd.rowOf]
  cases m.scaleRow? r <;> simp

theorem TmoveCmd.forall_rowOf {α : Type} {P : α → Prop} {m : TmoveCmd} {line : Nat → List α} {scales : Nat → Nat → List α}
    {r : Nat} (data : ∀ x ∈ line r, P x) (scale : ∀ i, ∀ x ∈ scales r i, P x) : ∀ x ∈ m.rowOf line scales r, P x := by
  intro x mem
  rw [TmoveCmd.rowOf] at mem
  cases plan : m.scaleRow? r with
  | none => exact data x (by simpa [plan] using mem)
  | some i => exact (List.mem_append.mp mem).elim (data x) fun more => scale i x (by simpa [plan] using more)

theorem moveLines_eq (m : TmoveCmd) :
    Claims.moveLines m = m.rows.flatMap (m.rowOf
      (fun r => (lineChunks (m.base + r * m.stride) m.width).map (fun c => (2 * r, c)))
      fun r i => (lineChunks (m.sbase + i * m.sstride) m.scaleBytes).map (fun c => (2 * r + 1, c))) := by
  simp only [TmoveCmd.rows, List.flatMap_map, TmoveCmd.rowOf_eq]
  rfl

theorem moveBytes_eq (s : State) (m : TmoveCmd) (h : TileShape) :
    Claims.moveBytes s m h = m.rows.flatMap (m.rowOf
      (fun r => cellsAt (m.base + r * m.stride) ((List.range m.width).map fun o => tileByte s m.t h r o))
      fun _ i => cellsAt (m.sbase + i * m.sstride)
        ((List.range m.scaleBytes).map fun b => s.tile.regs[m.t].scale.get (i * m.scaleBytes + b))) := by
  simp only [TmoveCmd.rows, List.flatMap_map, TmoveCmd.rowOf_eq]
  rfl

/-- The requests of row `r` of a TLD, job `id`. -/
def TmoveCmd.loadLines (m : TmoveCmd) (id : Nat) (es : List Nat) : Nat → List LineReq :=
  m.rowOf (fun r => readLines id (2 * r) .tile es[0]? (m.base + r * m.stride) m.width)
    fun r i => readLines id (2 * r + 1) .tile es[1]? (m.sbase + i * m.sstride) m.scaleBytes

/-- The requests of row `r` of a TST, job `id`, of a register of shape `h`. -/
def TmoveCmd.storeLines (m : TmoveCmd) (s : State) (h : TileShape) (id : Nat) (es : List Nat) : Nat → List LineReq :=
  m.rowOf (fun r => writeLines id (2 * r) .tile es[0]? (m.base + r * m.stride)
      ((List.range m.width).map fun i => tileByte s m.t h r i))
    fun r i => writeLines id (2 * r + 1) .tile es[1]? (m.sbase + i * m.sstride)
      ((List.range m.scaleBytes).map fun k => s.tile.regs[m.t].scale.get (i * m.scaleBytes + k))

theorem asks_issueLoad (id : Nat) (m : TmoveCmd) (es : List Nat) (s : State) :
    s.Asks (issueLoad id m es s) id (m.rows.flatMap (m.loadLines id es)) := by
  refine asks_foldl (.refl s id) (fun u new _ r => ?_) m.rows
  unfold TmoveCmd.loadLines TmoveCmd.rowOf
  cases m.scaleRow? r with
  | none => simpa using asks_addRead ..
  | some i => exact (asks_addRead ..).trans (asks_addRead ..)

theorem asks_issueStore (id : Nat) (m : TmoveCmd) (h : TileShape) (es : List Nat) (s : State) :
    s.Asks (issueStore id m h es s) id (m.rows.flatMap (m.storeLines s h id es)) := by
  refine asks_foldl (.refl s id) (fun u new asked r => ?_) m.rows
  have tile : u.tile = s.tile := by rw [asked.frame]
  have same : m.storeLines u h id es r = m.storeLines s h id es r := by
    simp only [TmoveCmd.storeLines, tileByte, tile]
  rw [← same]
  unfold TmoveCmd.storeLines TmoveCmd.rowOf
  cases m.scaleRow? r with
  | none => simpa using asks_addWrite ..
  | some i =>
    refine (asks_addWrite ..).trans ?_
    have kept : (addWrite id (2 * r) .tile es[0]? (m.base + r * m.stride)
        ((List.range m.width).map fun i => tileByte u m.t h r i) u).tile = u.tile := by rw [(asks_addWrite ..).frame]
    dsimp only
    rw [kept]
    exact asks_addWrite ..

theorem askLines_tagged (job tag rank : Nat) (unit : MemUnit) (entry : Option Nat) (wr : Nat × Nat → Option (List Host.Cell))
    (cs : List (Nat × Nat)) :
    (askLines job tag rank unit entry wr cs).map (fun r => (r.tag, r.addr, r.len)) = cs.map fun c => (tag, c) := by
  simp [askLines, Function.comp_def]

theorem readLines_cells (job tag : Nat) (unit : MemUnit) (entry : Option Nat) (a n : Nat) :
    (readLines job tag unit entry a n).flatMap (fun r => r.wr.getD []) = [] := by
  simp [readLines, askLines, List.flatMap_map]

section

variable (store : Bool) (m : TmoveCmd) (s : State) (h : TileShape) (id : Nat) (es : List Nat)

/-- The requests of the rows of a TLD or TST. -/
def TmoveCmd.lines : List LineReq := m.rows.flatMap (if store then m.storeLines s h id es else m.loadLines id es)

theorem TmoveCmd.lines_pieces :
    (m.lines store s h id es).map (fun q => (q.tag, q.addr, q.len)) = Claims.moveLines m := by
  rw [moveLines_eq, TmoveCmd.lines, List.map_flatMap]
  congr 1
  funext r
  cases store
  · show (m.loadLines id es r).map _ = _
    simp only [TmoveCmd.loadLines, TmoveCmd.rowOf_map, readLines, askLines_tagged]
  · show (m.storeLines s h id es r).map _ = _
    simp only [TmoveCmd.storeLines, TmoveCmd.rowOf_map, writeLines, askLines_tagged, List.length_map, List.length_range]

theorem TmoveCmd.lines_cells :
    (m.lines store s h id es).flatMap (fun q => q.wr.getD []) = if store then Claims.moveBytes s m h else [] := by
  rw [TmoveCmd.lines, List.flatMap_assoc]
  cases store
  · refine List.flatMap_eq_nil_iff.mpr fun r _ => ?_
    show (m.loadLines id es r).flatMap _ = _
    rw [TmoveCmd.loadLines, TmoveCmd.rowOf_flatMap]
    simp only [readLines_cells]
    rw [TmoveCmd.rowOf_eq, ite_self, List.append_nil]
  · refine Eq.trans ?_ (moveBytes_eq s m h).symm
    congr 1
    funext r
    show (m.storeLines s h id es r).flatMap _ = _
    simp only [TmoveCmd.storeLines, TmoveCmd.rowOf_flatMap, writeLines_cells]

theorem TmoveCmd.lines_own : ∀ q ∈ m.lines store s h id es,
    q.job = id ∧ q.unit = .tile ∧ q.entry = es[q.tag % 2]? ∧ q.wr.isSome = store := by
  have even (r : Nat) : 2 * r % 2 = 0 := by omega
  have odd (r : Nat) : (2 * r + 1) % 2 = 1 := by omega
  intro q mem
  obtain ⟨r, -, mem⟩ := List.mem_flatMap.mp mem
  cases store
  · change q ∈ m.loadLines id es r at mem
    refine TmoveCmd.forall_rowOf (P := fun q => q.job = id ∧ q.unit = .tile ∧ q.entry = es[q.tag % 2]? ∧ q.wr.isSome = _)
      (fun q line => ?_) (fun i q line => ?_) q mem
    · obtain ⟨own, tag, unit, entry, wr⟩ := mem_readLines line
      exact ⟨own, unit, by rw [tag, even, entry], by rw [wr]; rfl⟩
    · obtain ⟨own, tag, unit, entry, wr⟩ := mem_readLines line
      exact ⟨own, unit, by rw [tag, odd, entry], by rw [wr]; rfl⟩
  · change q ∈ m.storeLines s h id es r at mem
    refine TmoveCmd.forall_rowOf (P := fun q => q.job = id ∧ q.unit = .tile ∧ q.entry = es[q.tag % 2]? ∧ q.wr.isSome = _)
      (fun q line => ?_) (fun i q line => ?_) q mem
    · obtain ⟨own, tag, unit, entry, wr⟩ := mem_writeLines line
      exact ⟨own, unit, by rw [tag, even, entry], wr⟩
    · obtain ⟨own, tag, unit, entry, wr⟩ := mem_writeLines line
      exact ⟨own, unit, by rw [tag, odd, entry], wr⟩

end

/-! ### A move that starts -/

/-- A job that was the last one still is, with more to wait for. -/
theorem State.Asks.lastJob {s t : State} {job : Nat} {lines : List LineReq} (h : s.Asks t job lines) {j : Job}
    (last : s.jobs.getLast? = some j) : ∃ left, t.jobs.getLast? = some { j with left := left } := by
  obtain ⟨new, rfl, -⟩ := h
  rw [State.requesting, List.getLast?_map, last]
  by_cases own : j.id = job
  · exact ⟨j.left + new.length, congrArg some (if_pos own)⟩
  · exact ⟨j.left, congrArg some (if_neg own)⟩

/-- The requests of a started TLD or TST. -/
theorem asks_move (store : Bool) (id : Nat) (m : TmoveCmd) (h : TileShape) (es : List Nat) (s : State) :
    s.Asks (if store then issueStore id m h es s else issueLoad id m es s) id
      (m.lines store s h id es) := by
  cases store
  · exact asks_issueLoad id m es s
  · exact asks_issueStore id m h es s

theorem startMove_of_go {s : State} {e : QEntry} {h : TileShape} (store : Bool) (opcode : cOpc e.raw = if store then 5 else 4)
    (unused : (if store then s.loadLate (tmoveOf e.raw).t else s.opxUses (tmoveOf e.raw).t e.seq) = false)
    (may : e.entries.length = e.operands.length ∨ canTake s e.operands = true)
    (shape : s.shapeOf (tmoveOf e.raw).t = some h) (legal : moveBad s (tmoveOf e.raw) = false) :
    startMove e s =
      let r := takeAtStart .tile e.operands e.entries (popQueue 2 s)
      let j := addJob (if store then .tst e else .tld e) r.1 e.seq (some e.thread) (cSig e.raw) r.2
      if store then issueStore j.1 (tmoveOf e.raw) h r.1 j.2 else issueLoad j.1 (tmoveOf e.raw) r.1 j.2 := by
  have wait : ¬((if store then s.loadLate (tmoveOf e.raw).t else s.opxUses (tmoveOf e.raw).t e.seq) ||
      (e.entries.length ≠ e.operands.length && !canTake s e.operands)) = true := by
    rw [unused]
    rcases may with had | room
    · simp [had]
    · simp [room]
  have code : cOpc e.raw = 5 ↔ store = true := by cases store <;> simp [opcode]
  have shape' : (popQueue 2 s).shapeOf (tmoveOf e.raw).t = some h := shape
  have legal' : moveBad (popQueue 2 s) (tmoveOf e.raw) = false := legal
  unfold startMove
  simp only [code]
  rw [if_neg wait, shape']
  dsimp only
  rw [if_neg (by simp [legal'])]

/-- What a started move asks, in a state that differs from `s` in what taking entries changes. -/
theorem startMove_asks {s : State} {e : QEntry} {h : TileShape} (store : Bool) :
    let u := takeAtStart .tile e.operands e.entries (popQueue 2 s)
    let j := addJob (if store then .tst e else .tld e) u.1 e.seq (some e.thread) (cSig e.raw) u.2
    j.2.Asks (if store then issueStore j.1 (tmoveOf e.raw) h u.1 j.2 else issueLoad j.1 (tmoveOf e.raw) u.1 j.2) u.2.nextId
      ((tmoveOf e.raw).lines store s h u.2.nextId u.1) := by
  intro u j
  have tile : j.2.tile = s.tile :=
    KeptByTaking.takeAtStart (π := State.tile) (fun _ _ _ _ _ => rfl) .tile e.operands e.entries (popQueue 2 s)
  have same : (tmoveOf e.raw).lines store j.2 h u.2.nextId u.1 = (tmoveOf e.raw).lines store s h u.2.nextId u.1 := by
    simp only [TmoveCmd.lines, TmoveCmd.storeLines, tileByte, tile]
  rw [← same]
  exact asks_move ..

theorem tileMovesStart : Claims.TileMovesStart := by
  intro s e h store m ops u ready unused may shape legal
  have opcode := ready.2.1
  have asks := startMove_asks (s := s) (e := e) (h := h) store
  dsimp only at asks
  generalize requested : (if store then issueStore _ _ _ _ _ else issueLoad _ _ _ _) = t at asks
  obtain ⟨new, reqs, unnumbered⟩ := asks.reqs
  obtain ⟨left, last⟩ := asks.lastJob List.getLast?_concat
  refine ⟨t, ?_, ⟨new, ?_, ?_, ?_, ?_⟩, ⟨_, last, rfl, rfl, rfl, rfl⟩, ?_⟩
  · have starts := (tileStart_of_ready ready startMove).trans (startMove_of_go store opcode unused may shape legal)
    cases store
    · exact congrArg Host.Outcome.next (starts.trans requested)
    · exact congrArg Host.Outcome.next (starts.trans requested)
  · exact reqs.trans (congrArg (· ++ new)
      (KeptByTaking.takeAtStart (π := State.reqs) (fun _ _ _ _ _ => rfl) .tile e.operands e.entries (popQueue 2 s)))
  · exact (map_unnumbered unnumbered fun _ => rfl).trans (TmoveCmd.lines_pieces ..)
  · exact forall_unnumbered unnumbered (TmoveCmd.lines_own store m s h _ _) fun _ own => own
  · exact (flatMap_unnumbered unnumbered fun _ => rfl).trans (TmoveCmd.lines_cells ..)
  · exact asks.frame

/-! ### A line that lands -/

/-- `π` speaks of nothing that the end of a TLD or TST changes: entries, slots, jobs, the times of the tile registers, sync
objects and their waiters. -/
def KeptByMoveEnds {α : Type} (π : State → α) : Prop :=
  ∀ (s : State) (range : List RangeEntry) (land : Land) (jobs : List Job) (regs : Vector TileReg 16) (sync : Sync)
    (threads : Vector Thread 16),
    π { s with range := range, land := land, jobs := jobs, tile := { s.tile with regs := regs }, sync := sync,
               ush := { s.ush with threads := threads } } = π s

section

variable {α : Type} {π : State → α} (kept : KeptByMoveEnds π)
include kept

theorem KeptByMoveEnds.release (id : Nat) (ok : Bool) (s : State) : π (release id ok s) = π s := by
  unfold Machine.release
  split
  · rfl
  · dsimp only
    split <;> exact kept s _ _ s.jobs s.tile.regs s.sync s.ush.threads

theorem KeptByMoveEnds.releaseAll (ids : List Nat) (ok : Bool) (s : State) : π (releaseAll ids ok s) = π s :=
  List.foldlRecOn ids _ (motive := fun b => π b = π s) rfl fun b hb i _ => (kept.release i ok b).trans hb

theorem KeptByMoveEnds.dropJob (id : Nat) (s : State) : π (dropJob id s) = π s :=
  kept s s.range s.land _ s.tile.regs s.sync s.ush.threads

theorem KeptByMoveEnds.signalOpt (sig : Option (BitVec 13)) (s : State) : π (signalOpt sig s) = π s := by
  cases sig
  · rfl
  · exact kept s s.range s.land s.jobs s.tile.regs _ _

theorem KeptByMoveEnds.retireMove (e : QEntry) (s : State) : π (retireMove e s) = π s := by
  simp only [Machine.retireMove]
  split <;> exact kept s s.range s.land s.jobs _ s.sync s.ush.threads

theorem KeptByMoveEnds.reapMove (id : Nat) (s : State) : π (reapMove id s) = π s := by
  unfold Machine.reapMove
  (repeat' split) <;> simp only [kept.retireMove, kept.dropJob, kept.releaseAll]

theorem KeptByMoveEnds.finishMove (id : Nat) (s : State) : π (finishMove id s) = π s := by
  unfold Machine.finishMove
  (repeat' split) <;> simp only [kept.reapMove, kept.retireMove, kept.signalOpt, kept.dropJob, kept.releaseAll]

end

/-- `s` once line `x` of register `t`, of shape `h`, stands in bank `b`. -/
def State.lineLanded (s : State) (x : LandLine) (t : Fin 16) (h : TileShape) (b : Nat) : State :=
  { s with tile := { s.tile with
      words := s.tile.words.fill (h.place t x.line) 64 fun i => x.bytes.getD i 0,
      landbuf := s.tile.landbuf.erase x,
      loaded := s.tile.loaded + 1,
      landed := (b, t, x.line) :: s.tile.landed } }

theorem landLine_of_lands {s : State} {b : Nat} {x : LandLine} {t : Fin 16} {h : TileShape}
    (first : s.tile.landbuf.find? (fun y => (s.landsIn y b).isSome) = some x) (lands : s.landsIn x b = some (t, h))
    (clocked : s.clocked = true) (unlanded : ∀ g ∈ s.tile.landed, g.1 ≠ b) (unread : b ∉ s.tile.read)
    (free : b ∉ s.collectorBanks) : landLine b s = finishMove x.job (s.lineLanded x t h b) := by
  have goes : ¬(!s.clocked || s.tile.landed.any (fun g => g.1 == b) || s.tile.read.contains b ||
      s.collectorBanks.contains b) = true := by
    have other : s.tile.landed.any (fun g => g.1 == b) = false :=
      List.any_eq_false.mpr fun g mem => by simpa using unlanded g mem
    simp [clocked, other, unread, free]
  unfold landLine
  rw [if_neg goes, first]
  dsimp only
  rw [lands]
  rfl

theorem bank_of_landsIn {s : State} {x : LandLine} {b : Nat} {t : Fin 16} {h : TileShape}
    (lands : s.landsIn x b = some (t, h)) : h.bank x.line = b := by
  unfold State.landsIn at lands
  split at lands
  · cases lands
  · split at lands
    · split at lands
      case isTrue fits =>
        cases lands
        exact fits.1
      case isFalse => cases lands
    · cases lands

theorem tileLineLands : Claims.TileLineLands := by
  intro b s x h t first lands clocked unlanded unread free
  refine ⟨_, congrArg Host.Outcome.next (landLine_of_lands first lands clocked unlanded unread free), bank_of_landsIn lands,
    fun i less => ?_, ?_, ?_, ?_, ?_, ?_, ?_⟩
  · rw [KeptByMoveEnds.finishMove (π := fun s => s.tile.words) fun _ _ _ _ _ _ _ => rfl]
    exact fill_get _ _ less
  · exact KeptByMoveEnds.finishMove (π := fun s => s.tile.words) (fun _ _ _ _ _ _ _ => rfl) ..
  · exact KeptByMoveEnds.finishMove (π := fun s => s.tile.landbuf) (fun _ _ _ _ _ _ _ => rfl) ..
  · exact KeptByMoveEnds.finishMove (π := fun s => s.tile.landed) (fun _ _ _ _ _ _ _ => rfl) ..
  · exact KeptByMoveEnds.finishMove (π := fun s => s.tile.loaded) (fun _ _ _ _ _ _ _ => rfl) ..
  · exact KeptByMoveEnds.finishMove (π := State.mem) (fun _ _ _ _ _ _ _ => rfl) ..
  · exact KeptByMoveEnds.finishMove (π := State.reqs) (fun _ _ _ _ _ _ _ => rfl) ..

end Sys2Proof.Machine

namespace Sys2Proof
open Sys2Proof.Machine

/-- Settles O18. -/
theorem tileMoves : Obligations.TileMoves := ⟨tileMovesStart, tileLineLands⟩

end Sys2Proof


/-! ## The stores of the vector engine -/

namespace Sys2Proof.Machine

/-! ### What taking entries comes to -/

/-- `s` once entries have been taken: the range table and its high mark, the numbers given and the slots may differ. -/
def State.taken (s : State) (range : List RangeEntry) (nextId : Nat) (high : BitVec 7) (land : Land) : State :=
  { s with range := range, nextId := nextId, ush := { s.ush with rangeHigh := high }, land := land }

theorem takeAtStart_taken (unit : MemUnit) (ops : List (Nat × Nat × Bool)) (had : List Nat) (s : State) :
    ∃ range nextId high land, (takeAtStart unit ops had s).2 = s.taken range nextId high land :=
  ⟨_, _, _, _, KeptByTaking.takeAtStart (π := fun t => t.taken (takeAtStart unit ops had s).2.range
    (takeAtStart unit ops had s).2.nextId (takeAtStart unit ops had s).2.ush.rangeHigh (takeAtStart unit ops had s).2.land)
    (fun _ _ _ _ _ => rfl) unit ops had s⟩

/-! ### The lanes of a pass -/

theorem passLanes_eq (b : Build) (vl p : Nat) : passLanes b vl p = Claims.lanesOf b vl p := by
  have wide : 0 < b.vlen := by unfold Build.vlen; positivity
  refine List.Pairwise.eq_of_mem_iff (r := (· < ·)) ?_ (List.pairwise_lt_range.filter _) fun n => ?_
  · exact List.pairwise_map.mpr (List.pairwise_lt_range.imp fun less => by omega)
  · have slice : n / b.vlen = p ↔ p * b.vlen ≤ n ∧ n < p * b.vlen + b.vlen := by
      rw [Nat.div_eq_iff wide]
      omega
    simp only [passLanes, Claims.lanesOf, List.mem_map, List.mem_filter, List.mem_range, beq_iff_eq, slice]
    constructor
    · rintro ⟨k, less, rfl⟩
      omega
    · intro inside
      exact ⟨n - p * b.vlen, by omega, by omega⟩

/-- The lanes of a pass follow one another from the pass's first. -/
theorem passLanes_headD (b : Build) (vl p : Nat) (some_lane : passLanes b vl p ≠ []) :
    (passLanes b vl p).headD 0 = p * b.vlen := by
  unfold passLanes at some_lane ⊢
  cases count : min b.vlen (vl - p * b.vlen) with
  | zero => simp [count] at some_lane
  | succ n => simp [List.range_succ_eq_map]

/-! ### Cells requested line by line -/

/-- The cells of a rising list between two addresses, in two parts. -/
theorem filter_cells_split {cs : List Host.Cell} (rise : cs.Pairwise fun x y => x.1 ≤ y.1) (a m n : Nat) :
    cs.filter (fun c => a ≤ c.1 && c.1 < a + m) ++ cs.filter (fun c => a + m ≤ c.1 && c.1 < a + m + n) =
      cs.filter (fun c => a ≤ c.1 && c.1 < a + m + n) := by
  induction cs with
  | nil => rfl
  | cons c cs ih =>
    obtain ⟨least, rise⟩ := List.pairwise_cons.mp rise
    by_cases first : c.1 < a + m
    · by_cases reached : a ≤ c.1
      · have before : ¬a + m ≤ c.1 := by omega
        have inside : c.1 < a + m + n := by omega
        simpa [first, reached, before, inside] using ih rise
      · have before : ¬a + m ≤ c.1 := by omega
        simpa [reached, before] using ih rise
    · have none (d : Host.Cell) (mem : d ∈ c :: cs) : ¬(a ≤ d.1 && d.1 < a + m) = true := by
        have above : c.1 ≤ d.1 := (List.mem_cons.mp mem).elim (fun same => by rw [same]) (least d)
        simp
        omega
      rw [List.filter_eq_nil_iff.mpr none, List.nil_append]
      refine List.filter_congr fun d mem => ?_
      have above : c.1 ≤ d.1 := (List.mem_cons.mp mem).elim (fun same => by rw [same]) (least d)
      have reached : a ≤ d.1 := by omega
      have past : a + m ≤ d.1 := by omega
      simp [reached, past]

theorem lineChunksAux_filter {cs : List Host.Cell} (rise : cs.Pairwise fun x y => x.1 ≤ y.1) (fuel a n : Nat)
    (enough : n = 0 ∨ a % 128 + n ≤ 128 * fuel) :
    (lineChunksAux fuel a n).flatMap (fun p => cs.filter fun c => p.1 ≤ c.1 && c.1 < p.1 + p.2) =
      cs.filter fun c => a ≤ c.1 && c.1 < a + n := by
  have nothing (a : Nat) : cs.filter (fun c => a ≤ c.1 && c.1 < a + 0) = [] :=
    List.filter_eq_nil_iff.mpr fun c _ => by simp
  induction fuel generalizing a n with
  | zero =>
    obtain rfl : n = 0 := by omega
    exact (nothing a).symm
  | succ fuel ih =>
    rw [lineChunksAux]
    split
    case isTrue zero =>
      rw [zero, nothing]
      rfl
    case isFalse some =>
      have fits : min n (128 - a % 128) ≤ n := Nat.min_le_left ..
      have split := filter_cells_split rise a (min n (128 - a % 128)) (n - min n (128 - a % 128))
      rw [List.flatMap_cons, ih _ _ (by omega)]
      rw [Nat.add_assoc, Nat.add_sub_cancel' fits] at split
      rw [Nat.add_assoc, Nat.add_sub_cancel' fits]
      exact split

/-- The requests of the cells `cs`, one for each line that holds any. -/
def cellLines (job tag : Nat) (entry : Option Nat) (lo n : Nat) (cs : List Host.Cell) : List LineReq :=
  (lineChunks lo n).flatMap fun p => match cs.filter (fun c => p.1 ≤ c.1 && c.1 < p.1 + p.2) with
    | [] => []
    | w => [⟨0, job, tag, rankOf .vec, .vec, entry, p.1, p.2, some w⟩]

theorem asks_addReq (job tag rank : Nat) (unit : MemUnit) (entry : Option Nat) (addr len : Nat) (wr : Option (List Host.Cell))
    (s : State) :
    s.Asks (addReq job tag rank unit entry addr len wr s) job [⟨0, job, tag, rank, unit, entry, addr, len, wr⟩] :=
  asks_addReqs job tag rank unit entry (fun _ => wr) [(addr, len)] s

theorem asks_addCells (job tag : Nat) (entry : Option Nat) (lo n : Nat) (cs : List Host.Cell) (s : State) :
    s.Asks (addCells job tag entry lo n cs s) job (cellLines job tag entry lo n cs) := by
  refine asks_foldl (.refl s job) (fun u _ _ p => ?_) (lineChunks lo n)
  cases cs.filter (fun c => p.1 ≤ c.1 && c.1 < p.1 + p.2) with
  | nil => exact .refl u job
  | cons c w => exact asks_addReq ..

theorem cellLines_cells {job tag : Nat} {entry : Option Nat} {lo n : Nat} {cs : List Host.Cell}
    (rise : cs.Pairwise fun x y => x.1 ≤ y.1) (inside : ∀ c ∈ cs, lo ≤ c.1 ∧ c.1 < lo + n) :
    (cellLines job tag entry lo n cs).flatMap (fun q => q.wr.getD []) = cs := by
  have chunks := lineChunksAux_filter rise (n / 128 + 2) lo n (by omega)
  rw [List.filter_eq_self.mpr fun c mem => by simpa using inside c mem] at chunks
  refine Eq.trans ?_ chunks
  rw [cellLines, List.flatMap_assoc]
  refine List.flatMap_congr fun p _ => ?_
  cases cs.filter (fun c => p.1 ≤ c.1 && c.1 < p.1 + p.2) <;> simp

theorem mem_cellLines {job tag : Nat} {entry : Option Nat} {lo n : Nat} {cs : List Host.Cell} {q : LineReq}
    (mem : q ∈ cellLines job tag entry lo n cs) :
    q.job = job ∧ q.tag = tag ∧ q.unit = .vec ∧ q.entry = entry ∧ q.wr.isSome = true := by
  obtain ⟨p, -, mem⟩ := List.mem_flatMap.mp mem
  revert mem
  cases cs.filter (fun c => p.1 ≤ c.1 && c.1 < p.1 + p.2) with
  | nil => exact fun mem => absurd mem List.not_mem_nil
  | cons c w =>
    intro mem
    obtain rfl := List.mem_singleton.mp mem
    exact ⟨rfl, rfl, rfl, rfl, rfl⟩

/-! ### Where the cells of a store lie -/

/-- Cells at some of the `n` addresses from `lo`, lowest first. -/
theorem sparse_cells {lo n : Nat} (f : Nat → Option (BitVec 8)) :
    let cs : List Host.Cell := (List.range n).filterMap fun k => (f k).map fun x => (lo + k, x)
    cs.Pairwise (fun x y => x.1 ≤ y.1) ∧ ∀ c ∈ cs, lo ≤ c.1 ∧ c.1 < lo + n := by
  have place {k : Nat} {c : Host.Cell} (h : (f k).map (fun x => (lo + k, x)) = some c) : c.1 = lo + k := by
    obtain ⟨x, -, rfl⟩ := Option.map_eq_some_iff.mp h
    rfl
  refine ⟨List.pairwise_filterMap.mpr (List.pairwise_lt_range.imp fun less x hx y hy => ?_), fun c mem => ?_⟩
  · rw [place hx, place hy]
    omega
  · obtain ⟨k, inside, hk⟩ := List.mem_filterMap.mp mem
    rw [place hk]
    have := List.mem_range.mp inside
    omega

theorem cellsAt_rise (a : Nat) (bs : List (BitVec 8)) : (cellsAt a bs).Pairwise fun x y => x.1 ≤ y.1 := by
  refine List.pairwise_iff_getElem.mpr fun i j hi hj less => ?_
  simp only [cellsAt, List.getElem_mapIdx]
  omega

/-- Elements of `b` bytes of rising lanes, each at its lane's place. -/
theorem element_cells {base b lo n : Nat} {lanes : List Nat} (rise : lanes.Pairwise (· < ·))
    (inside : ∀ i ∈ lanes, lo ≤ i ∧ i < lo + n) {bytes : Nat → List (BitVec 8)} (length : ∀ i, (bytes i).length = b) :
    let cs := lanes.flatMap fun i => cellsAt (base + i * b) (bytes i)
    cs.Pairwise (fun x y => x.1 ≤ y.1) ∧ ∀ c ∈ cs, base + lo * b ≤ c.1 ∧ c.1 < base + lo * b + n * b := by
  refine ⟨List.pairwise_flatMap.mpr ⟨fun i _ => cellsAt_rise .., rise.imp fun {i j} less x hx y hy => ?_⟩, fun c mem => ?_⟩
  · have last := mem_cellsAt hx
    have first := mem_cellsAt hy
    have apart : (i + 1) * b ≤ j * b := Nat.mul_le_mul_right b less
    rw [length] at last
    rw [Nat.add_mul] at apart
    omega
  · obtain ⟨i, mem, own⟩ := List.mem_flatMap.mp mem
    have at_ := mem_cellsAt own
    have above : lo * b ≤ i * b := Nat.mul_le_mul_right b (inside i mem).1
    have below : (i + 1) * b ≤ (lo + n) * b := Nat.mul_le_mul_right b (inside i mem).2
    rw [length] at at_
    rw [Nat.add_mul, Nat.add_mul lo] at below
    omega

/-- Of 32 × `n` lanes from the first of block `q`, those that begin a block. -/
theorem blocksOf_range (q n : Nat) :
    blocksOf ((List.range (32 * n)).map (32 * q + ·)) = (List.range n).map (q + ·) := by
  induction n with
  | zero => rfl
  | succ n ih =>
    have block : ((List.range 32).map (32 * q + 32 * n + ·)).filter (fun i => i % 32 == 0) = [32 * q + 32 * n] := by
      rw [List.filter_map, show ((fun i => i % 32 == 0) ∘ fun x => 32 * q + 32 * n + x) = fun x => x % 32 == 0 from
        funext fun x => by simp [Nat.add_mod]]
      rfl
    unfold blocksOf at ih ⊢
    rw [Nat.mul_succ, List.range_add, List.map_append, List.filter_append, List.map_append, ih, List.map_map,
      show ((32 * q + ·) ∘ (32 * n + ·)) = fun x => 32 * q + 32 * n + x from funext fun x => (Nat.add_assoc ..).symm, block,
      List.range_succ, List.map_append]
    exact congrArg (_ ++ [·]) (show (32 * q + 32 * n) / 32 = q + n by omega)

theorem blocksOf_passLanes {b : Build} {vl : Nat} (blocks : 32 ∣ vl) (p : Nat) :
    let l := passLanes b vl p
    blocksOf l = (List.range (l.length / 32)).map (l.headD 0 / 32 + ·) := by
  intro l
  obtain ⟨v, hv⟩ : 32 ∣ b.vlen := ⟨16 * 2 ^ b.lanes.val, by unfold Build.vlen; omega⟩
  obtain ⟨n, hn⟩ : 32 ∣ min b.vlen (vl - p * b.vlen) := by
    have rest : 32 ∣ vl - p * b.vlen := Nat.dvd_sub blocks (Dvd.dvd.mul_left ⟨v, hv⟩ p)
    rcases min_choice b.vlen (vl - p * b.vlen) with h | h
    · rw [h]
      exact ⟨v, hv⟩
    · rw [h]
      exact rest
  have lanes : l = (List.range (32 * n)).map (32 * (p * v) + ·) := by
    show passLanes b vl p = _
    rw [passLanes, hn, hv, Nat.mul_left_comm]
  rw [lanes, blocksOf_range, List.length_map, List.length_range, Nat.mul_div_cancel_left _ (by decide)]
  cases n with
  | zero => rfl
  | succ n => simp [Nat.mul_succ, List.range_succ_eq_map]

/-! ### The requests of a store's pass -/

/-- The bytes a VST or VSTX stores for lane `i`. -/
def storeBytes (s : State) (e : QEntry) (i : Nat) : List (BitVec 8) :=
  leBytes (storeBits s e i) (mfmtBits (vmFmt e.raw) / 8)

/-- Of the active lanes of `lanes`, those whose index no higher one has (R161). -/
def scatterLanes (s : State) (c : Cmd) (lanes : List Nat) : List Nat :=
  let ix (i : Nat) : Nat := (s.lane (cVa c) i).toNat
  let act := lanes.filter fun i => s.active c i && ix i < vmWindow c
  act.filter fun i => !(act.any fun k => i < k && ix k == ix i)

/-- The data cells and the scale cells of a VST.MX's pass (R160). -/
def mxCells (s : State) (e : QEntry) (lanes : List Nat) : List Host.Cell :=
  let o := lanes.headD 0 * fmtBits (vmFmt e.raw) / 8
  (List.range (lanes.length * fmtBits (vmFmt e.raw) / 8)).filterMap fun k =>
    (mxByte s e (o + k)).map fun x => (vmBase e.raw + o + k, x)
def mxScaleCells (s : State) (c : Cmd) (lanes : List Nat) : List Host.Cell :=
  (blocksOf lanes).filterMap fun k => (mxScaleByte s c k).map fun x => (vmSbase c + k, x)

/-- The cells of a VST's pass. -/
def vstCells (s : State) (e : QEntry) (lanes : List Nat) : List Host.Cell :=
  (lanes.filter fun i => s.active e.raw i).flatMap fun i =>
    cellsAt (vmBase e.raw + i * (mfmtBits (vmFmt e.raw) / 8)) (storeBytes s e i)

/-- What pass `p` over `lanes` of a VSTX, of a VST.MX and of a VST requests, job `id`. -/
def vstxLines (s : State) (e : QEntry) (id p : Nat) (es : List Nat) (lanes : List Nat) : List LineReq :=
  (scatterLanes s e.raw lanes).flatMap fun i => writeLines id (2 * p) .vec es[0]?
    (vmBase e.raw + (s.lane (cVa e.raw) i).toNat * (mfmtBits (vmFmt e.raw) / 8)) (storeBytes s e i)
def vstMxLines (s : State) (e : QEntry) (id p : Nat) (es : List Nat) (lanes : List Nat) : List LineReq :=
  let b := fmtBits (vmFmt e.raw)
  cellLines id (2 * p) es[0]? (vmBase e.raw + lanes.headD 0 * b / 8) (lanes.length * b / 8) (mxCells s e lanes) ++
    cellLines id (2 * p + 1) es[1]? (vmSbase e.raw + lanes.headD 0 / 32) (blocksOf lanes).length (mxScaleCells s e.raw lanes)
def vstLines (s : State) (e : QEntry) (id p : Nat) (es : List Nat) (lanes : List Nat) : List LineReq :=
  let b := mfmtBits (vmFmt e.raw) / 8
  cellLines id (2 * p) es[0]? (vmBase e.raw + lanes.headD 0 * b) (lanes.length * b) (vstCells s e lanes)

/-- What pass `p` over `lanes` of store `id` requests. -/
def storeLines (s : State) (e : QEntry) (id p : Nat) (es : List Nat) (lanes : List Nat) : List LineReq :=
  if cOpc e.raw = 0x19 then vstxLines s e id p es lanes
  else if cOpc e.raw = 0x17 then vstMxLines s e id p es lanes
  else vstLines s e id p es lanes

theorem asks_storeReqs (e : QEntry) (id p : Nat) (es lanes : List Nat) (s : State) :
    s.Asks (storeReqs e id p es lanes s) id (storeLines s e id p es lanes) := by
  unfold storeReqs
  dsimp only
  split
  case h_1 opcode =>
    rw [storeLines, if_pos opcode]
    refine asks_foldl (.refl s id) (fun u _ _ i => ?_) (scatterLanes s e.raw lanes)
    exact asks_addWrite ..
  case h_2 opcode =>
    rw [storeLines, if_neg (by rw [opcode]; decide), if_pos opcode]
    exact (asks_addCells ..).trans (asks_addCells ..)
  case h_3 unindexed plain =>
    rw [storeLines, if_neg unindexed, if_neg plain]
    exact asks_addCells ..

/-- The requests of a pass depend on the registers and on memory alone. -/
theorem storeLines_congr {s t : State} (v : t.vec.v = s.vec.v) (k : t.vec.k = s.vec.k) (mem : t.mem = s.mem) (e : QEntry)
    (id p : Nat) (es lanes : List Nat) : storeLines t e id p es lanes = storeLines s e id p es lanes := by
  have lane : t.lane = s.lane := by
    funext r i
    rw [State.lane, v, State.lane]
  have active : t.active = s.active := by
    funext c i
    rw [State.active, State.mask, k, State.active, State.mask]
  have byte : memByte t = memByte s := by
    funext a
    rw [memByte, mem, memByte]
  have scale : mxScaleByte t = mxScaleByte s := by
    funext c b
    simp only [mxScaleByte, active, lane]
  have element : mxLane t = mxLane s := by
    funext e i
    simp only [mxLane, active, lane]
  have merged : mxByte t = mxByte s := by
    funext e o
    simp only [mxByte, element, byte]
  simp only [storeLines, vstxLines, vstMxLines, vstLines, scatterLanes, mxCells, mxScaleCells, vstCells, storeBytes, storeBits,
    lane, active, scale, merged]

/-- A request of a store's pass. -/
theorem mem_storeLines {s : State} {e : QEntry} {id p : Nat} {es lanes : List Nat} {q : LineReq}
    (mem : q ∈ storeLines s e id p es lanes) :
    q.job = id ∧ q.unit = .vec ∧ q.wr.isSome = true ∧ q.entry = es[q.tag % 2]? := by
  have even : 2 * p % 2 = 0 := by omega
  have odd : (2 * p + 1) % 2 = 1 := by omega
  have data {lo n : Nat} {cs : List Host.Cell} (mem : q ∈ cellLines id (2 * p) es[0]? lo n cs) :
      q.job = id ∧ q.unit = .vec ∧ q.wr.isSome = true ∧ q.entry = es[q.tag % 2]? := by
    obtain ⟨own, tag, unit, entry, wr⟩ := mem_cellLines mem
    exact ⟨own, unit, wr, by rw [tag, even, entry]⟩
  unfold storeLines at mem
  split at mem
  · obtain ⟨i, -, mem⟩ := List.mem_flatMap.mp mem
    obtain ⟨own, tag, unit, entry, wr⟩ := mem_writeLines mem
    exact ⟨own, unit, wr, by rw [tag, even, entry]⟩
  · split at mem
    · refine (List.mem_append.mp mem).elim data fun mem => ?_
      obtain ⟨own, tag, unit, entry, wr⟩ := mem_cellLines mem
      exact ⟨own, unit, wr, by rw [tag, odd, entry]⟩
    · exact data mem

/-! ### What a pass stores -/

theorem vstxLines_cells (s : State) (e : QEntry) (id p : Nat) (es lanes : List Nat) :
    (vstxLines s e id p es lanes).flatMap (fun q => q.wr.getD []) = (scatterLanes s e.raw lanes).flatMap fun i =>
      cellsAt (vmBase e.raw + (s.lane (cVa e.raw) i).toNat * (mfmtBits (vmFmt e.raw) / 8)) (storeBytes s e i) := by
  rw [vstxLines, List.flatMap_assoc]
  exact List.flatMap_congr fun i _ => writeLines_cells ..

/-- The scale cells of a pass of whole blocks. -/
theorem mxScaleCells_eq {vl : Nat} (blocks : 32 ∣ vl) (s : State) (c : Cmd) (b : Build) (p : Nat) :
    let l := passLanes b vl p
    mxScaleCells s c l = (List.range (l.length / 32)).filterMap fun k =>
      (mxScaleByte s c (l.headD 0 / 32 + k)).map fun x => (vmSbase c + l.headD 0 / 32 + k, x) := by
  intro l
  rw [mxScaleCells, blocksOf_passLanes blocks, List.filterMap_map]
  exact List.filterMap_congr fun k _ => by simp only [Function.comp_apply, Nat.add_assoc]; rfl

theorem vstMxLines_cells {e : QEntry} (blocks : 32 ∣ e.vl) (s : State) (b : Build) (id p : Nat) (es : List Nat) :
    let l := passLanes b e.vl p
    (vstMxLines s e id p es l).flatMap (fun q => q.wr.getD []) = mxCells s e l ++ mxScaleCells s e.raw l := by
  intro l
  have data := sparse_cells (lo := vmBase e.raw + l.headD 0 * fmtBits (vmFmt e.raw) / 8)
    (n := l.length * fmtBits (vmFmt e.raw) / 8) fun k => mxByte s e (l.headD 0 * fmtBits (vmFmt e.raw) / 8 + k)
  have scales := sparse_cells (lo := vmSbase e.raw + l.headD 0 / 32) (n := l.length / 32)
    fun k => mxScaleByte s e.raw (l.headD 0 / 32 + k)
  have count : (blocksOf l).length = l.length / 32 := by
    rw [blocksOf_passLanes blocks, List.length_map, List.length_range]
  rw [vstMxLines, List.flatMap_append, count, mxScaleCells_eq blocks]
  exact congr (congrArg _ (cellLines_cells data.1 data.2)) (cellLines_cells scales.1 scales.2)

theorem vstLines_cells (s : State) (e : QEntry) (b : Build) (id p : Nat) (es : List Nat) :
    (vstLines s e id p es (passLanes b e.vl p)).flatMap (fun q => q.wr.getD []) = vstCells s e (passLanes b e.vl p) := by
  have order : (passLanes b e.vl p).Pairwise (· < ·) :=
    List.pairwise_map.mpr (List.pairwise_lt_range.imp fun less => Nat.add_lt_add_left less _)
  have inside : ∀ i ∈ (passLanes b e.vl p).filter (fun i => s.active e.raw i),
      (passLanes b e.vl p).headD 0 ≤ i ∧ i < (passLanes b e.vl p).headD 0 + (passLanes b e.vl p).length := by
    intro i mem
    have lane := (List.mem_filter.mp mem).1
    rw [passLanes_headD b e.vl p (List.ne_nil_of_mem lane)]
    obtain ⟨k, less, rfl⟩ := List.mem_map.mp lane
    have := List.mem_range.mp less
    simp only [passLanes, List.length_map, List.length_range]
    omega
  have elements := element_cells (base := vmBase e.raw) (order.filter _) inside
    (b := mfmtBits (vmFmt e.raw) / 8) (bytes := storeBytes s e) fun i => leBytes_length ..
  exact cellLines_cells elements.1 elements.2

/-! ### A store that starts, and its later passes -/

/-- Every lane of a scatter has its index inside the window. -/
def storeInside (s : State) (e : QEntry) : Prop :=
  cOpc e.raw = 0x19 → ∀ n < e.vl, (s.lane (cVa e.raw) n).toNat < vmWindow e.raw

theorem oobLane_of_inside {s : State} {e : QEntry} (inside : storeInside s e) (opcode : cOpc e.raw = 0x19) {n : Nat}
    (lane : n < e.vl) : oobLane s e n = false := by
  unfold oobLane
  dsimp only
  rw [opcode]
  exact decide_eq_false (Nat.not_le.mpr (inside opcode n lane))

theorem passLanes_less {b : Build} {vl p n : Nat} (mem : n ∈ passLanes b vl p) : n < vl := by
  rw [passLanes_eq] at mem
  exact List.mem_range.mp (List.mem_filter.mp mem).1

theorem countOob_of_inside {s : State} {e : QEntry} (inside : storeInside s e) (opcode : cOpc e.raw = 0x19) (p : Nat) :
    countOob e (passLanes s.build e.vl p) s = s := by
  have none : (passLanes s.build e.vl p).filter (fun i => s.active e.raw i && oobLane s e i) = [] :=
    List.filter_eq_nil_iff.mpr fun n mem => by rw [oobLane_of_inside inside opcode (passLanes_less mem), Bool.and_false]; decide
  unfold countOob
  exact if_pos (by rw [none]; rfl)

/-- A pass of a store issues. -/
theorem issueMem_of_store {s : State} {r : VRun} (write : r.unit = .write) (inside : storeInside s r.e)
    (kind : cOpc r.e.raw ≠ 0x18) (id : Nat) (es : List Nat) :
    issueMem id es r s = ({ r with issued := r.issued ++ [s.now] },
      storeReqs r.e id r.issued.length es (passLanes s.build r.e.vl r.issued.length) (countPass r.e s)) := by
  have counted : (if (cOpc r.e.raw == 0x18 || cOpc r.e.raw == 0x19) && !(countPass r.e s).clu.live
      then countOob r.e (passLanes s.build r.e.vl r.issued.length) (countPass r.e s) else countPass r.e s) = countPass r.e s := by
    split
    case isTrue gather =>
      have opcode : cOpc r.e.raw = 0x19 := by simpa [kind] using (Bool.and_eq_true_iff.mp gather).1
      exact countOob_of_inside (s := countPass r.e s) inside opcode _
    case isFalse => rfl
  have unread : ¬r.unit = .read := by rw [write]; decide
  unfold issueMem
  dsimp only
  rw [counted, if_neg unread, if_neg unread]
  rfl

/-- A load or store that starts with the entries `es`, once they have been taken. -/
def memStartWith (e : QEntry) (es : List Nat) (s : State) : State :=
  let wr := unitOf e.raw == .write
  let j := addJob (if wr then .vstore e else .vload e) es e.seq (some e.thread) (cSig e.raw) (vecStarted e s)
  let x := newRun e (passCount j.2.build e.vl) (some j.1)
  let x := if wr && !j.2.storeFree es e then (x, j.2) else issueMem j.1 es x j.2
  let s := addRun x.1 x.2
  if wr then storeDone j.1 s else loadArrived j.1 s

theorem memStart_eq (e : QEntry) (s : State) :
    let u := takeAtStart .vec e.operands e.entries s
    memStart e s = memStartWith e u.1 u.2 := rfl

section

variable {s : State} {e : QEntry} (write : unitOf e.raw = .write) (kind : cOpc e.raw ≠ 0x18) (inside : storeInside s e)
include write kind inside

/-- The run of a store whose first pass has issued. -/
def firstPass (s : State) (e : QEntry) (id : Nat) : VRun :=
  ⟨e, unitOf e.raw, some id, passCount s.build e.vl, [s.now], [], [], [], []⟩

theorem memStartWith_of_store {es : List Nat} {u : State} (taken : ∃ range nextId high land, u = s.taken range nextId high land)
    (free : u.storeFree es e = true) :
    let v := countPass e (addJob (.vstore e) es e.seq (some e.thread) (cSig e.raw) (vecStarted e u)).2
    memStartWith e es u = storeDone u.nextId (addRun (firstPass s e u.nextId)
      (storeReqs e u.nextId 0 es (passLanes s.build e.vl 0) v)) := by
  obtain ⟨range, nextId, high, land, rfl⟩ := taken
  intro v
  have wr : (unitOf e.raw == .write) = true := by rw [write]; rfl
  have issued := issueMem_of_store (s := (addJob (.vstore e) es e.seq (some e.thread) (cSig e.raw)
    (vecStarted e (s.taken range nextId high land))).2) (r := newRun e (passCount s.build e.vl) (some nextId)) write inside kind
    nextId es
  have free' : (addJob (.vstore e) es e.seq (some e.thread) (cSig e.raw)
    (vecStarted e (s.taken range nextId high land))).2.storeFree es e = true := free
  unfold memStartWith
  simp only [wr, if_true, free', Bool.not_true, Bool.and_false, Bool.false_eq_true, if_false]
  exact congrArg (fun x : VRun × State => storeDone nextId (addRun x.1 x.2)) issued

/-- A store that starts. -/
theorem memStart_of_store :
    let u := takeAtStart .vec e.operands e.entries s
    u.2.storeFree u.1 e = true → ∃ t new, memStart e s = storeDone u.2.nextId t ∧ Claims.memStarted s u.2 t e u.1 ∧
      t.reqs = u.2.reqs ++ new ∧
      new.map LineReq.unnumbered = storeLines s e u.2.nextId 0 u.1 (passLanes s.build e.vl 0) := by
  intro u free
  have taken := takeAtStart_taken .vec e.operands e.entries s
  have starts := (memStart_eq e s).trans (memStartWith_of_store write kind inside taken free)
  change ∃ range nextId high land, u.2 = _ at taken
  change memStart e s = storeDone u.2.nextId (addRun (firstPass s e u.2.nextId)
    (storeReqs e u.2.nextId 0 u.1 (passLanes s.build e.vl 0) _)) at starts
  generalize u.1 = es at *
  generalize u.2 = v at *
  obtain ⟨range, nextId, high, land, rfl⟩ := taken
  have asks := asks_storeReqs e (s.taken range nextId high land).nextId 0 es (passLanes s.build e.vl 0)
    (countPass e (addJob (.vstore e) es e.seq (some e.thread) (cSig e.raw) (vecStarted e (s.taken range nextId high land))).2)
  obtain ⟨left, last⟩ := asks.lastJob List.getLast?_concat
  obtain ⟨new, requested, unnumbered⟩ := asks
  rw [requested] at starts last
  refine ⟨_, new, starts, ⟨⟨[], rfl⟩, _, last, rfl, rfl, rfl, rfl, rfl, (if_pos write).symm⟩, rfl, unnumbered.trans ?_⟩
  exact storeLines_congr rfl rfl rfl ..

end

/-- A later pass of a store. -/
theorem memPass_of_store {s : State} {k : Nat} {r : VRun} {j : Job} {opc : Nat} (due : Claims.memDue s k r j opc)
    (write : unitOf r.e.raw = .write) (kind : opc ≠ 0x18) (inside : storeInside s r.e) :
    ∃ t new, memPass k s = storeDone j.id t ∧ Claims.memPassed s t k r ∧ t.reqs = s.reqs ++ new ∧
      new.map LineReq.unnumbered =
        storeLines s r.e j.id r.issued.length j.entries (passLanes s.build r.e.vl r.issued.length) := by
  obtain ⟨run, opcode, unit, more, bubble, ⟨id, own, job⟩, live, regs, free, load⟩ := due
  have wr : (r.unit == .write) = true := by rw [unit, write]; rfl
  obtain rfl : j.id = id := job?_id job
  obtain ⟨new, requested, unnumbered⟩ := asks_storeReqs r.e j.id r.issued.length j.entries
    (passLanes s.build r.e.vl r.issued.length) (countPass r.e s)
  have issued := issueMem_of_store (s := s) (unit.trans write) inside (by rw [opcode]; exact kind) j.id j.entries
  rw [requested] at issued
  have goes : memPass k s = storeDone j.id (setRun k { r with issued := r.issued ++ [s.now] }
      ((countPass r.e s).requesting j.id new)) := by
    unfold memPass
    rw [run]
    dsimp only
    rw [own, Option.bind_some, job]
    dsimp only
    rw [load, issued]
    simp [wr, bubble, live, regs, free, Nat.not_le.mpr more, own]
  exact ⟨_, new, goes, ⟨r.src, rfl⟩, rfl, unnumbered.trans (storeLines_congr rfl rfl rfl ..)⟩

/-- The row of a store, by what its passes request. -/
theorem memRow_of_store {i : Instr} {opc : Nat} {may : State → QEntry → Prop}
    {ok : State → QEntry → Nat → List Nat → List LineReq → Prop} (write : ∀ e : QEntry, cOpc e.raw = opc → unitOf e.raw = .write)
    (kind : opc ≠ 0x18) (inside : ∀ s e, cOpc e.raw = opc → may s e → storeInside s e)
    (row : ∀ s e, Claims.memStarting s e opc → may s e → exec i s = .next (memStart e s))
    (asks : ∀ s e id p es new, cOpc e.raw = opc → may s e →
      new.map LineReq.unnumbered = storeLines s e id p es (passLanes s.build e.vl p) → ok s e p es new) :
    Claims.MemRow i opc storeDone may ok := by
  have own {s : State} {e : QEntry} {id p : Nat} {es : List Nat} {new : List LineReq}
      (h : new.map LineReq.unnumbered = storeLines s e id p es (passLanes s.build e.vl p)) :
      ∀ q ∈ new, q.job = id ∧ q.unit = .vec :=
    forall_unnumbered h (fun q mem => ⟨(mem_storeLines mem).1, (mem_storeLines mem).2.1⟩) fun _ own => own
  refine ⟨?_, fun s k r j due allowed => ?_⟩
  · intro s e starting allowed u free
    have opcode := starting.2.1
    obtain ⟨t, new, starts, started, reqs, lines⟩ :=
      memStart_of_store (write e opcode) (by rw [opcode]; exact kind) (inside s e opcode allowed) free
    exact ⟨t, new, (row s e starting allowed).trans (congrArg Host.Outcome.next starts), started, reqs,
      asks s e _ 0 _ new opcode allowed lines, own lines⟩
  · have opcode := due.2.1
    obtain ⟨t, new, passes, passed, reqs, lines⟩ := memPass_of_store due (write r.e opcode) kind (inside s r.e opcode allowed)
    exact ⟨t, new, passes, passed, reqs, asks s r.e _ _ _ new opcode allowed lines, own lines⟩

/-- What `ok` asks of the requests of a store's pass. -/
theorem stores_of_lines {s : State} {e : QEntry} {id p : Nat} {es : List Nat} {new : List LineReq} {cells : List Host.Cell}
    (h : new.map LineReq.unnumbered = storeLines s e id p es (passLanes s.build e.vl p))
    (stored : (storeLines s e id p es (passLanes s.build e.vl p)).flatMap (fun q => q.wr.getD []) = cells) :
    (new.flatMap fun q => q.wr.getD []) = cells ∧ ∀ q ∈ new, q.wr.isSome = true ∧ q.entry = es[q.tag % 2]? :=
  ⟨(flatMap_unnumbered h fun _ => rfl).trans stored, forall_unnumbered h (fun q mem => (mem_storeLines mem).2.2) fun _ own => own⟩

theorem memRow_starts {s : State} {e : QEntry} {opc : Nat} (starting : Claims.memStarting s e opc) :
    memRow opc false s = memStart e s := by
  obtain ⟨head, opcode, ready, may⟩ := starting
  unfold memRow
  rw [head]
  simp [opcode, ready, may]

theorem memRow_starts_inside {s : State} {e : QEntry} (starting : Claims.memStarting s e 0x19)
    (inside : ∀ n < e.vl, (s.lane (cVa e.raw) n).toNat < vmWindow e.raw)
    (usable : s.clu.live = true → passOk s.build s.vec.runs e true 0 s.now = true) :
    memRow 0x19 true s = memStart e s := by
  obtain ⟨head, opcode, ready, may⟩ := starting
  have none : (List.range e.vl).find? (oobLane s e) = none := List.find?_eq_none.mpr fun n mem => by
    rw [oobLane_of_inside (fun _ => inside) opcode (List.mem_range.mp mem)]
    decide
  have checked : laneChecked e 2 (memStart e) s = memStart e s := by
    unfold laneChecked
    split
    case isTrue live => rw [usable live, none]; rfl
    case isFalse => rfl
  unfold memRow
  rw [head]
  simp [opcode, ready, may, checked]

/-- A store whose writes have all completed ends. -/
theorem storeDone_of_finished {s : State} {j : Job} (job : s.job? j.id = some j) (finished : j.left = 0) (live : j.voided = false)
    (issued : ∀ r ∈ s.vec.runs, r.job ≠ some j.id) :
    storeDone j.id s = signalOpt j.sig (dropJob j.id (releaseAll j.entries true s)) := by
  have whole : s.vec.runs.all (fun r => r.job != some j.id || r.issued.length == r.n) = true :=
    List.all_eq_true.mpr fun r mem => by simp [issued r mem]
  unfold storeDone
  rw [job]
  simp [finished, live, whole]

end Sys2Proof.Machine

namespace Sys2Proof
open Sys2Proof.Machine

/-- Settles O29. -/
theorem vectorStores : Obligations.VectorStores := by
  have write (opc : Nat) (store : opc = 0x15 ∨ opc = 0x17 ∨ opc = 0x19) (e : QEntry) (opcode : cOpc e.raw = opc) :
      unitOf e.raw = .write := by
    obtain rfl | rfl | rfl := store
    all_goals
      rw [unitOf, opcode]
      rfl
  have unindexed {opc : Nat} (plain : opc ≠ 0x19) (s : State) (e : QEntry) (opcode : cOpc e.raw = opc) : storeInside s e :=
    fun scatter => absurd (opcode.symm.trans scatter) plain
  refine ⟨?_, ?_, ?_, fun s j job finished live issued => storeDone_of_finished job finished live issued⟩
  · refine memRow_of_store (write 0x15 (by decide)) (by decide) (fun s e opcode _ => unindexed (by decide) s e opcode)
      (fun s e starting _ => congrArg Host.Outcome.next (memRow_starts starting))
      fun s e id p es new opcode _ lines => stores_of_lines lines ?_
    rw [storeLines, if_neg (by rw [opcode]; decide), if_neg (by rw [opcode]; decide), vstLines_cells, passLanes_eq]
    rfl
  · refine memRow_of_store (write 0x17 (by decide)) (by decide) (fun s e opcode _ => unindexed (by decide) s e opcode)
      (fun s e starting _ => congrArg Host.Outcome.next (memRow_starts starting))
      fun s e id p es new opcode blocks lines => stores_of_lines lines ?_
    rw [storeLines, if_neg (by rw [opcode]; decide), if_pos opcode, vstMxLines_cells blocks, mxScaleCells_eq blocks,
      passLanes_eq]
    congr 1
    refine List.filterMap_congr fun k _ => ?_
    rw [mxScaleByte, apply_ite (Option.map _)]
    simp only [List.isEmpty_iff, Nat.add_assoc]
    rfl
  · refine memRow_of_store (write 0x19 (by decide)) (by decide) (fun s e _ allowed _ => allowed.1)
      (fun s e starting allowed => congrArg Host.Outcome.next (memRow_starts_inside starting allowed.1 allowed.2))
      fun s e id p es new opcode allowed lines => stores_of_lines lines ?_
    have act : (passLanes s.build e.vl p).filter (fun i => s.active e.raw i && (s.lane (cVa e.raw) i).toNat < vmWindow e.raw) =
        (passLanes s.build e.vl p).filter fun i => s.active e.raw i :=
      List.filter_congr fun i mem => by simp [allowed.1 i (passLanes_less mem)]
    have same (x y : BitVec 32) : (x.toNat == y.toNat) = (x == y) := by
      rw [Bool.eq_iff_iff]
      simp [BitVec.toNat_inj]
    rw [storeLines, if_pos opcode, vstxLines_cells, scatterLanes]
    simp only [act, same]
    rw [passLanes_eq]
    rfl

end Sys2Proof


/-! ## Flights and Treads -/

namespace Sys2Proof.Machine

/-! ### A read cycle -/

/-- The reads of memory record `m` for positions `es`. -/
def recLines (id tag : Nat) (entry : Option Nat) (c m : Cmd) (es : List Nat) : List LineReq :=
  (runsOf c es).flatMap fun x => readLines id tag .vec entry
    (arBase m + x.1 * arStride m + x.2.1 * fmtBits (arTap m) / 8) (x.2.2 * fmtBits (arTap m) / 8)

theorem asks_recReads (id tag : Nat) (entry : Option Nat) (c m : Cmd) (es : List Nat) (s : State) :
    s.Asks (recReads id tag entry c m es s) id (recLines id tag entry c m es) := by
  refine asks_foldl (.refl s id) (fun u _ _ x => ?_) (runsOf c es)
  exact asks_addRead ..

/-- The banks that a readout of positions `es` reads. -/
def sourceRead (c : Cmd) (es : List Nat) (s : State) : State :=
  match goSrc c, es with
  | 0, e :: _ => bankReads (goPos c e).2.2.1 (goBank c) s
  | _, _ => s

/-- A readout counts a cycle; another source reads no bank. -/
theorem sourceRead_counts {c : Cmd} {es : List Nat} (reads : goSrc c = 0 → es ≠ []) (s : State) :
    ∃ opa, (goSrc c ≠ 0 → opa = s.opa) ∧
      sourceRead c es s =
        { s with opa := opa, vec := { s.vec with rdCyc := s.vec.rdCyc + (if goSrc c = 0 then 1 else 0) } } := by
  by_cases readout : goSrc c = 0
  · obtain ⟨e, es, rfl⟩ := List.exists_cons_of_ne_nil (reads readout)
    refine ⟨(bankReads (goPos c e).2.2.1 (goBank c) s).opa, fun other => absurd readout other, ?_⟩
    unfold sourceRead
    rw [readout]
    rfl
  · refine ⟨s.opa, fun _ => rfl, ?_⟩
    unfold sourceRead
    rw [if_neg readout, add_zero]
    split
    case h_1 zero => exact absurd zero readout
    case h_2 => rfl

/-- A read cycle changes no more than the arrays' times and its counter before its requests. -/
theorem sourceRead_frame (c : Cmd) (es : List Nat) (s : State) :
    ∃ opa n, sourceRead c es s = { s with opa := opa, vec := { s.vec with rdCyc := n } } := by
  unfold sourceRead
  split
  · exact ⟨_, _, rfl⟩
  · exact ⟨_, _, rfl⟩

/-- A Flight with the values of a read cycle. -/
def flightTakes (id : Nat) (r : VRun) (s : State) : State :=
  let es := cyclePos r.e.raw r.e.cap r.e.vl r.issued.length
  sourceRead r.e.raw es (modJob id (fun j => { j with buf := j.buf ++ sourceCells s r.e.raw es }) s)

/-- The requests of read cycle `k` of the Flight `e`. -/
def flightLines (id : Nat) (entries : List Nat) (e : QEntry) (k : Nat) : List LineReq :=
  let c := e.raw
  let es := cyclePos c e.cap e.vl k
  (if goSrc c = 2 then recLines id (2 * k) (memEntry c e.cap entries false) c (capRec e.cap 4) es else []) ++
    (if usesM1 c e.cap then recLines id (2 * k + 1) (memEntry c e.cap entries true) c (capRec e.cap 5) es else [])

theorem asks_issueFlight (id : Nat) (entries : List Nat) (r : VRun) (s : State) :
    (flightTakes id r s).Asks (issueFlight id entries r s).2 id (flightLines id entries r.e r.issued.length) := by
  have optional {c : Prop} [Decidable c] {u v : State} {lines : List LineReq} (h : u.Asks v id lines) :
      u.Asks (if c then v else u) id (if c then lines else []) := by
    split
    · exact h
    · exact .refl u id
  exact (optional (asks_recReads ..)).trans (optional (asks_recReads ..))

theorem recLines_pieces (id tag : Nat) (entry : Option Nat) (c m : Cmd) (es : List Nat) :
    (recLines id tag entry c m es).map (fun q => (q.addr, q.len)) = (runsOf c es).flatMap fun x => lineChunks
      (arBase m + x.1 * arStride m + x.2.1 * fmtBits (arTap m) / 8) (x.2.2 * fmtBits (arTap m) / 8) := by
  rw [recLines, List.map_flatMap]
  exact List.flatMap_congr fun x _ => askLines_pieces ..

theorem mem_flightLines {id : Nat} {entries : List Nat} {e : QEntry} {k : Nat} {q : LineReq} (mem : q ∈ flightLines id entries e k) :
    q.job = id ∧ q.unit = .vec ∧ q.wr = none ∧ (q.tag = 2 * k ∨ q.tag = 2 * k + 1) := by
  have own {tag : Nat} {entry : Option Nat} {c m : Cmd} {es : List Nat} (mem : q ∈ recLines id tag entry c m es) :
      q.job = id ∧ q.unit = .vec ∧ q.wr = none ∧ q.tag = tag := by
    obtain ⟨x, -, mem⟩ := List.mem_flatMap.mp mem
    obtain ⟨own, tagged, unit, -, wr⟩ := mem_readLines mem
    exact ⟨own, unit, wr, tagged⟩
  have chosen {c : Prop} [Decidable c] {l : List LineReq} (mem : q ∈ if c then l else []) : q ∈ l := by
    split at mem
    · exact mem
    · exact absurd mem List.not_mem_nil
  rcases List.mem_append.mp mem with source | operand
  · obtain ⟨of, unit, wr, tag⟩ := own (chosen source)
    exact ⟨of, unit, wr, .inl tag⟩
  · obtain ⟨of, unit, wr, tag⟩ := own (chosen operand)
    exact ⟨of, unit, wr, .inr tag⟩

/-- Without M1, the requests of a read cycle are those of a memory source. -/
theorem flightLines_pieces {e : QEntry} (plain : usesM1 e.raw e.cap = false) (id : Nat) (entries : List Nat) (k : Nat) :
    let m := capRec e.cap 4
    (flightLines id entries e k).map (fun q => (q.addr, q.len)) = if goSrc e.raw ≠ 2 then [] else
      (runsOf e.raw (cyclePos e.raw e.cap e.vl k)).flatMap fun x => lineChunks
        (arBase m + x.1 * arStride m + x.2.1 * fmtBits (arTap m) / 8) (x.2.2 * fmtBits (arTap m) / 8) := by
  intro m
  rw [flightLines, plain, if_neg (show ¬false = true by decide), List.append_nil, ite_not]
  split
  · exact recLines_pieces ..
  · rfl

theorem lastJob_modJob {s : State} {j : Job} {id : Nat} (last : s.jobs.getLast? = some j) (own : j.id = id) (f : Job → Job) :
    (modJob id f s).jobs.getLast? = some (f j) := by
  rw [modJob, List.getLast?_map, last]
  exact congrArg some (if_pos own)

/-- The run of a Flight after its next read cycle. -/
def readsOn (r : VRun) (now : Nat) : VRun :=
  { r with
    issued := r.issued ++ [now]
    fall := r.fall ++ [match r.fall.getLast? with | some x => max now (x + 1) | none => now] }

/-- A read cycle with its requests. -/
theorem issueFlight_eq (id : Nat) (entries : List Nat) (r : VRun) (s : State) :
    ∃ new, issueFlight id entries r s = (readsOn r s.now, (flightTakes id r s).requesting id new) ∧
      new.map LineReq.unnumbered = flightLines id entries r.e r.issued.length := by
  obtain ⟨new, requested, lines⟩ := asks_issueFlight id entries r s
  obtain ⟨opa, n, same⟩ := sourceRead_frame r.e.raw (cyclePos r.e.raw r.e.cap r.e.vl r.issued.length)
    (modJob id (fun j => { j with buf := j.buf ++ sourceCells s r.e.raw (cyclePos r.e.raw r.e.cap r.e.vl r.issued.length) }) s)
  refine ⟨new, Prod.ext ?_ requested, lines⟩
  have now : (issueFlight id entries r s).2.now = s.now := by
    rw [requested]
    show (flightTakes id r s).now = s.now
    rw [flightTakes, same]
    rfl
  show VRun.mk .. = _
  rw [readsOn, ← now]
  rfl

/-! ### A Flight that starts -/

theorem goCount_pos {c : Cmd} (readout : goSrc c = 0) (vl : Nat) : 0 < goCount c vl := by
  have arrays : 0 < (goArrays c).length := by
    unfold goArrays
    split <;> decide
  rw [goCount, readout]
  exact Nat.mul_pos arrays (Nat.mul_pos (by unfold goNrows; omega) (by unfold goNcols; omega))

theorem cyclePos_of_readout {c : Cmd} (readout : goSrc c = 0) (cap : List Cmd) (vl : Nat) : cyclePos c cap vl 0 ≠ [] := by
  have some_position := goCount_pos readout vl
  unfold cyclePos
  rw [readout, if_neg (by simp)]
  intro empty
  have count := congrArg List.length empty
  simp at count
  omega

/-- A Flight that starts with the entries `es`, once they have been taken. -/
def startFlightWith (e : QEntry) (es : List Nat) (s : State) : State :=
  let j := addJob (.flight e false) es e.seq (some e.thread) (cSig e.raw) (vecStarted e s)
  let s := { j.2 with flt := { j.2.flt with lastDef := BitVec.ofNat 4 (goDef e.raw) } }
  let x := issueFlight j.1 es (newRun e (flightCycles e.raw e.vl) (some j.1)) s
  addRun x.1 x.2

theorem startFlight_of_legal {s : State} {e : QEntry}
    (loaded : ∀ i < goNstg e.raw, stKind (capStage e.cap i) = 0x1F → s.flt.treads.get (stProg (capStage e.cap i)).val ≠ 0)
    (short : treadOver s e.raw e.cap = none) (wide : narrowsInt s e.raw e.cap = false) :
    let u := takeAtStart .vec e.operands e.entries s
    startFlight e s = startFlightWith e u.1 u.2 := by
  have all_loaded : (goStages e.raw).find? (fun i => let q := capStage e.cap i
      stKind q == 0x1F && s.flt.treads.get (stProg q).val == 0) = none :=
    List.find?_eq_none.mpr fun i mem => by
      have := loaded i (List.mem_range.mp mem)
      simpa using this
  intro u
  unfold startFlight
  dsimp only
  rw [all_loaded]
  dsimp only
  rw [short]
  dsimp only
  rw [wide]
  rfl

theorem fltRow_of_ready {opc : Nat} {ok : State → QEntry → Bool} {go : QEntry → State → State} {s : State} {e : QEntry}
    (head : s.vecHead = some e) (opcode : cOpc e.raw = opc) (ready : ok s e = true) : fltRow opc ok go s = go e s := by
  unfold fltRow
  rw [head]
  simp [opcode, ready]

theorem flightStarts : Claims.FlightStarts := by
  intro s e head opcode ready c u es m loaded short wide
  have taken := takeAtStart_taken .vec e.operands e.entries s
  have starts : exec .fltGo s = .next (startFlightWith e u.1 u.2) :=
    congrArg Host.Outcome.next ((fltRow_of_ready head opcode ready).trans (startFlight_of_legal loaded short wide))
  change ∃ range nextId high land, u.2 = _ at taken
  generalize u.1 = entries at *
  generalize u.2 = v at *
  obtain ⟨range, nextId, high, land, rfl⟩ := taken
  have flight : unitOf e.raw = .flight := by rw [unitOf, opcode]; rfl
  have run : newRun e (flightCycles e.raw e.vl) (some nextId) =
      ⟨e, .flight, some nextId, (goCount c e.vl + 511) / 512, [], [], [], [], []⟩ := by rw [newRun, flight]; rfl
  have reads : goSrc c = 0 → es ≠ [] := fun readout => cyclePos_of_readout readout e.cap e.vl
  obtain ⟨base, hbase⟩ : ∃ base, base = { (addJob (.flight e false) entries e.seq (some e.thread) (cSig c)
      (vecStarted e (s.taken range nextId high land))).2 with flt := { s.flt with lastDef := BitVec.ofNat 4 (goDef c) } } := ⟨_, rfl⟩
  have started : base.jobs.getLast? = some ⟨nextId, .flight e false, [], 0, 0, 0, none, entries, e.seq, some e.thread, cSig c,
      false, 0, 0⟩ := by
    rw [hbase]
    exact List.getLast?_concat
  have last := lastJob_modJob started rfl fun j => { j with buf := j.buf ++ sourceCells base c es }
  obtain ⟨new, issued, lines⟩ := issueFlight_eq nextId entries (newRun e (flightCycles e.raw e.vl) (some nextId)) base
  obtain ⟨opa, kept, takes⟩ := sourceRead_counts reads
    (modJob nextId (fun j => { j with buf := j.buf ++ sourceCells base c es }) base)
  have result : startFlightWith e entries (s.taken range nextId high land) =
      addRun (readsOn (newRun e (flightCycles e.raw e.vl) (some nextId)) base.now)
        ((sourceRead c es (modJob nextId (fun j => { j with buf := j.buf ++ sourceCells base c es }) base)).requesting nextId new) := by
    rw [startFlightWith]
    subst hbase
    exact congrArg (fun x : VRun × State => addRun x.1 x.2) issued
  rw [takes, run] at result
  subst hbase
  rw [result] at starts
  change new.map _ = flightLines nextId entries e 0 at lines
  obtain ⟨left, last⟩ := State.Asks.lastJob ⟨new, rfl, lines⟩ last
  refine ⟨_, starts, ⟨_, last, rfl, rfl, rfl, rfl, List.nil_append _⟩, ⟨new, rfl, ?_, ?_⟩, kept, ?_⟩
  · refine forall_unnumbered lines (fun q mem => ?_) fun _ own => own
    obtain ⟨own, unit, wr, tag⟩ := mem_flightLines mem
    exact ⟨own, unit, wr, by omega⟩
  · intro plain
    exact (map_unnumbered lines fun _ => rfl).trans (flightLines_pieces plain ..)
  · have definition : BitVec.ofNat 4 (c.toNat / 2 ^ 19) = BitVec.ofNat 4 (goDef c) := by
      rw [goDef, fld_eq_toNat_extractLsb', BitVec.ofNat_toNat, BitVec.setWidth_eq, extractLsb'_eq_ofNat]
    rw [definition]
    rfl

/-! ### The next read cycle -/

theorem flightTurn_of_reads {s : State} {i : Nat} {r : VRun} {j : Job} (run : s.vec.runs[i]? = some r) (unit : r.unit = .flight)
    (own : r.job = some j.id) (job : s.job? j.id = some j) (stay : s.valuesLeave j.id r = false)
    (due : s.flightDue j.id r = true) :
    flightTurn i s = setRun i (issueFlight j.id j.entries r s).1 (issueFlight j.id j.entries r s).2 := by
  unfold flightTurn
  rw [run]
  dsimp only
  rw [unit, own, Option.bind_some, job]
  dsimp only
  rw [stay, if_neg (by decide), run]
  dsimp only
  rw [if_pos due]

theorem flightReads : Claims.FlightReads := by
  intro s i r j run unit own job stay due c es s'
  obtain ⟨new, issued, lines⟩ := issueFlight_eq j.id j.entries r s
  obtain ⟨opa, n, takes⟩ := sourceRead_frame c es (modJob j.id (fun j => { j with buf := j.buf ++ sourceCells s c es }) s)
  have turn : s' = setRun i (readsOn r s.now) ((sourceRead c es
      (modJob j.id (fun j => { j with buf := j.buf ++ sourceCells s c es }) s)).requesting j.id new) :=
    (flightTurn_of_reads run unit own job stay due).trans (congrArg (fun x : VRun × State => setRun i x.1 x.2) issued)
  rw [takes] at turn
  generalize s' = t at turn
  subst turn
  refine ⟨rfl, rfl, rfl, rfl, rfl, rfl, fun x found => ?_, fun other plain => ?_, rfl⟩
  · have once := job?_modJob job (f := fun j => { j with buf := j.buf ++ sourceCells s c es }) fun _ => rfl
    have twice := job?_modJob once (f := fun j => { j with left := j.left + new.length }) fun _ => rfl
    exact (congrArg Job.buf (Option.some.inj (twice.symm.trans found))).symm
  · have none : new = [] := by
      have pieces := congrArg List.length (flightLines_pieces plain j.id j.entries r.issued.length)
      rw [← lines, if_pos other] at pieces
      simpa using pieces
    rw [none]
    exact List.append_nil _

/-! ### Definitions, programs, and the end of a Flight -/

theorem fld_eq_div {w : Nat} (v : BitVec w) (lo len : Nat) : fld v lo len = v.toNat / 2 ^ lo % 2 ^ len := by
  rw [fld, Nat.shiftRight_eq_div_pow]

theorem startTrd_asks (e : QEntry) (s : State) :
    let u := takeAtStart .vec e.operands e.entries s
    let j := addJob (.tread e) u.1 e.seq (some e.thread) (cSig e.raw) (vecStarted e u.2)
    j.2.Asks (startTrd e s) u.2.nextId (readLines u.2.nextId 0 .vec u.1[0]? (vmBase e.raw) 192) := asks_addRead ..

theorem flightComplete_of_whole {s : State} {j : Job} (clocked : s.clocked = true)
    (first : s.jobs.find? (fun j => (match j.kind with | .flight _ true => true | _ => false) && j.left == 0 && j.due ≤ s.now) =
      some j) (whole : j.bad = none) (live : j.voided = false) :
    flightComplete s = signalOpt j.sig (dropJob j.id (releaseAll j.entries true s)) := by
  unfold flightComplete
  split
  next none => exact absurd (none.symm.trans first) (by simp)
  next k found =>
    obtain rfl : k = j := Option.some.inj (found.symm.trans first)
    simp [clocked, whole, live]

theorem treadLoaded_of_legal {p : Fin 64} {s : State} {j : Job} {x : QEntry} (clocked : s.clocked = true)
    (first : s.jobs.find? (fun j => j.left == 0 && match j.kind with | .tread e => fld e.raw 19 6 == p.val | _ => false) = some j)
    (kind : j.kind = .tread x) (live : j.voided = false)
    (legal : treadBad (BitVec.ofNat 1536 (leNat (bufBytes j.buf (vmBase x.raw) 192))) = false) :
    treadLoaded p s = signalOpt j.sig (dropJob j.id (releaseAll j.entries true { s with flt := { s.flt with
      treads := s.flt.treads.set p.val (BitVec.ofNat 1536 (leNat (bufBytes j.buf (vmBase x.raw) 192))) } })) := by
  unfold treadLoaded
  split
  next none => exact absurd (none.symm.trans first) (by simp)
  next k found =>
    obtain rfl : k = j := Option.some.inj (found.symm.trans first)
    rw [kind]
    simp [clocked, live, legal]

end Sys2Proof.Machine

namespace Sys2Proof
open Sys2Proof.Machine

/-- Settles O31. -/
theorem flightCommands : Obligations.FlightCommands := by
  refine ⟨flightStarts, flightReads, fun s e head => ⟨fun opcode => ?_, fun opcode => ?_, fun opcode may unnamed unloaded => ?_,
    fun j clocked first whole live => congrArg Host.Outcome.next (flightComplete_of_whole clocked first whole live),
    fun p j x clocked first kind live legal =>
      congrArg Host.Outcome.next (treadLoaded_of_legal clocked first kind live legal)⟩⟩
  · refine congrArg Host.Outcome.next ((fltRow_of_ready head opcode rfl).trans ?_)
    rw [startStg, fld_eq_div, fld_eq_div]
    rfl
  · refine congrArg Host.Outcome.next ((fltRow_of_ready head opcode rfl).trans ?_)
    rw [startAdr, arRec, fld_eq_div]
    rfl
  · have taken := takeAtStart_taken .vec e.operands e.entries s
    have free : (canTake s e.operands && !s.flightNames (fld e.raw 19 6) && !s.loadingProg (Fin.ofNat 64 (fld e.raw 19 6))) =
        true := by
      have slot : fld e.raw 19 6 = e.raw.toNat / 2 ^ 19 % 64 := fld_eq_div ..
      rw [slot, may, unnamed, unloaded]
      rfl
    have starts : exec .trdLoad s = .next (startTrd e s) :=
      congrArg Host.Outcome.next (fltRow_of_ready head opcode free)
    have asks := startTrd_asks e s
    dsimp only at asks
    generalize startTrd e s = t at starts asks
    generalize (takeAtStart .vec e.operands e.entries s).1 = es at *
    generalize (takeAtStart .vec e.operands e.entries s).2 = u at *
    obtain ⟨range, nextId, high, land, rfl⟩ := taken
    obtain ⟨new, rfl, lines⟩ := asks
    refine ⟨_, starts, ⟨new, rfl, (map_unnumbered lines fun _ => rfl).trans (askLines_pieces ..), ?_⟩, rfl⟩
    refine forall_unnumbered lines (fun q mem => ?_) fun _ own => own
    obtain ⟨own, -, unit, -, wr⟩ := mem_readLines mem
    exact ⟨own, unit, wr⟩

end Sys2Proof


/-! ## Stream contexts, and the stream commands -/

namespace Sys2Proof.Machine

/-! ### A context after a change of one -/

section

variable (n c : Fin 4) (f g : Ctx → Ctx) (s : State)

@[simp] theorem ctx_modCtx_same : (modCtx n c f s).ctx n c = f (s.ctx n c) := by
  simp [State.ctx, modCtx, modStrm]

theorem ctx_modCtx_other {n' c' : Fin 4} (other : (n', c') ≠ (n, c)) : (modCtx n c f s).ctx n' c' = s.ctx n' c' := by
  by_cases engine : n' = n
  · subst engine
    have context : c.val ≠ c'.val := fun same => other (by rw [Fin.ext same])
    simp [State.ctx, modCtx, modStrm, context]
  · have engine : n.val ≠ n'.val := fun same => engine (Fin.ext same.symm)
    simp [State.ctx, modCtx, modStrm, engine]

theorem modCtx_modCtx : modCtx n c f (modCtx n c g s) = modCtx n c (fun x => f (g x)) s := by
  simp [modCtx, modStrm]

end

theorem modCtx_congr {n c : Fin 4} {f g : Ctx → Ctx} {s : State} (same : f (s.ctx n c) = g (s.ctx n c)) :
    modCtx n c f s = modCtx n c g s := by
  have same : f ((s.strm[n]).ctx[c]) = g ((s.strm[n]).ctx[c]) := same
  simp only [modCtx, modStrm, same]

theorem modCtx_self {n c : Fin 4} {f : Ctx → Ctx} {s : State} (same : f (s.ctx n c) = s.ctx n c) : modCtx n c f s = s := by
  refine (modCtx_congr (g := id) same).trans ?_
  have context : { s.strm[n] with ctx := (s.strm[n]).ctx.set c ((s.strm[n]).ctx[c]) } = s.strm[n] := by
    simp only [Fin.getElem_fin, Vector.set_getElem_self]
  have engine : s.strm.set n s.strm[n] = s.strm := Vector.set_getElem_self ..
  simp only [modCtx, modStrm, id, context, engine]

/-! ### What the parts of a cancel leave alone in a context -/

/-- Of a context, what the withdrawal of its tiles leaves alone. -/
def Ctx.walk (x : Ctx) : Ctx := { x with tiles := [] }

theorem walk_modCtx_tiles (n c m k : Fin 4) (f : List STile → List STile) (s : State) :
    ((modCtx m k (fun x => { x with tiles := f x.tiles }) s).ctx n c).walk = (s.ctx n c).walk := by
  by_cases own : (n, c) = (m, k)
  · obtain ⟨rfl, rfl⟩ := Prod.mk.inj own
    rw [ctx_modCtx_same]
    rfl
  · rw [ctx_modCtx_other _ _ _ _ own]

theorem ctx_releaseAll (n c : Fin 4) (ids : List Nat) (ok : Bool) (s : State) : (releaseAll ids ok s).ctx n c = s.ctx n c :=
  KeptByMoveEnds.releaseAll (π := fun s => s.ctx n c) (fun _ _ _ _ _ _ _ => rfl) ids ok s

theorem ctx_signalOpt (n c : Fin 4) (sig : Option (BitVec 13)) (s : State) : (signalOpt sig s).ctx n c = s.ctx n c :=
  KeptByMoveEnds.signalOpt (π := fun s => s.ctx n c) (fun _ _ _ _ _ _ _ => rfl) sig s

theorem walk_reapTile (n c : Fin 4) (id : Nat) (s : State) : ((reapTile id s).ctx n c).walk = (s.ctx n c).walk := by
  unfold reapTile
  split
  · split
    · split
      · refine (walk_modCtx_tiles ..).trans ?_
        exact congrArg Ctx.walk (ctx_releaseAll ..)
      · rfl
    · rfl
  · rfl

theorem ctx_dropBlock (n c : Fin 4) (g : Gen) (s : State) : (dropBlock g s).ctx n c = s.ctx n c := by
  unfold dropBlock
  split
  · dsimp only
    split
    · split
      · exact ctx_releaseAll ..
      · rfl
    · rfl
  · rfl

/-- A context that a cancel reaches. -/
theorem walk_cancelCtx {n c : Fin 4} {s : State} (busy : (s.ctx n c).st ≠ .idle) :
    ((cancelCtx n c s).ctx n c).walk =
      { (s.ctx n c).walk with st := .cancelling, gen := none, pend := none, held := [] } := by
  unfold cancelCtx
  dsimp only
  rw [if_neg busy]
  refine List.foldlRecOn _ _ (motive := fun t : State => (t.ctx n c).walk =
    { (s.ctx n c).walk with st := .cancelling, gen := none, pend := none, held := [] }) ?_ fun t keeps x _ => ?_
  · rw [ctx_modCtx_same]
    split
    · rw [ctx_dropBlock]
      rfl
    · rfl
  · exact (walk_reapTile ..).trans keeps

/-! ### Stream commands -/

theorem cCtx_eq (c : Cmd) : cCtx c = Fin.ofNat 4 (c.toNat / 2 ^ 19 % 4) := by
  rw [cCtx, fld_eq_div]
  rfl

theorem strmFree_of_next {n : Fin 4} {s : State} (free : s.strm[n].cfgAt ≠ s.now + 1) : s.strmFree n = true :=
  bne_iff_ne.mpr free

section

variable {n : Fin 4} {s : State} {e : QEntry} (head : s.head? (strmQ n) = some e) (free : s.strm[n].cfgAt ≠ s.now + 1)
include head free

theorem strmCfgStart_of_idle (opcode : cOpc e.raw = 0x07) (idle : (s.ctx n (cCtx e.raw)).st = .idle)
    (none : (s.ctx n (cCtx e.raw)).pend = none) :
    strmCfgStart n s = signalOpt (cSig e.raw) (popQueue (strmQ n) (modStrm n (fun y => { y with cfgAt := s.now + 1 })
      (modCtx n (cCtx e.raw) (fun x => { x with
        lookahead := BitVec.ofNat 4 (fld e.raw 21 4), link := bitAt e.raw 25, fillEn := bitAt e.raw 26,
        fill := e.raw.extractLsb' 27 13, free := e.raw.extractLsb' 40 13 }) s))) := by
  unfold strmCfgStart
  rw [head]
  exact if_pos ⟨opcode, idle, by rw [none]; rfl, strmFree_of_next free⟩

/-- The generation that a STRM.ARM brings. -/
def armGen (e : QEntry) : Gen := ⟨cSig e.raw, e.thread, fld e.raw 21 32, none, none, false, 0, e.seq⟩

theorem strmArmStart_of_free (opcode : cOpc e.raw = 0x08) :
    let k := cCtx e.raw
    let x := s.ctx n k
    let t := popQueue (strmQ n) s
    strmArmStart n s =
      if x.st = .idle then modCtx n k (fun x => { x with
        st := .active, gen := some { armGen e with fetch := some (fld e.raw 21 32, s.now + 6, none) }, d := 0,
        b := syncGet s x.free.toNat }) t
      else if x.st = .active ∧ x.gen.any Gen.lastSeen then
        modCtx n k (fun x => { x with gen := some { armGen e with fetch := some (fld e.raw 21 32, s.now + 1, none) } }) t
      else if x.pend.isNone then modCtx n k (fun x => { x with pend := some (armGen e) }) t
      else modStrm n (fun y => { y with rearm := y.rearm + 1 }) (countEvt (Page.strm n) 0 t) := by
  intro k x t
  unfold strmArmStart
  rw [head]
  exact if_neg (by simp [opcode, strmFree_of_next free])

theorem strmCancelStart_of_free (opcode : cOpc e.raw = 0x09) :
    let k := cCtx e.raw
    let t := popQueue (strmQ n) s
    strmCancelStart n s =
      if (s.ctx n k).st = .idle then signalOpt (cSig e.raw) t
      else modCtx n k (fun x => { x with cancelSigs := x.cancelSigs ++ (cSig e.raw).toList }) (cancelCtx n k t) := by
  intro k t
  unfold strmCancelStart
  rw [head]
  exact if_neg (by simp [opcode, strmFree_of_next free])

end

/-- A cancel that nothing holds up ends. -/
theorem finishCancel_of_empty {n c : Fin 4} {s : State} (cancelling : (s.ctx n c).st = .cancelling)
    (empty : (s.ctx n c).tiles = []) (none : (s.ctx n c).pend = none) :
    finishCancel n c s = (s.ctx n c).cancelSigs.foldl (fun s sig => signal sig.toNat s)
      (modCtx n c (fun x => { x with st := .idle, cancelSigs := [] }) s) := by
  unfold finishCancel
  dsimp only
  rw [if_pos ⟨cancelling, by rw [empty]; rfl⟩]
  congr 1
  exact modCtx_congr (by rw [none])

end Sys2Proof.Machine

namespace Sys2Proof
open Sys2Proof.Machine

/-- Settles O33. -/
theorem streamCommands : Obligations.StreamCommands := by
  intro n s e w c x list last g free
  have context : cCtx e.raw = c := cCtx_eq e.raw
  have from_ : fld e.raw 21 32 = list := fld_eq_div ..
  have gen : armGen e = g := by rw [armGen, from_]
  refine ⟨fun head opcode idle none => ?_, fun head opcode => ?_, fun head opcode => ?_,
    fun k cancelling empty none => congrArg Host.Outcome.next (finishCancel_of_empty cancelling empty none)⟩
  · refine congrArg Host.Outcome.next ((strmCfgStart_of_idle head free opcode (by rw [context]; exact idle)
      (by rw [context]; exact none)).trans ?_)
    have bit (k : Nat) : bitAt e.raw k = decide (w / 2 ^ k % 2 = 1) := bitAt_eq_div ..
    have ahead : BitVec.ofNat 4 (fld e.raw 21 4) = BitVec.ofNat 4 (w / 2 ^ 21) := by
      rw [fld_eq_toNat_extractLsb', BitVec.ofNat_toNat, BitVec.setWidth_eq, extractLsb'_eq_ofNat]
    rw [context, ahead, bit, bit, extractLsb'_eq_ofNat, extractLsb'_eq_ofNat]
  · have starts := strmArmStart_of_free head free opcode
    dsimp only at starts
    rw [context, from_, gen] at starts
    have any : (x.st = .active ∧ x.gen.any Gen.lastSeen = true) ↔ last := by
      rw [Option.any_eq_true]
    refine ⟨fun idle => ?_, fun walked => ?_, fun busy walking none => ?_, fun busy walking some_pending => ?_⟩
    · exact congrArg Host.Outcome.next (starts.trans (if_pos idle))
    · have busy : x.st ≠ .idle := by rw [walked.1]; decide
      exact congrArg Host.Outcome.next (starts.trans ((if_neg busy).trans (if_pos (any.mpr walked))))
    · exact congrArg Host.Outcome.next (starts.trans ((if_neg busy).trans ((if_neg (mt any.mp walking)).trans
        (if_pos (Option.isNone_iff_eq_none.mpr none)))))
    · exact congrArg Host.Outcome.next (starts.trans ((if_neg busy).trans ((if_neg (mt any.mp walking)).trans
        (if_neg (mt Option.isNone_iff_eq_none.mp some_pending)))))
  · have starts := strmCancelStart_of_free head free opcode
    dsimp only at starts
    rw [context] at starts
    refine ⟨fun idle => congrArg Host.Outcome.next (starts.trans (if_pos idle)), fun busy => ?_⟩
    have walk : ((cancelCtx n c (popQueue (strmQ n) s)).ctx n c).walk = _ := walk_cancelCtx busy
    refine ⟨_, congrArg Host.Outcome.next (starts.trans (if_neg busy)), ?_, ?_, ?_, ?_, ?_, ?_⟩
    · rw [ctx_modCtx_same]
      exact congrArg Ctx.st walk
    · rw [ctx_modCtx_same]
      exact congrArg Ctx.gen walk
    · rw [ctx_modCtx_same]
      exact congrArg Ctx.pend walk
    · have signals := congrArg Ctx.cancelSigs walk
      change ((cancelCtx n c (popQueue (strmQ n) s)).ctx n c).cancelSigs = x.cancelSigs at signals
      rw [ctx_modCtx_same, signals]
    · exact KeptByStops.cancelCtx (π := State.mem) (fun _ _ _ _ _ _ _ _ _ => rfl) n c (popQueue (strmQ n) s)
    · exact KeptByStops.cancelCtx (π := State.sync) (fun _ _ _ _ _ _ _ _ _ => rfl) n c (popQueue (strmQ n) s)

end Sys2Proof


/-! ## Descriptors that start -/

namespace Sys2Proof.Machine

/-! ### What a given-up block leaves -/

theorem release_frame (id : Nat) (ok : Bool) (s : State) :
    ∃ range land, release id ok s = { s with range := range, land := land } := by
  unfold release
  split
  · exact ⟨s.range, s.land, rfl⟩
  · dsimp only
    split
    · exact ⟨_, s.land, rfl⟩
    · exact ⟨_, _, rfl⟩

theorem releaseAll_frame (ids : List Nat) (ok : Bool) (s : State) :
    ∃ range land, releaseAll ids ok s = { s with range := range, land := land } := by
  refine List.foldlRecOn ids _ (motive := fun t => ∃ (range : List RangeEntry) (land : Land), t = { s with range := range, land := land })
    ⟨s.range, s.land, rfl⟩ ?_
  rintro _ ⟨range, land, rfl⟩ i _
  exact release_frame i ok { s with range := range, land := land }

theorem getLast?_modJobs {l : List Job} {j : Job} {id : Nat} (last : l.getLast? = some j) (other : j.id ≠ id) (f : Job → Job) :
    (l.map fun x => if x.id = id then f x else x).getLast? = some j := by
  rw [List.getLast?_map, last]
  exact congrArg some (if_neg other)

theorem getLast?_dropJobs {l : List Job} {j : Job} {id : Nat} (last : l.getLast? = some j) (other : j.id ≠ id) :
    (l.filter fun x => x.id != id).getLast? = some j := by
  obtain ⟨l, rfl⟩ := List.getLast?_eq_some_iff.mp last
  have stays : [j].filter (fun x => x.id != id) = [j] := List.filter_eq_self.mpr (by simpa using other)
  rw [List.filter_append, stays]
  exact List.getLast?_concat

/-- The requests that a given-up block read leaves. -/
def Gen.leaves (g : Gen) (reqs : List LineReq) : List LineReq :=
  match g.fetch with
  | some (_, _, some id) => reqs.filter fun r => !(r.job == id)
  | _ => reqs

/-- A job `l` ends with is none that `g` reads a block for. -/
def Gen.spares (g : Gen) (j : Job) : Prop := ∀ b at_ id, g.fetch = some (b, at_, some id) → j.id ≠ id

/-- What `dropBlock` comes to: fewer requests, and the job of the read stops or goes. -/
theorem dropBlock_frame (g : Gen) (s : State) :
    ∃ range land jobs, dropBlock g s = { s with range := range, land := land, jobs := jobs, reqs := g.leaves s.reqs } ∧
      ∀ j, s.jobs.getLast? = some j → g.spares j → jobs.getLast? = some j := by
  have nothing (kept : dropBlock g s = s) (all : g.leaves s.reqs = s.reqs) :
      ∃ range land jobs, dropBlock g s = { s with range := range, land := land, jobs := jobs, reqs := g.leaves s.reqs } ∧
        ∀ j, s.jobs.getLast? = some j → g.spares j → jobs.getLast? = some j :=
    ⟨s.range, s.land, s.jobs, by rw [kept, all], fun j last _ => last⟩
  cases fetch : g.fetch with
  | none => exact nothing (by rw [dropBlock, fetch]) (by rw [Gen.leaves, fetch])
  | some f =>
    obtain ⟨b, at_, read⟩ := f
    cases read with
    | none => exact nothing (by rw [dropBlock, fetch]) (by rw [Gen.leaves, fetch])
    | some id =>
      obtain ⟨t, stopped⟩ : ∃ t, t = modJob id (fun j => { j with voided := true }) (dropReqs id (fun _ => false) s) := ⟨_, rfl⟩
      have lines : g.leaves s.reqs = t.reqs := by
        rw [Gen.leaves, fetch, stopped]
        simp [modJob, dropReqs]
      have last (j : Job) (last : s.jobs.getLast? = some j) (spared : g.spares j) : t.jobs.getLast? = some j := by
        rw [stopped]
        exact getLast?_modJobs (getLast?_modJobs last (spared b at_ id fetch) _) (spared b at_ id fetch) _
      have drops : dropBlock g s = match t.job? id with
          | some j => if j.left = 0 then dropJob id (releaseAll j.entries false t) else t
          | none => t := by
        rw [dropBlock, fetch, stopped] <;> rfl
      have whole : t = { s with jobs := t.jobs, reqs := t.reqs } := by
        rw [stopped]
        rfl
      rw [drops, lines]
      split
      case h_1 j _ =>
        split
        · obtain ⟨range, land, released⟩ := releaseAll_frame j.entries false t
          refine ⟨range, land, t.jobs.filter fun x => x.id != id, ?_, fun k ends spared =>
            getLast?_dropJobs (last k ends spared) (spared b at_ id fetch)⟩
          rw [released, whole]
          rfl
        · exact ⟨s.range, s.land, t.jobs, whole, last⟩
      case h_2 => exact ⟨s.range, s.land, t.jobs, whole, last⟩

/-! ### Numbers that a start gives -/

theorem nextId_le_takeOne (unit : MemUnit) (o : Nat × Nat × Bool) (s : State) : s.nextId ≤ (takeOne unit o s).2.nextId := by
  have tag (l : Fin 64) (k : Nat) (wr : Bool) : (tagTake l k wr s).nextId = s.nextId := by
    unfold tagTake
    dsimp only
    (repeat' split) <;> rfl
  unfold takeOne
  split
  · rw [takeEntry, tag]
    exact Nat.le_succ _
  · exact Nat.le_succ _

theorem nextId_le_takeAtStart (unit : MemUnit) (ops : List (Nat × Nat × Bool)) (had : List Nat) (s : State) :
    s.nextId ≤ (takeAtStart unit ops had s).2.nextId := by
  unfold takeAtStart
  split
  · exact Nat.le_refl _
  · refine List.foldlRecOn ops _ (motive := fun acc : List Nat × List Nat × State => s.nextId ≤ acc.2.2.nextId)
      (Nat.le_refl _) fun acc reached o _ => ?_
    dsimp only
    split
    · exact reached.trans (nextId_le_takeOne ..)
    · split
      · exact reached
      · exact reached.trans (nextId_le_takeOne ..)

/-! ### The walk passes a descriptor -/

/-- What a tile of a context's list is known by. -/
def STile.known (t : STile) : Nat × Desc := (t.job, t.desc)

/-- Of a context, what passing a tile's descriptor keeps. -/
def Ctx.tileList (x : Ctx) : BitVec 32 × List (Nat × Desc) := (x.d, x.tiles.map STile.known)

theorem lastReached_of_tiles {n c : Fin 4} {g : Gen} {s : State} (count : 0 < g.count) (tiles : (s.ctx n c).tiles ≠ []) :
    ∃ h : Ctx → Ctx, lastReached n c g s = modCtx n c h s ∧ ∀ x, (h x).tileList = x.tileList := by
  have sits (x : Ctx) (k : Nat) : (x.tiles.mapIdx fun i t =>
      if i + 1 = k then { t with armSig := g.sig, lastOfGen := true } else t).map STile.known =
      x.tiles.map STile.known := by
    refine List.ext_getElem (by simp) fun i _ _ => ?_
    simp only [List.getElem_map, List.getElem_mapIdx]
    split <;> rfl
  unfold lastReached
  dsimp only
  rw [if_pos ⟨count, by simpa using tiles⟩, modCtx_modCtx]
  refine ⟨_, rfl, fun x => ?_⟩
  split <;> exact Prod.ext rfl (sits x _)

/-- The walk past a tile's descriptor: a block may be given up, and the context's list keeps its tiles. -/
theorem passDesc_of_tile {n c : Fin 4} {d : Desc} {g : Gen} {s : State} (gen : (s.ctx n c).gen = some g) (tile : dKind d ≠ 15)
    (tiles : (s.ctx n c).tiles ≠ []) :
    ∃ h : Ctx → Ctx, passDesc n c d true s = modCtx n c h (if dLast d then dropBlock g s else s) ∧
      ∀ x, (h x).tileList = x.tileList := by
  have kept : ((dropBlock g s).ctx n c).tiles ≠ [] := by rwa [ctx_dropBlock]
  unfold passDesc
  rw [gen]
  dsimp only
  rw [if_neg tile]
  split
  case isTrue last =>
    exact lastReached_of_tiles (g := { g with count := g.count + 1 }) (Nat.succ_pos _) kept
  case isFalse more =>
    exact ⟨_, rfl, fun x => rfl⟩

/-! ### A descriptor that starts -/

theorem ctx_descMark (n c m k : Fin 4) (s : State) : (Claims.descMark n c s).ctx m k = s.ctx m k := by
  by_cases own : m = n
  · subst own
    simp [State.ctx, Claims.descMark, modStrm]
  · have other : n.val ≠ m.val := fun same => own (Fin.ext same.symm)
    simp [State.ctx, Claims.descMark, modStrm, other]

theorem startDesc_of_starts {n c : Fin 4} {s : State} {g : Gen} {addr : Nat} {d : Desc} (starts : Claims.descStarts s n c g addr d)
    {kinds : Nat → Bool} (kind : kinds (dKind d) = true) :
    startDesc kinds n c s = if dTile d then startTile n c addr d (Claims.descMark n c s)
      else idleCtx n c (passDesc n c d false (Claims.descMark n c s)) := by
  obtain ⟨-, next, issue, first, before, go⟩ := starts
  have ahead : (s.ctxOrder.takeWhile (· ≠ c)).any (fun k => s.descGo n k != .no) = false :=
    List.any_eq_false.mpr fun k mem => by simp [before k mem]
  unfold startDesc
  dsimp only
  rw [next]
  dsimp only
  have free : (!s.mayIssue || decide (s.strm[n].descAt = s.now + 1) || !kinds (dKind d) ||
      (s.ctxOrder.takeWhile (· ≠ c)).any (fun k => s.descGo n k != .no)) = false := by
    rw [issue, decide_eq_false first, kind, ahead]
    rfl
  rw [if_neg (Bool.eq_false_iff.mp free), go]
  rfl

/-- The requests of the index array of a tile. -/
def indexLines (n : Fin 4) (id : Nat) (es : List Nat) (d : Desc) : List LineReq :=
  if dIndexed d then readLines id 1 (.strm n) (tileEntries d es).2.2 (dIdxAddr d) (4 * dRows d) else []

/-- `s` once the tile of descriptor `d` has joined context `c`, with the entries `es`, in cycle `now`. -/
def tileJoined (n c : Fin 4) (addr : Nat) (d : Desc) (g : Gen) (now : Nat) (es : List Nat) (s : State) : State :=
  let j := addJob (.tile n c d addr) es g.seq (some g.thread) (dSig d) s
  modCtx n c (fun x => { x with d := x.d + 1, tiles := x.tiles ++ [⟨j.1, d, addr, false, none, false⟩] })
    (modJob j.1 (fun j => { j with due := now }) j.2)

theorem startTile_eq {n c : Fin 4} {addr : Nat} {d : Desc} {g : Gen} {s : State} (gen : (s.ctx n c).gen = some g) :
    let u := takeAtStart (.strm n) (dRanges d) [] s
    let v := passDesc n c d true (tileJoined n c addr d g s.now u.1 u.2)
    startTile n c addr d s = settleTile u.2.nextId (if dIndexed d
      then addRead u.2.nextId 1 (.strm n) (tileEntries d u.1).2.2 (dIdxAddr d) (4 * dRows d) v else v) := by
  intro u v
  unfold startTile
  dsimp only
  rw [gen]
  rfl

theorem asks_index (n : Fin 4) (id : Nat) (es : List Nat) (d : Desc) (s : State) :
    s.Asks (if dIndexed d then addRead id 1 (.strm n) (tileEntries d es).2.2 (dIdxAddr d) (4 * dRows d) s else s) id
      (indexLines n id es d) := by
  rw [indexLines]
  split
  · exact asks_addRead ..
  · exact .refl _ _

/-- A tile's job is its state's last. -/
theorem tileJoined_last (n c : Fin 4) (addr : Nat) (d : Desc) (g : Gen) (now : Nat) (es : List Nat) (s : State) :
    (tileJoined n c addr d g now es s).jobs.getLast? = some
      ⟨s.nextId, .tile n c d addr, [], 0, 0, 0, none, es, g.seq, some g.thread, dSig d, false, 0, now⟩ :=
  lastJob_modJob (s := (addJob (.tile n c d addr) es g.seq (some g.thread) (dSig d) s).2)
    (List.getLast?_concat (l := s.jobs)) rfl _

theorem tileJoined_ctx_other {n c m k : Fin 4} (other : (m, k) ≠ (n, c)) (addr : Nat) (d : Desc) (g : Gen) (now : Nat)
    (es : List Nat) (s : State) : (tileJoined n c addr d g now es s).ctx m k = s.ctx m k :=
  ctx_modCtx_other n c _ _ other

theorem dIndexed_eq {d : Desc} {k : Nat} (kind : dKind d = k) (tile : k = 1 ∨ k = 2 ∨ k = 3) : dIndexed d = decide (k ≠ 1) := by
  obtain rfl | rfl | rfl := tile <;> rw [dIndexed, kind] <;> rfl

theorem tileStarts {i : Fin 4 → Fin 4 → Instr} {k : Nat} (tile : k = 1 ∨ k = 2 ∨ k = 3)
    (row : ∀ n c s, exec (i n c) s = .next (startDesc (kindOr k) n c s)) : Claims.TileStarts i k := by
  intro n c s g addr d starts kind old u
  have marked (m k : Fin 4) : (Claims.descMark n c s).ctx m k = s.ctx m k := ctx_descMark ..
  have isTile : dTile d = true := by
    obtain rfl | rfl | rfl := tile <;> rw [dTile, kind] <;> rfl
  have gen : ((Claims.descMark n c s).ctx n c).gen = some g := (congrArg Ctx.gen (marked n c)).trans starts.1
  have runs : exec (i n c) s = .next (startTile n c addr d (Claims.descMark n c s)) := by
    rw [row, startDesc_of_starts starts (by rw [kindOr, kind, beq_self_eq_true, Bool.true_or]), if_pos isTile]
  have numbers : s.nextId ≤ u.2.nextId := nextId_le_takeAtStart (.strm n) (dRanges d) [] (Claims.descMark n c s)
  have taken := takeAtStart_taken (.strm n) (dRanges d) [] (Claims.descMark n c s)
  have whole := startTile_eq (addr := addr) (d := d) gen
  dsimp only at whole
  change ∃ range nextId high land, u.2 = _ at taken
  change startTile n c addr d (Claims.descMark n c s) = settleTile u.2.nextId (if dIndexed d
    then addRead u.2.nextId 1 (.strm n) (tileEntries d u.1).2.2 (dIdxAddr d) (4 * dRows d)
      (passDesc n c d true (tileJoined n c addr d g s.now u.1 u.2))
    else passDesc n c d true (tileJoined n c addr d g s.now u.1 u.2)) at whole
  generalize u.1 = es at *
  generalize u.2 = v at *
  obtain ⟨mem, vec, tiles, opa, fab, gal, reqs, ctx⟩ : v.mem = s.mem ∧ v.vec = s.vec ∧ v.tile = s.tile ∧ v.opa = s.opa ∧
      v.fab = s.fab ∧ v.gal = s.gal ∧ v.reqs = s.reqs ∧ ∀ m k, v.ctx m k = s.ctx m k := by
    obtain ⟨range, nextId, high, land, rfl⟩ := taken
    exact ⟨rfl, rfl, rfl, rfl, rfl, rfl, rfl, marked⟩
  obtain ⟨new, asked, lines⟩ := asks_index n v.nextId es d (passDesc n c d true (tileJoined n c addr d g s.now es v))
  rw [asked] at whole
  have joined : (tileJoined n c addr d g s.now es v).ctx n c =
      { s.ctx n c with d := (s.ctx n c).d + 1, tiles := (s.ctx n c).tiles ++ [⟨v.nextId, d, addr, false, none, false⟩] } := by
    rw [← ctx n c]
    exact ctx_modCtx_same ..
  obtain ⟨h, passes, keeps⟩ := passDesc_of_tile (d := d) (g := g) (s := tileJoined n c addr d g s.now es v)
    (by rw [joined]; exact starts.1) (by rw [kind]; omega) (by rw [joined]; simp)
  have spared : g.spares ⟨v.nextId, .tile n c d addr, [], 0, 0, 0, none, es, g.seq, some g.thread, dSig d, false, 0, s.now⟩ :=
    fun b at_ id fetch same => absurd (old b at_ id fetch) (by rw [← same]; exact Nat.not_lt.mpr numbers)
  obtain ⟨range, land, jobs, dropped, last⟩ : ∃ range land jobs,
      (if dLast d then dropBlock g (tileJoined n c addr d g s.now es v) else tileJoined n c addr d g s.now es v) =
        { tileJoined n c addr d g s.now es v with
          range := range, land := land, jobs := jobs, reqs := if dLast d then g.leaves s.reqs else s.reqs } ∧
      jobs.getLast? = some
        ⟨v.nextId, .tile n c d addr, [], 0, 0, 0, none, es, g.seq, some g.thread, dSig d, false, 0, s.now⟩ := by
    rw [← show (tileJoined n c addr d g s.now es v).reqs = s.reqs from reqs]
    split
    · obtain ⟨range, land, jobs, frame, ends⟩ := dropBlock_frame g (tileJoined n c addr d g s.now es v)
      exact ⟨range, land, jobs, frame, ends _ (tileJoined_last ..) spared⟩
    · exact ⟨_, _, _, rfl, tileJoined_last ..⟩
  rw [passes, dropped] at whole
  have list : (h ((tileJoined n c addr d g s.now es v).ctx n c)).tileList =
      ((s.ctx n c).d + 1, (s.ctx n c).tiles.map STile.known ++ [(v.nextId, d)]) := by
    rw [keeps, joined]
    exact Prod.ext rfl List.map_append
  have given_up : (dropBlock g s).reqs = g.leaves s.reqs := by
    obtain ⟨range, land, jobs, frame, -⟩ := dropBlock_frame g s
    rw [frame]
  obtain ⟨left, ends⟩ := State.Asks.lastJob
    (s := modCtx n c h { tileJoined n c addr d g s.now es v with
      range := range, land := land, jobs := jobs, reqs := if dLast d then g.leaves s.reqs else s.reqs })
    ⟨new, rfl, lines⟩ last
  refine ⟨_, runs.trans (congrArg Host.Outcome.next whole), ?_, ?_, ⟨_, ends, rfl, rfl, rfl, rfl, rfl⟩, ⟨new, ?_, ?_, ?_⟩, ?_⟩
  · refine (congrArg Ctx.d (ctx_modCtx_same ..)).trans ?_
    exact congrArg Prod.fst list
  · refine (congrArg (fun x : Ctx => x.tiles.map STile.known) (ctx_modCtx_same ..)).trans ?_
    exact congrArg Prod.snd list
  · rw [given_up]
    rfl
  · refine (map_unnumbered lines fun _ => rfl).trans ?_
    rw [indexLines, dIndexed_eq kind tile]
    by_cases copy : k = 1
    · rw [if_pos copy, if_neg (by simp [copy])]
      rfl
    · rw [if_neg copy, if_pos (by simp [copy])]
      exact askLines_pieces ..
  · refine forall_unnumbered lines (fun q mem => ?_) fun _ own => own
    rw [indexLines] at mem
    split at mem
    · obtain ⟨own, tag, unit, -, wr⟩ := mem_readLines mem
      exact ⟨own, unit, wr, tag⟩
    · exact absurd mem List.not_mem_nil
  · refine ⟨mem, vec, tiles, opa, fab, gal, fun m k other => ?_⟩
    refine (ctx_modCtx_other n c h _ other).trans ?_
    exact (tileJoined_ctx_other other ..).trans (ctx m k)

/-! ### NOP and JUMP -/

theorem lastSeen_of_next {x : Ctx} {g : Gen} {addr : Nat} {d : Desc} (gen : x.gen = some g) (next : x.nextDesc? = some (addr, d)) :
    g.lastSeen = false := by
  unfold Ctx.nextDesc? at next
  rw [gen] at next
  dsimp only at next
  split at next
  · cases next
  · exact Bool.eq_false_iff.mpr ‹_›

/-- A context whose walk goes on stays as it is. -/
theorem idleCtx_of_walking {n c : Fin 4} {s : State} (walking : ∀ g, (s.ctx n c).gen = some g → g.lastSeen = false) :
    idleCtx n c s = s := by
  refine modCtx_self ?_
  split
  case h_1 g gen => exact if_neg (by simp [walking g gen])
  case h_2 => rfl

theorem st_of_start {n c : Fin 4} {s : State} (go : s.descGo n c = .start) : (s.ctx n c).st = .active := by
  by_contra idle
  rw [State.descGo, if_pos idle] at go
  cases go

section

variable {n c : Fin 4} {s : State} {g : Gen} {d : Desc}

/-- The block that a walk at `g` asks for as it passes a descriptor. -/
def Gen.fetchAfter (g : Gen) (now : Nat) : Option (Nat × Nat × Option Nat) :=
  match g.block with
  | some (b, _) => if (g.next - b) / 64 % 16 = 8 then some (b + 64 * ((g.next - b) / 64 + 8), now, none) else g.fetch
  | none => g.fetch

theorem passDesc_of_nop (gen : (s.ctx n c).gen = some g) (kind : dKind d = 0) (more : dLast d = false) :
    passDesc n c d false s =
      modCtx n c (fun x => { x with gen := some { g with next := g.next + 64, fetch := g.fetchAfter s.now } }) s := by
  unfold passDesc
  rw [gen]
  dsimp only
  rw [kind, if_neg (by decide), more]
  rfl

theorem passDesc_of_jump (gen : (s.ctx n c).gen = some g) (kind : dKind d = 15) :
    passDesc n c d false s = modCtx n c (fun x => { x with
      gen := some { g with next := dSrc d, block := none, fetch := some (dSrc d, s.now, none) } }) (dropBlock g s) := by
  unfold passDesc
  rw [gen]
  dsimp only
  rw [kind, if_pos rfl]
  rfl

theorem passDesc_of_last (gen : (s.ctx n c).gen = some g) (kind : dKind d = 0) (last : dLast d = true) :
    passDesc n c d false s = lastReached n c g (dropBlock g s) := by
  unfold passDesc
  rw [gen]
  dsimp only
  rw [kind, if_neg (by decide), last]
  rfl

/-- The last descriptor of a generation without tiles to wait for, and with none behind it. -/
theorem lastReached_of_empty (empty : (s.ctx n c).tiles = []) (alone : (s.ctx n c).pend = none) :
    lastReached n c g s = modCtx n c (fun x => { x with gen := some { g with lastSeen := true, fetch := none } })
      (signalOpt g.sig (modCtx n c (fun x => { x with gens := x.gens + 1 }) s)) := by
  unfold lastReached
  dsimp only
  rw [if_neg (by simp [empty])]
  refine modCtx_congr ?_
  rw [ctx_signalOpt, ctx_modCtx_same, alone]

end

end Sys2Proof.Machine

namespace Sys2Proof
open Sys2Proof.Machine

/-- Settles O34. -/
theorem streamDescriptors : Obligations.StreamDescriptors := by
  refine ⟨tileStarts (by decide) fun _ _ _ => rfl, tileStarts (by decide) fun _ _ _ => rfl,
    tileStarts (by decide) fun _ _ _ => rfl, fun n c s g addr d starts => ?_⟩
  have unseen := lastSeen_of_next starts.1 starts.2.1
  have gen : ((Claims.descMark n c s).ctx n c).gen = some g := (congrArg Ctx.gen (ctx_descMark ..)).trans starts.1
  have plain {k : Nat} (kind : dKind d = k) (other : k = 0 ∨ k = 15) :
      startDesc (kindOr k) n c s = idleCtx n c (passDesc n c d false (Claims.descMark n c s)) := by
    rw [startDesc_of_starts starts (by rw [kindOr, kind, beq_self_eq_true, Bool.true_or])]
    refine if_neg ?_
    obtain rfl | rfl := other <;> rw [dTile, kind] <;> decide
  refine ⟨fun kind more => ?_, fun kind => ?_, fun kind last alone empty => ?_⟩
  · refine ⟨_, g.fetchAfter s.now, congrArg Host.Outcome.next ((plain kind (.inl rfl)).trans (idleCtx_of_walking ?_)), ?_, ?_⟩
    · intro h same
      rw [passDesc_of_nop gen kind more, ctx_modCtx_same] at same
      cases same
      exact unseen
    · exact passDesc_of_nop gen kind more
    · intro b ds block
      rw [Gen.fetchAfter, block]
  · refine congrArg Host.Outcome.next ((plain kind (.inr rfl)).trans ?_)
    rw [passDesc_of_jump gen kind]
    refine idleCtx_of_walking fun h same => ?_
    rw [ctx_modCtx_same] at same
    cases same
    exact unseen
  · have ctx : (dropBlock g (Claims.descMark n c s)).ctx n c = s.ctx n c := (ctx_dropBlock ..).trans (ctx_descMark ..)
    have active : (s.ctx n c).st = .active := st_of_start starts.2.2.2.2.2
    refine congrArg Host.Outcome.next ((plain kind (.inl rfl)).trans ?_)
    rw [passDesc_of_last gen kind last, lastReached_of_empty (by rw [ctx, empty]) (by rw [ctx, alone]), idleCtx, modCtx_modCtx]
    refine modCtx_congr ?_
    rw [ctx_signalOpt, ctx_modCtx_same, ctx]
    exact if_pos ⟨active, rfl, by rw [empty]; rfl, by rw [alone]; rfl⟩

end Sys2Proof


/-! ## Blocks, tiles and held contexts of a stream -/

namespace Sys2Proof.Machine

/-! ### Descriptor blocks -/

theorem requestBlock_of_due {n c : Fin 4} {s : State} {g : Gen} {b at_ : Nat} (gen : (s.ctx n c).gen = some g)
    (fetch : g.fetch = some (b, at_, none)) (active : (s.ctx n c).st = .active) (due : at_ ≤ s.now) (room : s.rangeFull = false)
    (issues : s.isBubble = false) :
    let e := takeEntry b (b + 1023) false (.strm n) none s
    let j := addJob (.block n c b) [e.1] g.seq (some g.thread) none e.2
    ∃ new, requestBlock n c s = modCtx n c (fun x => { x with gen := some { g with fetch := some (b, s.now, some (s.nextId + 1)) } })
        (j.2.requesting (s.nextId + 1) new) ∧
      new.map LineReq.unnumbered = readLines (s.nextId + 1) 0 (.strm n) (some s.nextId) b 1024 := by
  intro e j
  obtain ⟨new, asked, lines⟩ := asks_addRead (s.nextId + 1) 0 (.strm n) (some s.nextId) b 1024 j.2
  refine ⟨new, ?_, lines⟩
  have takes : (decide ((s.ctx n c).st = .active) && decide (at_ ≤ s.now) && !s.rangeFull && !s.isBubble) = true := by
    rw [active, room, issues, decide_eq_true due]
    rfl
  have now : ((j.2).requesting (s.nextId + 1) new).now = s.now := rfl
  rw [← asked] at now ⊢
  unfold requestBlock
  dsimp only
  rw [gen]
  dsimp only
  rw [fetch]
  dsimp only
  rw [if_pos takes]
  refine modCtx_congr ?_
  exact congrArg (fun now => { (addRead (s.nextId + 1) 0 (.strm n) (some s.nextId) b 1024 j.2).ctx n c with
    gen := some { g with fetch := some (b, now, some (s.nextId + 1)) } }) now

theorem blockUsable_of_read {n c : Fin 4} {s : State} {g : Gen} {base k id : Nat} {j : Job} (gen : (s.ctx n c).gen = some g)
    (fetch : g.fetch = some (base, k, some id)) (job : s.job? id = some j) (read : j.left = 0) (due : k + 12 ≤ s.now)
    (clocked : s.clocked = true) :
    blockUsable n c s = dropJob id (modCtx n c (fun x => { x with gen := some { g with
      block := some (match g.block with
        | some (b, old) => if base = b + 64 * old.length then (b, old ++ blockDescs j base) else (base, blockDescs j base)
        | none => (base, blockDescs j base)), fetch := none } }) s) := by
  unfold blockUsable
  rw [gen]
  dsimp only
  rw [fetch]
  dsimp only
  rw [job]
  exact if_pos ⟨due, clocked, read⟩

/-! ### Tiles that complete -/

section

variable {n c : Fin 4} {s : State} {t : STile} {j : Job}

/-- `s` once the tile `t` of context `c`, of job `j`, counts as complete. -/
def tileDone (n c : Fin 4) (t : STile) (j : Job) (s : State) : State :=
  modCtx n c (fun x => { x with tiles := x.tiles.map fun y => if y.job = t.job then { y with complete := true } else y })
    (dropJob t.job (releaseAll j.entries true s))

theorem tileComplete_of_arrived
    (first : (s.ctx n c).tiles.find? (fun t => s.tileArrived t && !(s.ctx n c).holds t.job) = some t)
    (walking : (s.ctx n c).st ≠ .cancelling) (job : s.job? t.job = some j) :
    tileComplete n c s = idleCtx n c (signalTiles n c ((s.ctx n c).tiles.length + 1) (tileDone n c t j s)) := by
  unfold tileComplete
  dsimp only
  rw [first]
  dsimp only
  rw [if_neg walking, job]
  rfl

theorem tileDone_eq {l : List STile}
    (tiles : ((s.ctx n c).tiles.map fun y => if y.job = t.job then { y with complete := true } else y) = l) :
    tileDone n c t j s = modCtx n c (fun x => { x with tiles := l }) (dropJob t.job (releaseAll j.entries true s)) := by
  have same : (dropJob t.job (releaseAll j.entries true s)).ctx n c = s.ctx n c := ctx_releaseAll ..
  exact modCtx_congr (by rw [same, tiles])

theorem ctx_ended (l : List STile) : (modCtx n c (fun x => { x with tiles := l }) (dropJob t.job (releaseAll j.entries true s))).ctx n c =
    { s.ctx n c with tiles := l } := by
  have same : (dropJob t.job (releaseAll j.entries true s)).ctx n c = s.ctx n c := ctx_releaseAll ..
  rw [ctx_modCtx_same, same]

/-- A tile that waits for another signals nothing. -/
theorem signalTiles_of_waiting {y : STile} {l : List STile} (tiles : (s.ctx n c).tiles = y :: l) (waits : y.complete = false)
    (fuel : Nat) : signalTiles n c fuel s = s := by
  cases fuel with
  | zero => rfl
  | succ fuel =>
    unfold signalTiles
    dsimp only
    rw [tiles]
    exact if_neg (by simp [waits])

theorem signalTiles_of_empty (tiles : (s.ctx n c).tiles = []) (fuel : Nat) : signalTiles n c fuel s = s := by
  cases fuel with
  | zero => rfl
  | succ fuel =>
    unfold signalTiles
    dsimp only
    rw [tiles]

/-- The only tile of a list, complete, signals. -/
theorem signalTiles_of_last (tiles : (s.ctx n c).tiles = [t]) (complete : t.complete = true) (fuel : Nat) :
    signalTiles n c (fuel + 1) s = modCtx n c (fun x => { x with tiles := [], gens := if t.lastOfGen then x.gens + 1 else x.gens })
      (signalOpt t.armSig (signalOpt (if dFill t.desc then some (s.ctx n c).fill else none) (signalOpt (dSig t.desc) s))) := by
  have fill : (if dFill t.desc then signal (s.ctx n c).fill.toNat (signalOpt (dSig t.desc) s) else signalOpt (dSig t.desc) s) =
      signalOpt (if dFill t.desc then some (s.ctx n c).fill else none) (signalOpt (dSig t.desc) s) := by
    split <;> rfl
  unfold signalTiles
  dsimp only
  rw [tiles]
  dsimp only
  rw [if_pos complete, fill]
  exact signalTiles_of_empty (congrArg Ctx.tiles (ctx_modCtx_same ..)) fuel

end

/-! ### STRMn_CTL -/

theorem ctx_answered (n c : Fin 4) (o : Originator) (p : Page) (s : State) : (Claims.answered o p s).ctx n c = s.ctx n c := by
  cases o <;> rfl

theorem mem_answered (o : Originator) (p : Page) (s : State) : (Claims.answered o p s).mem = s.mem := by
  cases o <;> rfl

def strmCtlMask : BitVec 64 := bitsMask 0 2 ||| bitsMask 8 2

theorem regRow_strmCtl {n : Fin 4} {o : Originator} {s : State} (h : Claims.writes o (Page.strm n) 0x40 s) (v : BitVec 64) :
    regRow o (Page.strm n) 0x40 v s = .next (Claims.answered o (Page.strm n) (strmCtl n (v &&& strmCtlMask) s)) := by
  obtain rfl | rfl | rfl | rfl : n = 0 ∨ n = 1 ∨ n = 2 ∨ n = 3 := by omega
  all_goals
    exact regRow_effect h (by decide) (m := strmCtlMask) (by simp [regFields, woOnly, Access3.all, Page.strm, strmCtlMask])
      (by decide) rfl

theorem strmCtl_context {i : Nat} (above : (put i 1).toNat % 2 ^ 2 = 0) {v : BitVec 64} {c : Fin 4} (context : v.toNat % 4 = c.val) :
    Fin.ofNat 4 (fld (setBit i v &&& strmCtlMask) 0 2) = c := by
  have same : (setBit i v).toNat % 2 ^ 2 = c.val := by
    rw [setBit, BitVec.toNat_or, Nat.or_mod_two_pow, above, Nat.or_zero]
    exact context
  rw [fld_zero_and_field (by decide), same]
  exact Fin.ofNat_val_eq_self c

/-- A context that is HELD resumes: `t` is what the tiles that start again leave, the walk under way. -/
theorem resumeCtx_of_held {n c : Fin 4} {s : State} (held : (s.ctx n c).st = .held)
    {t : State} (restarts : (s.ctx n c).held.foldl (fun s h => match h.1 with | some id => restartTile n id s | none => s)
      (modCtx n c (fun x => { x with st := .active, held := [] }) s) = t)
    (walking : ∀ g, (t.ctx n c).gen = some g → g.lastSeen = false) : resumeCtx n c s = t := by
  have stays : modCtx n c (fun x => match x.gen, x.pend with
      | some g, some p => if g.lastSeen then { x with gen := some { p with fetch := some (p.next, t.now, none) }, pend := none } else x
      | _, _ => x) t = t := by
    refine modCtx_self ?_
    split
    case h_1 g p gen _ => exact if_neg (by simp [walking g gen])
    case h_2 => rfl
  subst restarts
  unfold resumeCtx
  dsimp only
  rw [if_neg (not_not_intro held)]
  exact (congrArg (idleCtx n c) stays).trans (idleCtx_of_walking walking)

theorem strmCtl_of_resume {n c : Fin 4} {v : BitVec 64} {s : State} (context : Fin.ofNat 4 (fld v 0 2) = c)
    (held : (s.ctx n c).st = .held) (resume : bitAt v 8 = true) : strmCtl n v s = resumeCtx n c s := by
  unfold strmCtl
  dsimp only
  rw [context, if_neg (not_not_intro held), if_pos resume]

theorem strmCtl_of_discard {n c : Fin 4} {v : BitVec 64} {s : State} (context : Fin.ofNat 4 (fld v 0 2) = c)
    (held : (s.ctx n c).st = .held) (stays : bitAt v 8 = false) (discard : bitAt v 9 = true) :
    strmCtl n v s = cancelCtx n c s := by
  unfold strmCtl
  dsimp only
  rw [context, if_neg (not_not_intro held), if_neg (by simp [stays]), if_pos discard]

theorem restartTile_of_copy {n : Fin 4} {id : Nat} {s : State} {j : Job} {d : Desc} {m c : Fin 4} {a : Nat}
    (job : s.job? id = some j) (kind : j.kind = .tile m c d a) (copy : dKind d = 1) :
    restartTile n id s = settleTile id (modJob id (fun j => { j with next := 0, buf := [], bad := none, sent := 0 }) s) := by
  have plain : dIndexed d = false := by rw [dIndexed, copy]; rfl
  unfold restartTile
  rw [job]
  dsimp only
  rw [kind]
  dsimp only
  rw [plain]
  rfl

end Sys2Proof.Machine

namespace Sys2Proof
open Sys2Proof.Machine

/-- Settles O35. -/
theorem streamProgress : Obligations.StreamProgress := by
  intro n c s x
  refine ⟨fun g b at_ gen fetch active due room issues => ?_, fun g base k id j gen fetch job read due clocked => ?_,
    fun t j tiles arrived free walking job => ?_, fun t y j tiles waits behind arrived free other walking job => ?_,
    fun o v h context held walking => ?_⟩
  · obtain ⟨new, requests, lines⟩ := requestBlock_of_due gen fetch active due room issues
    intro s'
    change s' = _ at requests
    rw [requests]
    refine ⟨rfl, ⟨new, rfl, (map_unnumbered lines fun _ => rfl).trans (askLines_pieces ..), ?_⟩, rfl, rfl⟩
    refine forall_unnumbered lines (fun q mem => ?_) fun _ own => own
    obtain ⟨own, -, unit, entry, wr⟩ := mem_readLines mem
    exact ⟨own, unit, entry, wr⟩
  · refine ⟨_, congrArg Host.Outcome.next (blockUsable_of_read gen fetch job read due clocked), fun empty => ?_, fun a old block => ?_⟩
    · rw [empty]
      rfl
    · rw [block]
      rfl
  · have first : x.tiles.find? (fun t => s.tileArrived t && !x.holds t.job) = some t := by
      rw [tiles, List.find?_cons_of_pos (by simp [arrived, free])]
    have done : tileDone n c t j s = _ := tileDone_eq (l := [{ t with complete := true }]) (by
      rw [tiles, List.map_singleton, if_pos rfl])
    refine congrArg Host.Outcome.next ((tileComplete_of_arrived first walking job).trans (congrArg (idleCtx n c) ?_))
    rw [done, signalTiles_of_last (congrArg Ctx.tiles (ctx_ended _)) rfl, ctx_ended]
  · have first : x.tiles.find? (fun t => s.tileArrived t && !x.holds t.job) = some t := by
      rw [tiles, List.find?_cons_of_neg (by simp [behind]), List.find?_cons_of_pos (by simp [arrived, free])]
    have done : tileDone n c t j s = _ := tileDone_eq (l := [y, { t with complete := true }]) (by
      rw [tiles, List.map_cons, List.map_singleton, if_neg other, if_pos rfl])
    refine congrArg Host.Outcome.next ((tileComplete_of_arrived first walking job).trans ?_)
    rw [done, signalTiles_of_waiting (congrArg Ctx.tiles (ctx_ended _)) waits]
    refine modCtx_self ?_
    rw [ctx_ended]
    split
    · exact if_neg (by simp)
    · rfl
  · intro active
    have ctx : active.ctx n c = { x with st := .active, held := [] } := ctx_modCtx_same ..
    have resumes : exec (.strmResume o n v) s = .next (Claims.answered o (Page.strm n) (resumeCtx n c s)) :=
      (regRow_strmCtl h (setBit 8 v)).trans (by
        rw [strmCtl_of_resume (strmCtl_context (by decide) context) held (bitAt_setBit_and (by decide) (by decide) v)])
    refine ⟨fun idle => ?_, ?_, fun plain => ?_⟩
    · rw [resumes, resumeCtx_of_held held (t := active) ?_ fun g gen => walking g (by rw [ctx] at gen; exact gen)]
      refine List.foldlRecOn x.held _ (motive := fun t => t = active) rfl fun t same a mem => ?_
      rw [same, idle a mem]
    · intro id a j d b stopped job kind copy from0 unseen
      rw [resumes, resumeCtx_of_held held (t := from0) ?_ unseen]
      rw [show (s.ctx n c).held = _ from stopped]
      exact restartTile_of_copy (s := active) job kind copy
    · have walk := walk_cancelCtx (n := n) (c := c) (s := s) (by rw [held]; decide)
      have cancels : exec (.strmDiscard o n v) s = .next (Claims.answered o (Page.strm n) (cancelCtx n c s)) :=
        (regRow_strmCtl h (setBit 9 v)).trans (by
          rw [strmCtl_of_discard (strmCtl_context (by decide) context) held
            ((bitAt_setBit_and_ne (by decide) (by decide) v).trans (by rw [plain]; decide))
            (bitAt_setBit_and (by decide) (by decide) v)])
      refine ⟨_, cancels, ?_, ?_, ?_, ?_⟩
      · rw [ctx_answered]
        exact congrArg Ctx.st walk
      · rw [ctx_answered]
        exact congrArg Ctx.gen walk
      · rw [ctx_answered]
        exact congrArg Ctx.held walk
      · exact (mem_answered ..).trans (KeptByStops.cancelCtx (π := State.mem) (fun _ _ _ _ _ _ _ _ _ => rfl) n c s)

end Sys2Proof


/-! ## The slots of the fabric port -/

namespace Sys2Proof.Machine

section

variable {s : State} (clocked : s.clocked = true) (up : s.fab.link = .up) (unused : s.fab.slotUsed = false)
include clocked up unused

theorem fabIssue_of_free : fabIssue s = match s.wheelClass with
    | 0 => s
    | 3 => sendRemote s
    | k =>
      if s.fabLimited then s
      else match s.wheelPick (k == 1) with
        | some (i, x) =>
          let s := modFab (fun f => { f with slotUsed := true }) s
          if s.fabLacks x then fabUnsupported i x s else spendSlot i x s
        | none => s :=
  if_neg (by simp [clocked, up, unused])

/-- A slot goes to the transfer that the wheel picks. -/
theorem fabIssue_of_pick {k : Nat} (cls : s.wheelClass = k) (local_ : k = 1 ∨ k = 2) (free : s.fabLimited = false) {i : Nat} {x : Xfer}
    (pick : s.wheelPick (k == 1) = some (i, x)) (has : s.fabLacks x = false) :
    fabIssue s = spendSlot i x (modFab (fun f => { f with slotUsed := true }) s) := by
  have issue : fabIssue s = if s.fabLimited then s else match s.wheelPick (k == 1) with
      | some (i, x) =>
        let s := modFab (fun f => { f with slotUsed := true }) s
        if s.fabLacks x then fabUnsupported i x s else spendSlot i x s
      | none => s := by
    rw [fabIssue_of_free clocked up unused, cls]
    obtain rfl | rfl := local_ <;> rfl
  rw [issue, free, if_neg Bool.false_ne_true, pick]
  exact if_neg (Bool.eq_false_iff.mp has)

theorem fabIssue_of_remote (cls : s.wheelClass = 3) : fabIssue s = sendRemote s := by
  rw [fabIssue_of_free clocked up unused, cls]
  rfl

end

theorem noteOut_frame (h : Holder) (s : State) :
    ∃ high strm, noteOut h s = { s with fab := { s.fab with outHigh := high }, strm := strm } := by
  unfold noteOut
  dsimp only
  split
  · exact ⟨_, _, rfl⟩
  · exact ⟨_, s.strm, rfl⟩

/-- The first slot of a read sends its request. -/
theorem spendSlot_of_read {s : State} {i : Nat} {x : Xfer} {dst : Nat} (read : x.kind = .read dst) (first : x.sent = 0)
    (untagged : x.tag = none) (waits : x.done = false) :
    ∃ high strm, spendSlot i x s = { s with
      fab := { s.fab with
        outHigh := high, credits := s.fab.credits.set 0 (s.fab.credits[0] - 1),
        xfers := (s.fab.xfers.modify i fun y => { y with tag := some s.freeTag }).modify i fun y => { y with sent := y.sent + 1 },
        tx := s.fab.tx ++ [.rdReq s.freeTag.val x.addr x.len] },
      strm := strm } := by
  have reads : x.isRead = true := by rw [Xfer.isRead, read]
  obtain ⟨high, strm, noted⟩ := noteOut_frame x.holder (modFab (fun f => { f with credits := f.credits.set 0 (f.credits[0] - 1) })
    (modXfer i (fun y => { y with tag := some s.freeTag }) s))
  refine ⟨high, strm, ?_⟩
  simp only [spendSlot, waits, Bool.false_eq_true, if_false, untagged, Option.getD_none, Option.isNone_none, if_true, reads, read,
    first]
  rw [noted]
  simp only [drive, modFab, modXfer] <;> rfl

/-- The last slot of a tile's write sends its bytes. -/
theorem spendSlot_of_write {s : State} {i : Nat} {x : Xfer} {n k : Fin 4} {id src : Nat} {adv : Option Advance} {m : Fin 512} {j : Job}
    (write : x.kind = .write src adv) (holder : x.holder = .strm n k id) (tag : x.tag = some m) (waits : x.done = false)
    (last : x.sent + 1 = x.slots) (free : s.fab.rate = 0) (job : s.job? id = some j) :
    spendSlot i x s = drive (.wr m.val x.addr (bufBytes j.buf x.addr.toNat x.len) adv)
      ((modFab (fun f => { f with sent := f.sent + 1 }) (modXfer i (fun y => { y with sent := y.sent + 1 }) s)).spend .fabLine
        j.thread 1) := by
  let u := modXfer i (fun y => { y with sent := y.sent + 1 }) s
  have own : x.job? = some id := by rw [Xfer.job?, holder]
  have thread : u.holderThread x.holder = j.thread := by
    rw [holder]
    exact congrArg (Option.bind · Job.thread) job
  have unlimited : payToken (modFab (fun f => { f with sent := f.sent + 1 }) u) =
      modFab (fun f => { f with sent := f.sent + 1 }) u := if_pos free
  have found : ((modFab (fun f => { f with sent := f.sent + 1 }) u).spend .fabLine j.thread 1).job? id = some j := job
  change (if x.done then _ else _) = _
  simp only [waits, Bool.false_eq_true, if_false, tag, Option.getD_some, Option.isNone_some, write, last, if_true]
  rw [show payToken (modFab (fun f => { f with sent := f.sent + 1 }) (modXfer i (fun y => { y with sent := y.sent + 1 }) s)) = _
    from unlimited, thread, own, Option.bind_some, found, holder]

/-- The first line of the oldest response. -/
theorem sendRemote_of_first {s : State} {r : RemoteRsp} {rest : List RemoteRsp} (oldest : s.fab.remote = r :: rest)
    (credit : 0 < s.fab.credits[2]) (first : r.sent = 0) :
    sendRemote s = drive (.rdRsp r.tag 0 (r.data.take 128)) (modFab (fun f => { f with
      slotUsed := true, sent := f.sent + 1, credits := f.credits.set 2 (f.credits[2] - 1),
      remote := if r.data.length ≤ 128 then rest else { r with sent := 1 } :: rest }) (s.spend .fabLine none 1)) := by
  have credited : ¬(s.fab.credits[2] = 0 ∧ r.sent = 0) := fun none => by omega
  unfold sendRemote
  rw [oldest]
  dsimp only
  rw [if_neg credited, first]
  rfl

end Sys2Proof.Machine

namespace Sys2Proof
open Sys2Proof.Machine

/-- Settles O37, each class of slot by what `fabIssue` comes to there. -/
theorem fabricSlots : Obligations.FabricSlots := by
  intro s f
  refine ⟨fun clocked up unused => ⟨?_, ?_, ?_⟩, rfl, rfl, rfl⟩
  · intro i x dst cls pick read first untagged waits
    have free : s.fabLimited = false := by rw [State.fabLimited, cls]; simp
    have issue := fabIssue_of_pick clocked up unused cls (.inl rfl) free pick (by rw [State.fabLacks, read])
    obtain ⟨high, strm, spends⟩ := spendSlot_of_read (s := modFab (fun f => { f with slotUsed := true }) s) (i := i) read first
      untagged waits
    rw [spends] at issue
    exact ⟨_, congrArg Host.Outcome.next issue, rfl, rfl, rfl, rfl, rfl, rfl⟩
  · intro i x m n k id src adv cls rate pick write holder tag waits has last j job
    have free : s.fabLimited = false := by rw [State.fabLimited, rate]; rfl
    have issue := fabIssue_of_pick clocked up unused cls (.inr rfl) free pick has
    have spends := spendSlot_of_write (s := modFab (fun f => { f with slotUsed := true }) s) (i := i) write holder tag waits last
      rate job
    rw [spends] at issue
    refine (congrArg Host.Outcome.next issue :).trans ?_
    simp only [drive, modFab, modXfer, State.spend] <;> rfl
  · intro r rest cls oldest credit first
    exact congrArg Host.Outcome.next ((fabIssue_of_remote clocked up unused cls).trans (sendRemote_of_first oldest credit first))

end Sys2Proof


/-! ## The registers of the windows, of the fabric port and of the relay entries -/

namespace Sys2Proof.Machine

theorem regIx_entry {base k n i off : Nat} (inside : i < n) (some_width : 0 < k) (offset : off = base + k * i) :
    regIx base k n off = some i := by
  have below : k * i < k * n := Nat.mul_lt_mul_of_pos_left inside some_width
  rw [regIx, offset, Nat.add_sub_cancel_left, if_pos ⟨by omega, by omega, Nat.mul_mod_right k i⟩, Nat.mul_div_cancel_left i some_width]

/-! ### Windows -/

/-- The fields of WIN_CTL. -/
def winCtlMask : BitVec 64 := bitsMask 0 6 ||| bitsMask 8 5 ||| bitsMask 16 1

/-- The fields of WIN_BASE, WIN_TGT and WIN_SRC. -/
def winFieldMask : Fin 3 → BitVec 64
  | 0 => bitsMask 12 34
  | 1 => bitsMask 0 45 ||| bitsMask 48 13
  | 2 => bitsMask 0 23 ||| bitsMask 32 23

theorem winCtl_ix (w : Fin 64) : regIx 0x100 8 256 (0x100 + 32 * w.val) = some (4 * w.val) :=
  regIx_entry (by omega) (by decide) (by omega)

theorem winField_ix (w : Fin 64) (f : Fin 3) : regIx 0x100 8 256 (0x108 + 32 * w.val + 8 * f.val) = some (4 * w.val + (1 + f.val)) :=
  regIx_entry (by omega) (by decide) (by omega)

theorem regFields_win {b : Build} {off : Nat} (own : 0x40 ≤ off) : regFields b .win off = winFields off := if_neg (by omega)

theorem winCtl_fields (b : Build) (w : Fin 64) : (regFields b .win (0x100 + 32 * w.val)).all = winCtlMask := by
  have first : 4 * w.val % 4 = 0 := Nat.mul_mod_right 4 w
  rw [regFields_win (by omega), winFields, winCtl_ix]
  simp [first, Access3.all, winCtlMask]

theorem winField_fields (b : Build) (w : Fin 64) (f : Fin 3) :
    (regFields b .win (0x108 + 32 * w.val + 8 * f.val)).all = winFieldMask f := by
  have place : (4 * w.val + (1 + f.val)) % 4 = 1 + f.val := by omega
  rw [regFields_win (by omega), winFields, winField_ix]
  dsimp only
  rw [place]
  obtain rfl | rfl | rfl : f = 0 ∨ f = 1 ∨ f = 2 := by omega
  all_goals simp [Access3.all, rwOnly, winFieldMask]

theorem winWrite_ctl (w : Fin 64) (v : BitVec 64) (s : State) : winWrite (0x100 + 32 * w.val) v s = winCtl w v s := by
  have first : 4 * w.val % 4 = 0 := Nat.mul_mod_right 4 w
  have window : Fin.ofNat 64 (4 * w.val / 4) = w := by
    rw [Nat.mul_div_cancel_left _ (by decide)]
    exact Fin.ofNat_val_eq_self w
  rw [winWrite, winCtl_ix]
  dsimp only
  rw [if_pos first, window]

theorem winWrite_field (w : Fin 64) (f : Fin 3) (v : BitVec 64) (s : State) :
    winWrite (0x108 + 32 * w.val + 8 * f.val) v s = winField w f.val v s := by
  have place : (4 * w.val + (1 + f.val)) % 4 = 1 + f.val := by omega
  have window : Fin.ofNat 64 ((4 * w.val + (1 + f.val)) / 4) = w := by
    rw [show (4 * w.val + (1 + f.val)) / 4 = w.val by omega]
    exact Fin.ofNat_val_eq_self w
  rw [winWrite, winField_ix]
  dsimp only
  rw [place, if_neg (by omega), window, Nat.add_sub_cancel_left]

/-- Window `x` with what a write of `v` to its WIN_CTL gives it. -/
def Window.withCtl (x : Window) (v : BitVec 64) : Window := { x with
  en := v.toNat % 2 = 1, sync := v.toNat / 2 % 2 = 1, rd := v.toNat / 4 % 2 = 1, wr := v.toNat / 8 % 2 = 1,
  atom := v.toNat / 16 % 2 = 1, cntEn := v.toNat / 32 % 2 = 1, ports := BitVec.ofNat 5 (v.toNat / 2 ^ 8) }

theorem winCtl_and_mask (w : Fin 64) (v : BitVec 64) (s : State) : winCtl w (v &&& winCtlMask) s =
    if decide (v.toNat / 2 ^ 16 % 2 = 1) ≠ s.win.windows[w].en then countEvt .win 2 s
    else if (s.win.windows[w].withCtl v).en then
      if winBad s w (s.win.windows[w].withCtl v) then countEvt .win 1 s else setWin w (s.win.windows[w].withCtl v) s
    else if s.win.windows[w].en then
      setWin w (s.win.windows[w].withCtl v) { s with win := { s.win with closing := s.win.closing ++ [(w, s.win.windows[w])] } }
    else setWin w (s.win.windows[w].withCtl v) s := by
  have en : bitAt (v &&& winCtlMask) 0 = decide (v.toNat % 2 = 1) := bitAt_zero_and_field (by decide) v
  have sync : bitAt (v &&& winCtlMask) 1 = decide (v.toNat / 2 % 2 = 1) := bitAt_and_field (by decide) v
  have rd : bitAt (v &&& winCtlMask) 2 = decide (v.toNat / 4 % 2 = 1) := bitAt_and_field (by decide) v
  have wr : bitAt (v &&& winCtlMask) 3 = decide (v.toNat / 8 % 2 = 1) := bitAt_and_field (by decide) v
  have atom : bitAt (v &&& winCtlMask) 4 = decide (v.toNat / 16 % 2 = 1) := bitAt_and_field (by decide) v
  have counter : bitAt (v &&& winCtlMask) 5 = decide (v.toNat / 32 % 2 = 1) := bitAt_and_field (by decide) v
  have expect : bitAt (v &&& winCtlMask) 16 = decide (v.toNat / 2 ^ 16 % 2 = 1) := bitAt_and_field (by decide) v
  have ports : (v &&& winCtlMask).extractLsb' 8 5 = BitVec.ofNat 5 (v.toNat / 2 ^ 8) := extractLsb'_and_field (by decide) v
  rw [winCtl, en, sync, rd, wr, atom, counter, expect, ports]
  rfl

/-- What a write of WIN_CTL that is not refused does with the window `y` it gives. -/
theorem winWrite_taken {w : Fin 64} {y : Window} {s : State} (good : y.en = true → winBad s w y = false) :
    (if y.en then if winBad s w y then countEvt .win 1 s else setWin w y s
    else if s.win.windows[w].en then
      setWin w y { s with win := { s.win with closing := s.win.closing ++ [(w, s.win.windows[w])] } }
    else setWin w y s) =
    { s with win := { s.win with
      windows := s.win.windows.set w y,
      closing := s.win.closing ++ (if s.win.windows[w].en = true ∧ y.en = false then [(w, s.win.windows[w])] else []) } } := by
  by_cases en : y.en = true
  · rw [if_pos en, if_neg (Bool.eq_false_iff.mp (good en)), if_neg (fun off => Bool.eq_false_iff.mp off.2 en), List.append_nil]
    rfl
  · rw [if_neg en]
    by_cases was : s.win.windows[w].en = true
    · rw [if_pos was, if_pos ⟨was, Bool.eq_false_iff.mpr en⟩]
      rfl
    · rw [if_neg was, if_neg (fun on => was on.1), List.append_nil]
      rfl

/-! ### Relay entries -/

theorem pageWrite_gal (m : Bool) (g : Fin 4) (off : Nat) (v : BitVec 64) (s : State) :
    pageWrite m (Page.gal g) off v s = galWrite g off v s := by
  fin_cases g <;> rfl

theorem regFields_gal {b : Build} {off : Nat} (g : Fin 4) (own : 0x40 ≤ off) : regFields b (Page.gal g) off = galFields off := by
  have fields : ¬off < 0x40 := by omega
  fin_cases g <;> simp [regFields, fields, Page.gal]

theorem galRelay_ix (e : Fin 16) : regIx 0x100 8 32 (0x100 + 16 * e.val) = some (2 * e.val) :=
  regIx_entry (by omega) (by decide) (by omega)

theorem galRelay_fields (b : Build) (g : Fin 4) (e : Fin 16) :
    (regFields b (Page.gal g) (0x100 + 16 * e.val)).all = relayMask := by
  have entry : galFields (0x100 + 16 * e.val) = rwOnly relayMask := by fin_cases e <;> rfl
  simp [regFields_gal g (show 0x40 ≤ 0x100 + 16 * e.val by omega), entry, rwOnly, Access3.all]

theorem galWrite_relay (g : Fin 4) (e : Fin 16) (v : BitVec 64) (s : State) :
    galWrite g (0x100 + 16 * e.val) v s = galRelay g e false v s := by
  fin_cases e <;> rfl

theorem and_relayMask_twice (v : BitVec 64) : v &&& relayMask &&& relayMask = v &&& relayMask := by
  rw [BitVec.and_assoc, BitVec.and_self]

theorem relEn_eq (v : BitVec 64) : relEn v = decide (v.toNat % 2 = 1) := by
  rw [relEn, bitAt_eq_div]
  simp

theorem relEn_and_relayMask (v : BitVec 64) : relEn (v &&& relayMask) = decide (v.toNat % 2 = 1) :=
  bitAt_zero_and_field (by decide) v

/-- A write of GAL_RELAY of an entry that is disabled. -/
theorem galRelay_of_disabled {g : Fin 4} {e : Fin 16} {v : BitVec 64} {s : State} (disabled : s.gal[g].relay[e].toNat % 2 = 0)
    (good : v.toNat % 2 = 1 → relayBad s g e (v &&& relayMask) = false) :
    galRelay g e false (v &&& relayMask) s = modGal g (fun x => { x with relay := x.relay.set e (v &&& relayMask) }) s := by
  have off : relEn s.gal[g].relay[e] = false := by rw [relEn_eq, disabled]; rfl
  have ok : (relEn (v &&& relayMask) && relayBad s g e (v &&& relayMask)) = false := by
    rw [relEn_and_relayMask, Bool.and_eq_false_imp]
    exact fun on => good (of_decide_eq_true on)
  unfold galRelay
  simp only [Bool.false_eq_true, if_false, and_relayMask_twice, off, ok]

/-- A write of GAL_RELAY that disables an entry which no tile follows. -/
theorem galRelay_disables {g : Fin 4} {e : Fin 16} {v : BitVec 64} {s : State} (enabled : s.gal[g].relay[e].toNat % 2 = 1)
    (clears : v.toNat % 2 = 0) (free : s.relayBusy g e = false) :
    galRelay g e false (v &&& relayMask) s =
      modGal g (fun x => { x with relay := x.relay.set e (s.gal[g].relay[e] &&& ~~~1) }) s := by
  have on : relEn s.gal[g].relay[e] = true := by rw [relEn_eq, enabled]; rfl
  have off : relEn (v &&& relayMask) = false := by rw [relEn_and_relayMask]; simp [clears]
  unfold galRelay
  simp only [Bool.false_eq_true, if_false, if_true, and_relayMask_twice, on, off, free]

end Sys2Proof.Machine

namespace Sys2Proof
open Sys2Proof.Machine

/-- Settles O42: each row by `regRow_effect`, from what its register does. -/
theorem linkRegisters : Obligations.LinkRegisters := by
  intro o s v
  refine ⟨fun w h => ?ctl, fun w h off => ?base, fun w f h on => ?locked, fun h down => ?fabId, fun h idle => ?wheel, fun g e h => ?relay⟩
  case ctl =>
    intro x y
    have row := regRow_effect h (by omega) (winCtl_fields s.build w) (by decide) (v := v)
      ((winWrite_ctl w _ s).trans (winCtl_and_mask w v s))
    refine ⟨fun expected good => row.trans ?_, fun stale => row.trans ?_⟩
    · rw [if_neg (not_not.mpr expected), winWrite_taken (y := x.withCtl v) good]
      rfl
    · rw [if_pos stale]
  case base =>
    refine regRow_effect h (by omega) (winField_fields s.build w 0) (by decide) ((winWrite_field w 0 _ s).trans ?_)
    have base : (v &&& winFieldMask 0).extractLsb' 12 28 = BitVec.ofNat 28 (v.toNat / 2 ^ 12) := extractLsb'_and_field (by decide) v
    have log2 : (v &&& winFieldMask 0).extractLsb' 40 6 = BitVec.ofNat 6 (v.toNat / 2 ^ 40) := extractLsb'_and_field (by decide) v
    refine (if_neg (Bool.eq_false_iff.mp off) : winField w 0 (v &&& winFieldMask 0) s = _).trans ?_
    rw [base, log2]
    rfl
  case locked =>
    refine regRow_effect h (by omega) (winField_fields s.build w f) ?_ ((winWrite_field w f _ s).trans (if_pos on))
    fin_cases f <;> decide
  case fabId =>
    refine regRow_effect h (by decide) (m := bitsMask 0 23) (by simp [regFields, rwOnly, Access3.all]) (by decide) ?_
    refine (if_neg (Bool.eq_false_iff.mp down) : fabId _ s = _).trans ?_
    have node : (v &&& bitsMask 0 23).extractLsb' 0 16 = BitVec.ofNat 16 v.toNat :=
      (extractLsb'_and_field (by decide) v).trans (by rw [Nat.pow_zero, Nat.div_one])
    have die : (v &&& bitsMask 0 23).extractLsb' 16 3 = BitVec.ofNat 3 (v.toNat / 2 ^ 16) := extractLsb'_and_field (by decide) v
    have cluster : (v &&& bitsMask 0 23).extractLsb' 19 4 = BitVec.ofNat 4 (v.toNat / 2 ^ 19) := extractLsb'_and_field (by decide) v
    rw [node, die, cluster]
    rfl
  case wheel =>
    refine regRow_effect h (by decide) (m := bitsMask 0 32) (by simp [regFields, rwOnly, Access3.all]) (by decide) ?_
    refine (if_neg idle : fabWheel _ s = _).trans ?_
    have word : (v &&& bitsMask 0 32).extractLsb' 0 32 = BitVec.ofNat 32 v.toNat :=
      (extractLsb'_and_field (by decide) v).trans (by rw [Nat.pow_zero, Nat.div_one])
    rw [word]
    rfl
  case relay =>
    intro x y
    have row {s' : State} (effect : galRelay g e false (v &&& relayMask) s = s') :
        exec (.galRelayWrite o g e false v) s = .next (Claims.answered o (Page.gal g) s') :=
      regRow_effect h (by omega) (galRelay_fields s.build g e) (by decide)
        ((pageWrite_gal _ g _ _ s).trans ((galWrite_relay g e _ s).trans effect))
    exact ⟨fun disabled good => row (galRelay_of_disabled disabled good),
      fun enabled clears free => row (galRelay_disables enabled clears free)⟩

end Sys2Proof


/-! ## The moves of a Landing -/

namespace Sys2Proof.Machine

/-! ### Rings, slots and transfers -/

theorem ring_setSlot_same (l : Fin 64) (k : Nat) (f : Slot → Slot) (s : State) :
    (setSlot l k f s).ring l = { s.ring l with slots := (s.ring l).slots.modify k f } :=
  Vector.getElem_set_self l.isLt

theorem modRing_self {l : Fin 64} {s : State} {f : Ring → Ring} (same : f (s.ring l) = s.ring l) : modRing l f s = s := by
  have kept : s.land.rings.set l (f (s.ring l)) = s.land.rings := by rw [same]; exact Vector.set_getElem_self l.isLt
  unfold modRing
  rw [show f s.land.rings[l] = f (s.ring l) from rfl, kept]

theorem getElem?_modify_same {α : Type} {a : List α} {k : Nat} {x : α} (found : a[k]? = some x) (f : α → α) :
    (a.modify k f)[k]? = some (f x) := by
  simp [List.getElem?_modify, found]

theorem getElem?_modify_other {α : Type} {a : List α} {i k : Nat} (other : i ≠ k) (f : α → α) : (a.modify k f)[i]? = a[i]? := by
  simp [List.getElem?_modify, other.symm]

theorem foldl_addXfer {α : Type} (x : Nat → α → Xfer) (ps : List α) (s : State) :
    ps.foldl (fun s p => addXfer (x s.now p) s) s = { s with fab := { s.fab with xfers := s.fab.xfers ++ ps.map (x s.now) } } := by
  induction ps generalizing s with
  | nil => simp
  | cons p ps ih =>
    rw [List.foldl_cons, ih]
    simp only [addXfer, List.map_cons, List.append_assoc, List.singleton_append]

/-- Entries that hold no slot leave only the range table. -/
theorem releaseAll_of_unslotted {ids : List Nat} {s : State} (free : ∀ e ∈ s.range, e.id ∈ ids → e.slot = none) (ok : Bool) :
    ∃ range, releaseAll ids ok s = { s with range := range } := by
  induction ids generalizing s with
  | nil => exact ⟨s.range, rfl⟩
  | cons id ids ih =>
    have one : ∃ range, release id ok s = { s with range := range } ∧ ∀ e ∈ range, e.id ∈ ids → e.slot = none := by
      unfold release
      split
      · exact ⟨s.range, rfl, fun e m own => free e m (List.mem_cons_of_mem id own)⟩
      · next e found =>
        have own : e.id = id := by
          have holds := List.find?_some found
          simp only [Bool.and_eq_true, beq_iff_eq] at holds
          exact holds.1
        have none_held : e.slot = none := free e (List.mem_of_find?_eq_some found) (own ▸ List.mem_cons_self)
        dsimp only
        rw [none_held]
        refine ⟨_, rfl, fun x m mine => ?_⟩
        obtain ⟨y, held, rfl⟩ := List.mem_map.mp m
        by_cases same : y.id = id
        · rw [if_pos same] at mine ⊢
          exact free y held (List.mem_cons_of_mem id mine)
        · rw [if_neg same] at mine ⊢
          exact free y held (List.mem_cons_of_mem id mine)
    obtain ⟨range, first, still⟩ := one
    obtain ⟨last, rest⟩ := ih (s := { s with range := range }) still
    refine ⟨last, ?_⟩
    rw [show releaseAll (id :: ids) ok s = releaseAll ids ok (release id ok s) from rfl, first, rest]

/-! ### Moves that start -/

/-- The write of a spilled piece, and the read of a refilled one. -/
def spillXfer (l : Fin 64) (id now : Nat) (p : Nat × Nat) : Xfer :=
  ⟨.landing l id, .write 0 none, BitVec.ofNat 64 p.1, p.2, 0, none, 0, now, false⟩
def refillXfer (l : Fin 64) (id lo base now : Nat) (p : Nat × Nat) : Xfer :=
  ⟨.landing l id, .read (lo + (p.1 - base)), BitVec.ofNat 64 p.1, p.2, 0, none, 0, now, false⟩

/-- Ring `l` of `s` once move `m` of slot `k` has started, which makes of the slot what `f` gives. -/
def State.moving (s : State) (l : Fin 64) (k : Nat) (f : Slot → Slot) (m : LandXfer) : Land :=
  (modRing l (fun r => { r with xfer := some m }) (setSlot l k f s)).land

theorem ring_moving {l : Fin 64} {k : Nat} {f : Slot → Slot} {m : LandXfer} {s t : State} (land : t.land = s.moving l k f m) :
    t.ring l = { s.ring l with slots := (s.ring l).slots.modify k f, xfer := some m } := by
  have ring : t.ring l = (modRing l (fun r => { r with xfer := some m }) (setSlot l k f s)).ring l :=
    congrArg (fun a : Land => a.rings[l]) land
  rw [ring, modRing_ring, if_pos rfl, ring_setSlot_same]

/-- What a spill that is due starts. -/
theorem spillStart_of_due {l : Fin 64} {k : Nat} {s : State} {x : Slot} (due : s.nextMove l = some (.spill k))
    (found : (s.ring l).slots[k]? = some x) :
    let r := s.ring l
    ∃ new jobs nextId ush, new.map LineReq.unnumbered = readLines (s.nextId + 1) 0 .landing (some s.nextId) (r.slotAddr k) r.slotBytes ∧
      spillStart l s = { s with
        reqs := s.reqs ++ new, jobs := jobs, nextId := nextId, ush := ush,
        range := s.range ++ [⟨s.nextId, r.slotAddr k, r.slotAddr k + r.slotBytes - 1, false, .landing, none, true⟩],
        fab := { s.fab with xfers := s.fab.xfers ++
          (pieces s.xferBlock (r.entryAddr x.entry) r.slotBytes).map (spillXfer l (s.nextId + 1) s.now) },
        land := s.moving l k (fun x => { x with tag := .spilling }) ⟨true, x.entry, k, s.nextId + 1, false⟩ } := by
  intro r
  obtain ⟨t, taken⟩ : ∃ t, t = takeEntry (r.slotAddr k) (r.slotAddr k + r.slotBytes - 1) false .landing none s := ⟨_, rfl⟩
  obtain ⟨j, added⟩ : ∃ j, j = addJob (.spill l) [t.1] 0 none none t.2 := ⟨_, rfl⟩
  obtain ⟨u, read⟩ : ∃ u, u = addRead j.1 0 .landing (some t.1) (r.slotAddr k) r.slotBytes
      (modJob j.1 (fun y => { y with top := x.entry.toNat }) j.2) := ⟨_, rfl⟩
  have reads := asks_addRead j.1 0 .landing (some t.1) (r.slotAddr k) r.slotBytes (modJob j.1 (fun y => { y with top := x.entry.toNat }) j.2)
  have start : spillStart l s = modRing l (fun r => { r with xfer := some ⟨true, x.entry, k, j.1, false⟩ })
      (setSlot l k (fun x => { x with tag := .spilling })
        ((pieces u.xferBlock (r.entryAddr x.entry) r.slotBytes).foldl (fun s p => addXfer (spillXfer l j.1 s.now p) s) u)) := by
    unfold spillStart
    rw [due]
    simp only [found, read, r, taken, added] <;> rfl
  rw [← read] at reads
  have whole := reads.frame
  obtain ⟨new, asked, lines⟩ := reads.reqs
  rw [foldl_addXfer, whole, asked] at start
  subst added taken
  exact ⟨new, _, _, _, lines, start⟩

/-- What a refill that is due starts. -/
theorem refillStart_of_due {l : Fin 64} {e : BitVec 32} {s : State} (due : s.nextMove l = some (.refill e)) :
    let r := s.ring l
    let k := r.slotFor e
    ∃ jobs nextId ush, refillStart l s = { s with
      jobs := jobs, nextId := nextId, ush := ush,
      range := s.range ++ [⟨s.nextId, r.slotAddr k, r.slotAddr k + r.slotBytes - 1, true, .landing, none, true⟩],
      fab := { s.fab with xfers := s.fab.xfers ++
        (pieces s.xferBlock (r.entryAddr e) r.slotBytes).map fun p => refillXfer l (s.nextId + 1) (r.slotAddr k) (r.entryAddr e) s.now p },
      land := s.moving l k (fun x => { x with tag := .refilling, entry := e }) ⟨false, e, k, s.nextId + 1, false⟩ } := by
  intro r k
  obtain ⟨t, taken⟩ : ∃ t, t = takeEntry (r.slotAddr k) (r.slotAddr k + r.slotBytes - 1) true .landing none s := ⟨_, rfl⟩
  obtain ⟨j, added⟩ : ∃ j, j = addJob (.refill l) [t.1] 0 none none t.2 := ⟨_, rfl⟩
  have start : refillStart l s = modRing l (fun r => { r with xfer := some ⟨false, e, k, j.1, false⟩ })
      (setSlot l k (fun x => { x with tag := .refilling, entry := e })
        ((pieces s.xferBlock (r.entryAddr e) r.slotBytes).foldl
          (fun s p => addXfer (refillXfer l j.1 (r.slotAddr k) (r.entryAddr e) s.now p) s) j.2)) := by
    unfold refillStart
    rw [due]
    subst added taken
    rfl
  rw [foldl_addXfer] at start
  subst added taken
  exact ⟨_, _, _, start⟩

/-! ### Moves that end -/

theorem settleSpill_eq (l : Fin 64) (id : Nat) (s : State) :
    ∃ xfer, settleSpill l id s = modRing l (fun r => { r with xfer := xfer }) s := by
  have kept : ∃ xfer, s = modRing l (fun r => { r with xfer := xfer }) s := ⟨(s.ring l).xfer, (modRing_self rfl).symm⟩
  unfold settleSpill
  split
  · split
    · exact ⟨none, rfl⟩
    · exact kept
  · exact kept

/-- The slots of a ring after slot `k`, which it has, was given the value `x`. -/
theorem getElem?_modify_const {α : Type} {a : List α} {k : Nat} (inside : k < a.length) (x : α) :
    (a.modify k fun _ => x)[k]? = some x :=
  getElem?_modify_same (List.getElem?_eq_getElem inside) _

/-- Ring `l` once the move `x` of it has ended with the slot `y`, the entries `region` outside, and `m` in progress. -/
def State.moved (s : State) (l : Fin 64) (x : LandXfer) (y : Slot) (region : List (BitVec 32 × Bool)) (m : Option LandXfer) :
    Vector Ring 64 :=
  s.land.rings.set l { s.ring l with slots := (s.ring l).slots.modify x.slot fun _ => y, region := region, xfer := m }

theorem ring_moved {l : Fin 64} {x : LandXfer} {y : Slot} {region : List (BitVec 32 × Bool)} {m : Option LandXfer} {s t : State}
    (rings : t.land.rings = s.moved l x y region m) :
    t.ring l = { s.ring l with slots := (s.ring l).slots.modify x.slot fun _ => y, region := region, xfer := m } := by
  rw [State.ring, rings]
  exact Vector.getElem_set_self l.isLt

/-- `s` when the last read of the spill `x` of ring `l` is usable, before its occurrence is counted. -/
def State.spilled (s : State) (l : Fin 64) (x : LandXfer) (range : List RangeEntry) (jobs : List Job) : State :=
  { s with
    range := range, jobs := jobs,
    land := { s.land with
      spills := s.land.spills + 1,
      rings := s.moved l x emptySlot ((s.ring l).region ++ [(x.entry, false)]) (some { x with hallDone := true }) } }

section

variable {l : Fin 64} {s : State} {x : LandXfer} {j : Job} (moving : (s.ring l).xfer = some x) (job : s.job? x.job = some j)
  (left : j.left = 0) (voided : j.voided = false) (unslotted : ∀ e ∈ s.range, e.id ∈ j.entries → e.slot = none)
include moving job left voided unslotted

theorem spillReadDone_of_read (spill : x.spill = true) (reading : x.hallDone = false) :
    ∃ range jobs xfer, spillReadDone l s =
      modRing l (fun r => { r with xfer := xfer }) (countEvt .land 3 (s.spilled l x range jobs)) := by
  obtain ⟨range, released⟩ := releaseAll_of_unslotted unslotted true
  obtain ⟨jobs, kept⟩ : ∃ jobs, modJob j.id (fun j => { j with entries := [] }) (releaseAll j.entries true s) =
      { s with range := range, jobs := jobs } := ⟨_, by rw [released]; rfl⟩
  have ends : (x.spill && !x.hallDone && j.left == 0 && !j.voided) = true := by simp [spill, reading, left, voided]
  obtain ⟨xfer, settled⟩ := settleSpill_eq l x.job (countEvt .land 3 (s.spilled l x range jobs))
  refine ⟨range, jobs, xfer, Eq.trans ?_ settled⟩
  unfold spillReadDone
  rw [moving]
  dsimp only
  rw [job]
  dsimp only
  rw [if_pos ends, kept]
  simp [modRing, setSlot, State.ring, State.spilled, State.moved]

theorem refillDone_of_written (refill : x.spill = false) (written : s.outOf j.id = 0) :
    ∃ range jobs, refillDone l s = { s with
      range := range, jobs := jobs,
      land := { s.land with
        refills := s.land.refills + 1,
        rings := s.moved l x ⟨.full, x.entry, 0, 0, true⟩ ((s.ring l).region.filter fun p => p.1 != x.entry) none } } := by
  have ends : (!x.spill && j.left == 0 && s.outOf j.id == 0 && !j.voided) = true := by simp [refill, left, voided, written]
  obtain ⟨t, full⟩ : ∃ t : State, t = { s with land := { s.land with
      refills := s.land.refills + 1,
      rings := s.moved l x ⟨.full, x.entry, 0, 0, true⟩ ((s.ring l).region.filter fun p => p.1 != x.entry) none } } := ⟨_, rfl⟩
  obtain ⟨range, released⟩ := releaseAll_of_unslotted (s := t) (ids := j.entries) (by rw [full]; exact unslotted) true
  have done : refillDone l s = dropJob j.id (releaseAll j.entries true t) := by
    unfold refillDone
    rw [moving]
    dsimp only
    rw [job]
    dsimp only
    rw [if_pos ends, full]
    simp [modRing, setSlot, State.ring, State.moved]
  refine ⟨range, s.jobs.filter fun x => x.id != j.id, ?_⟩
  rw [done, released, full] <;> rfl

end

theorem spillAck_of_settled {l : Fin 64} {s : State} {j : Job} (alone : s.jobs = [j]) (kind : j.kind = .spill l)
    (voided : j.voided = false) (left : j.left = 0) (settled : s.outOf j.id = 0)
    (waits : ∃ e, (e, false) ∈ (s.ring l).region ∧ e.toNat = j.top) :
    ∃ xfer, spillAck l s = dropJob j.id (modRing l (fun r => { r with
      region := r.region.map fun p => if p.1.toNat = j.top then (p.1, true) else p, xfer := xfer }) s) := by
  obtain ⟨e, out, top⟩ := waits
  have entry : ((s.ring l).region.any fun p => p.1.toNat == j.top && !p.2) = true :=
    List.any_eq_true.mpr ⟨(e, false), out, by simp [top]⟩
  refine ⟨match (s.ring l).xfer with | some x => if x.job = j.id then none else some x | none => none, ?_⟩
  unfold spillAck
  rw [alone]
  simp only [List.find?_cons, kind, voided, left, settled, entry, beq_self_eq_true, Bool.not_false, Bool.and_true]
  rfl

end Sys2Proof.Machine

namespace Sys2Proof
open Sys2Proof.Machine

/-- Settles O47: each move by what its row comes to. -/
theorem landingMoves : Obligations.LandingMoves := by
  intro l s r slot
  refine ⟨fun k x due found => ?spill, fun x j moving job spill reading left voided inside unslotted => ?read,
    fun j alone kind voided left settled waits => ?ack, fun e x due found => ?refill,
    fun x j moving job refill left voided written inside unslotted => ?done⟩
  case spill =>
    obtain ⟨new, jobs, nextId, ush, lines, start⟩ := spillStart_of_due due found
    have ring := ring_moving (s := s) (t := spillStart l s) (l := l) (by rw [start])
    have slots (i : Nat) : slot (spillStart l s) i = (r.slots.modify k fun x => { x with tag := .spilling })[i]? :=
      congrArg (fun r : Ring => r.slots[i]?) ring
    refine ⟨spillStart l s, s.nextId + 1, rfl, (slots k).trans (getElem?_modify_same found _),
      fun i other => (slots i).trans (getElem?_modify_other other _), by rw [ring], by rw [start], ⟨new, by rw [start], ?_, ?_⟩,
      by rw [start], _, by rw [start], ?_, ?_⟩
    · exact (map_unnumbered lines fun _ => rfl).trans (askLines_pieces ..)
    · refine forall_unnumbered lines (fun q mem => ?_) fun q own => own
      obtain ⟨own, -, unit, entry, wr⟩ := mem_readLines mem
      exact ⟨own, unit, wr, entry⟩
    · rw [List.map_map]
      rfl
    · intro y mem
      obtain ⟨p, -, rfl⟩ := List.mem_map.mp mem
      exact ⟨rfl, rfl⟩
  case read =>
    obtain ⟨range, jobs, xfer, done⟩ := spillReadDone_of_read moving job left voided unslotted spill reading
    have ring : (spillReadDone l s).ring l = { s.ring l with
        slots := (s.ring l).slots.modify x.slot fun _ => emptySlot, region := (s.ring l).region ++ [(x.entry, false)], xfer := xfer } := by
      rw [done, modRing_ring, if_pos rfl, ring_moved (congrArg Land.rings (countEvt_land ..))]
    have slots (i : Nat) : slot (spillReadDone l s) i = (r.slots.modify x.slot fun _ => emptySlot)[i]? :=
      congrArg (fun r : Ring => r.slots[i]?) ring
    refine ⟨spillReadDone l s, rfl, (slots x.slot).trans (getElem?_modify_const inside _),
      fun i other => (slots i).trans (getElem?_modify_other other _), by rw [ring], ?_, ?_⟩
    · rw [done]
      exact congrArg Land.spills (countEvt_land ..)
    · rw [done, modRing_mem, countEvt_mem]
      rfl
  case ack =>
    obtain ⟨xfer, ack⟩ := spillAck_of_settled alone kind voided left settled waits
    have ring : (spillAck l s).ring l = { s.ring l with
        region := r.region.map fun p => if p.1.toNat = j.top then (p.1, true) else p, xfer := xfer } := by
      rw [ack]
      exact (modRing_ring l l (fun q => { q with
        region := q.region.map fun p => if p.1.toNat = j.top then (p.1, true) else p, xfer := xfer }) s).trans (if_pos rfl)
    refine ⟨spillAck l s, rfl, ?_, by rw [ring], by rw [ring], ?_⟩
    · rw [ack]
      refine (congrArg (List.filter _) alone : _ = _).trans ?_
      simp
    · rw [ack]
      rfl
  case refill =>
    obtain ⟨jobs, nextId, ush, start⟩ := refillStart_of_due due
    have ring := ring_moving (s := s) (t := refillStart l s) (l := l) (by rw [start])
    have slots (i : Nat) : slot (refillStart l s) i =
        (r.slots.modify (r.slotFor e) fun x => { x with tag := .refilling, entry := e })[i]? :=
      congrArg (fun r : Ring => r.slots[i]?) ring
    refine ⟨refillStart l s, s.nextId + 1, rfl, (slots _).trans (getElem?_modify_same found _),
      fun i other => (slots i).trans (getElem?_modify_other other _), by rw [ring], by rw [start], by rw [start], by rw [start],
      _, by rw [start], ?_, ?_⟩
    · rw [List.map_map]
      rfl
    · intro y mem
      obtain ⟨p, -, rfl⟩ := List.mem_map.mp mem
      rfl
  case done =>
    obtain ⟨range, jobs, done⟩ := refillDone_of_written moving job left voided unslotted refill written
    have ring := ring_moved (s := s) (t := refillDone l s) (l := l) (by rw [done])
    have slots (i : Nat) : slot (refillDone l s) i = (r.slots.modify x.slot fun _ => ⟨.full, x.entry, 0, 0, true⟩)[i]? :=
      congrArg (fun r : Ring => r.slots[i]?) ring
    exact ⟨refillDone l s, rfl, (slots x.slot).trans (getElem?_modify_const inside _),
      fun i other => (slots i).trans (getElem?_modify_other other _), by rw [ring], by rw [ring], by rw [done], by rw [done]⟩

end Sys2Proof


/-! ## What ends of work and faults leave alone

`s.Spares t` says of a state `t` that work which ends by fault, abort or answer makes of `s`: memory is as it was, a job-fatal
record and the event flags stand, links and receive buffers are as they were, an outbound transfer or a Gallery's tile is new
only where it has begun nothing, and no answer of a Gallery is lost. -/

namespace Sys2Proof.Machine

/-- Gallery `y` is `x` after such work. -/
structure Gal.Spares (x y : Gal) : Prop where
  link : y.link = x.link
  rx : y.rx = x.rx
  tiles : y.tiles ⊆ x.tiles
  vc2 : x.vc2 ⊆ y.vc2

structure State.Spares (s t : State) : Prop where
  mem : t.mem = s.mem
  valid : s.evt.valid = true → t.evt.valid = true
  flags : ∀ p i, (s.hdrOf p).evt.getLsbD i = true → (t.hdrOf p).evt.getLsbD i = true
  fab : t.fab = { s.fab with xfers := t.fab.xfers }
  xfers : ∀ y ∈ t.fab.xfers, y ∈ s.fab.xfers ∨ y.tag = none
  gal : ∀ g : Fin 4, s.gal[g].Spares t.gal[g]

theorem Gal.Spares.refl (x : Gal) : x.Spares x := ⟨rfl, rfl, fun _ m => m, fun _ m => m⟩

theorem Gal.Spares.trans {x y z : Gal} (h : x.Spares y) (k : y.Spares z) : x.Spares z :=
  ⟨k.link.trans h.link, k.rx.trans h.rx, fun _ m => h.tiles (k.tiles m), fun _ m => k.vc2 (h.vc2 m)⟩

theorem State.Spares.refl (s : State) : s.Spares s :=
  ⟨rfl, id, fun _ _ => id, rfl, fun _ m => .inl m, fun g => .refl s.gal[g]⟩

theorem State.Spares.trans {s t u : State} (h : s.Spares t) (k : t.Spares u) : s.Spares u where
  mem := k.mem.trans h.mem
  valid v := k.valid (h.valid v)
  flags p i f := k.flags p i (h.flags p i f)
  fab := k.fab.trans (by rw [h.fab])
  xfers y m := (k.xfers y m).elim (h.xfers y) .inr
  gal g := (h.gal g).trans (k.gal g)

/-- What `Spares` speaks of. -/
def State.sparable (s : State) : List Host.Cell × Vector PageHdr 30 × Evt × Fab × Vector Gal 4 := (s.mem, s.hdr, s.evt, s.fab, s.gal)

theorem State.Spares.of_eq {s t : State} (same : t.sparable = s.sparable) : s.Spares t := by
  injection same with mem rest
  injection rest with hdr rest
  injection rest with evt rest
  injection rest with fab gal
  refine ⟨mem, by rw [evt]; exact id, fun p i => ?_, by rw [fab], by rw [fab]; exact fun _ m => .inl m, by rw [gal]; exact fun g => .refl _⟩
  rw [State.hdrOf, State.hdrOf, hdr]
  exact id

theorem State.Spares.link {s t : State} (h : s.Spares t) : t.fab.link = s.fab.link := by rw [h.fab]

theorem State.Spares.foldl {ι : Type} {f : State → ι → State} (h : ∀ (s : State) x, s.Spares (f s x)) (l : List ι) (s : State) :
    s.Spares (l.foldl f s) :=
  List.foldlRecOn l f (motive := s.Spares) (.refl s) fun b hb x _ => hb.trans (h b x)

/-! ### Occurrences and records -/

theorem flags_setHdr {s : State} {p : Page} {h : PageHdr} {m : BitVec 32} (or : h.evt = (s.hdrOf p).evt ||| m) (q : Page) (i : Nat)
    (flag : (s.hdrOf q).evt.getLsbD i = true) : ((s.setHdr p h).hdrOf q).evt.getLsbD i = true := by
  unfold State.hdrOf State.setHdr at *
  rw [Vector.getElem_set]
  split
  · next same =>
    rw [or, BitVec.getLsbD_or]
    simp only [same, flag, Bool.true_or]
  · exact flag

theorem spares_countEvt (p : Page) (b : Nat) (s : State) : s.Spares (countEvt p b s) where
  mem := countEvt_mem ..
  valid v := (countEvt_valid ..).trans v
  flags q i f := by
    unfold countEvt
    dsimp only
    rw [State.hdrOf_noteSet]
    exact flags_setHdr rfl q i (by rwa [State.hdrOf_shiftSrc])
  fab := by rw [countEvt_fab]
  xfers y m := .inl (by rwa [countEvt_fab] at m)
  gal g := by rw [countEvt_gal]; exact .refl _

theorem spares_logEvt (p : Page) (b : Nat) (log : BitVec 64) (s : State) : s.Spares (logEvt p b log s) := by
  unfold logEvt
  dsimp only
  split
  · exact spares_countEvt p b s
  · refine (spares_countEvt p b s).trans ⟨rfl, id, fun q i => ?_, rfl, fun _ m => .inl m, fun _ => .refl _⟩
    exact flags_setHdr (m := 0) (by simp) q i

theorem spares_jobFatal (p : Page) (c : Nat) (q : BitVec 32) (s : State) : s.Spares (jobFatal p c q s) :=
  ⟨rfl, fun _ => jobFatal_valid .., fun _ _ => id, rfl, fun _ m => .inl m, fun _ => .refl _⟩

theorem spares_jobEvent (p : Page) (b c d : Nat) (s : State) : s.Spares (jobEvent p b c d s) :=
  (spares_logEvt ..).trans (spares_jobFatal ..)

/-! ### Requests, jobs, entries -/

theorem spares_modJob (id : Nat) (f : Job → Job) (s : State) : s.Spares (modJob id f s) := .of_eq rfl
theorem spares_dropJob (id : Nat) (s : State) : s.Spares (dropJob id s) := .of_eq rfl
theorem spares_dropReqs (id : Nat) (keep : LineReq → Bool) (s : State) : s.Spares (dropReqs id keep s) := .of_eq rfl
theorem spares_modCtx (n c : Fin 4) (f : Ctx → Ctx) (s : State) : s.Spares (modCtx n c f s) := .of_eq rfl
theorem spares_modRing (l : Fin 64) (f : Ring → Ring) (s : State) : s.Spares (modRing l f s) := .of_eq rfl
theorem spares_setSlot (l : Fin 64) (k : Nat) (f : Slot → Slot) (s : State) : s.Spares (setSlot l k f s) := .of_eq rfl
theorem spares_recordStartRow (e : QEntry) (row cause : Nat) (s : State) : s.Spares (recordStartRow e row cause s) := .of_eq rfl
theorem spares_ush (ush : Usher) (s : State) : s.Spares { s with ush := ush } := .of_eq rfl
theorem spares_freeIx (ix : Nat) (s : State) : s.Spares { s with freeIx := ix } := .of_eq rfl
theorem spares_modThread (t : Fin 16) (f : Thread → Thread) (s : State) : s.Spares (modThread t f s) := .of_eq rfl

theorem spares_releaseAll (ids : List Nat) (ok : Bool) (s : State) : s.Spares (releaseAll ids ok s) := by
  obtain ⟨range, land, released⟩ := releaseAll_frame ids ok s
  rw [released]
  exact .of_eq rfl

theorem State.Asks.spares {s t : State} {job : Nat} {lines : List LineReq} (h : s.Asks t job lines) : s.Spares t := by
  rw [h.frame]
  exact .of_eq rfl

/-! ### Transfers and flits -/

theorem spares_dropXfers (mine : Holder → Bool) (s : State) : s.Spares (dropXfers mine s) :=
  ⟨rfl, id, fun _ _ => id, rfl, fun _ m => .inl (List.mem_of_mem_filter m), fun _ => .refl _⟩

theorem spares_addXfer {x : Xfer} (waits : x.tag = none) (s : State) : s.Spares (addXfer x s) :=
  ⟨rfl, id, fun _ _ => id, rfl,
    fun y m => (List.mem_append.mp m).imp_right fun own => by rw [List.mem_singleton.mp own, waits], fun _ => .refl _⟩

/-- Work that changes only the Galleries, each as it may. -/
theorem spares_gal {s : State} {gal : Vector Gal 4} (h : ∀ g : Fin 4, s.gal[g].Spares gal[g]) : s.Spares { s with gal := gal } :=
  ⟨rfl, id, fun _ _ => id, rfl, fun _ m => .inl m, h⟩

theorem spares_modGal {g : Fin 4} {f : Gal → Gal} {s : State} (h : s.gal[g].Spares (f s.gal[g])) : s.Spares (modGal g f s) := by
  refine spares_gal fun k => ?_
  rw [Fin.getElem_fin, Fin.getElem_fin, Vector.getElem_set]
  split
  · next same =>
    obtain rfl := Fin.ext same
    exact h
  · exact .refl _

theorem spares_addTx (g : Fin 4) (f : TxFlit) (s : State) : s.Spares (addTx g f s) :=
  spares_modGal ⟨rfl, rfl, fun _ m => m, fun _ m => m⟩

theorem spares_sendVc2 (g : Fin 4) (f : OutFlit) (s : State) : s.Spares (sendVc2 g f s) :=
  spares_modGal ⟨rfl, rfl, fun _ m => m, fun _ m => List.mem_append_left _ m⟩

theorem spares_dropFlits (id : Nat) (s : State) : s.Spares (dropFlits id s) := by
  refine spares_gal fun g => ?_
  rw [Fin.getElem_fin, Fin.getElem_fin, Vector.getElem_map]
  exact ⟨rfl, rfl, fun _ m => m, fun _ m => m⟩

/-! ### Stops of the engines -/

theorem spares_reapTile (id : Nat) (s : State) : s.Spares (reapTile id s) := by
  unfold reapTile
  split
  · split
    · split
      · exact ((spares_releaseAll ..).trans (spares_dropJob ..)).trans (spares_modCtx ..)
      · exact .refl s
    · exact .refl s
  · exact .refl s

theorem spares_reapMove (id : Nat) (s : State) : s.Spares (reapMove id s) :=
  .of_eq (KeptByMoveEnds.reapMove (π := State.sparable) (fun _ _ _ _ _ _ _ => rfl) id s)

theorem spares_stopRows (j : Job) (s : State) : s.Spares (stopRows j s).2 := by
  unfold stopRows
  split
  · exact .refl s
  · dsimp only
    split
    · exact spares_dropReqs ..
    · exact .refl s

theorem spares_stopTiles (s : State) : s.Spares (stopTiles s) := by
  refine .foldl (fun s j => ?_) s.jobs s
  have rows := spares_stopRows j s
  split
  · exact .refl s
  · split
    · exact .refl s
    · split <;> rename_i stopped <;> rw [stopped] at rows
      · exact rows
      · exact ((rows.trans (spares_recordStartRow ..)).trans (spares_modJob ..)).trans (spares_reapMove ..)

theorem spares_dropBlock (g : Gen) (s : State) : s.Spares (dropBlock g s) := by
  obtain ⟨range, land, jobs, dropped, -⟩ := dropBlock_frame g s
  rw [dropped]
  exact .of_eq rfl

theorem spares_cancelCtx (n c : Fin 4) (s : State) : s.Spares (cancelCtx n c s) := by
  unfold cancelCtx
  dsimp only
  split
  · exact .refl s
  · refine .trans (.trans ?_ (spares_modCtx ..)) (.foldl (fun s t => ?_) _ _)
    · split
      · exact spares_dropBlock ..
      · exact .refl s
    · exact (((((spares_dropReqs ..).trans (spares_dropXfers ..)).trans (spares_dropFlits ..)).trans (spares_modJob ..)).trans
        (spares_reapTile ..))

theorem spares_cancelAll (s : State) : s.Spares (cancelAll s) := by
  unfold cancelAll
  generalize allCtx = contexts
  exact .foldl (fun s nc => spares_cancelCtx nc.1 nc.2 s) contexts s

theorem spares_reapLanding (l : Fin 64) (s : State) : s.Spares (reapLanding l s) := by
  unfold reapLanding
  split
  · exact .refl s
  · split
    · exact .refl s
    · split
      · exact (((spares_releaseAll ..).trans (spares_dropJob ..)).trans (spares_setSlot ..)).trans (spares_modRing ..)
      · exact .refl s

theorem spares_stopLandings (s : State) : s.Spares (stopLandings s) := by
  refine .foldl (fun s l => ?_) (List.finRange 64) s
  split
  · exact .refl s
  · split
    · exact .refl s
    · exact (((spares_dropReqs ..).trans (spares_dropXfers ..)).trans (spares_modJob ..)).trans (spares_reapLanding ..)

theorem spares_discardQueues (s : State) : s.Spares (discardQueues s) := by
  unfold discardQueues
  exact (spares_releaseAll ..).trans (.of_eq rfl)

theorem spares_stopEngines (s : State) : s.Spares (stopEngines s) :=
  (((spares_discardQueues s).trans (spares_stopTiles _)).trans (spares_cancelAll _)).trans (spares_stopLandings _)

theorem spares_taskAbort (s : State) : s.Spares (taskAbort s) := by
  have fences : s.Spares (dropFences taskThreads s) := spares_releaseAll _ false s
  unfold taskAbort
  exact ((fences.trans (spares_ush ..)).trans (spares_stopEngines _)).trans (spares_countEvt ..)

theorem spares_abortFor (p : Page) (c : Nat) (q : BitVec 32) (s : State) : s.Spares (abortFor p c q s) := by
  unfold abortFor
  split
  · exact .refl s
  · exact (spares_jobFatal ..).trans (spares_taskAbort _)

theorem spares_engineFault (p : Page) (b c d q : Nat) (s : State) : s.Spares (engineFault p b c d q s) :=
  (spares_logEvt ..).trans (spares_abortFor ..)

theorem spares_preciseFault (t : Fin 16) (c : Nat) (s : State) : s.Spares (preciseFault t c s) := by
  have logged := spares_logEvt .ush 1 (defaultLog c t.val s.ush.pushSeq.toNat) s
  unfold preciseFault preciseFaultAt
  dsimp only
  split
  · refine logged.trans ?_
    unfold firmwareFault
    split
    · exact spares_modThread ..
    · exact (spares_modThread ..).trans (spares_ush ..)
  · split
    · exact logged.trans (spares_modThread ..)
    · exact (logged.trans (spares_modThread ..)).trans (spares_abortFor ..)

/-! ### Tiles of streams -/

theorem spares_holdCtx (n c : Fin 4) (job : Option Nat) (held : Nat × Desc) (s : State) : s.Spares (holdCtx n c job held s) := by
  have begins (f : Ctx → Ctx) : s.Spares (modCtx n c f s) := spares_modCtx ..
  cases job with
  | none => exact (begins _).trans (spares_countEvt ..)
  | some id =>
    exact ((((begins _).trans (spares_dropReqs ..)).trans (spares_dropXfers ..)).trans (spares_dropFlits ..)).trans
      (spares_countEvt ..)

theorem spares_streamFault (n c : Fin 4) (k row : Nat) (job : Option Nat) (held : Nat × Desc) (push : Nat)
    (tier : Option (Page × Nat × BitVec 32)) (s : State) : s.Spares (streamFault n c k row job held push tier s) := by
  unfold streamFault
  dsimp only
  split
  · exact .refl s
  · have recorded : s.Spares (recordStreamFault n c k row held.1 s) := by
      unfold recordStreamFault
      split
      · exact .refl s
      · exact .of_eq rfl
    generalize recordStreamFault n c k row held.1 s = t at recorded ⊢
    have logged : s.Spares (if k < 5 then logEvt (Page.strm n) k (defaultLog (streamCode k) c.val push) t else t) := by
      split
      · exact recorded.trans (spares_logEvt ..)
      · exact recorded
    generalize (if k < 5 then logEvt (Page.strm n) k (defaultLog (streamCode k) c.val push) t else t) = u at logged ⊢
    refine logged.trans ?_
    split
    · exact spares_holdCtx ..
    · split
      · split
        · exact spares_cancelCtx ..
        · exact spares_abortFor ..
      · exact spares_abortFor ..

theorem spares_issueRow (n c : Fin 4) (j : Job) (d : Desc) (r src dst : Nat) (s : State) : s.Spares (issueRow n c j d r src dst s) := by
  have writes {t : State} (read : s.Spares t) : s.Spares (if dDstKind d = 1 then
      (pieces t.xferBlock dst (dRb d)).foldl (fun s p => addXfer ⟨.strm n c j.id, .write 0 (dDcnt d), BitVec.ofNat 64 p.1, p.2, 0,
        none, 0, s.now, false⟩ s) t else t) := by
    split
    · exact read.trans (.foldl (fun s p => spares_addXfer rfl s) _ t)
    · exact read
  unfold issueRow
  refine writes ?_
  split
  · exact (asks_addRead ..).spares
  · exact .foldl (fun s p => spares_addXfer rfl s) _ s
  · exact .foldl (fun s p => spares_addTx ..) _ s

theorem spares_advanceRows (id fuel : Nat) (s : State) : s.Spares (advanceRows id fuel s) := by
  induction fuel generalizing s with
  | zero => exact .refl s
  | succ fuel ih =>
    unfold advanceRows
    split
    · split
      · split
        · exact .refl s
        · split
          · exact .refl s
          · exact spares_modJob ..
          · exact (spares_modJob ..).trans (ih _)
          · exact ((spares_modJob ..).trans (spares_issueRow ..)).trans (ih _)
      · exact .refl s
    · exact .refl s

theorem spares_emitFlits (id fuel : Nat) (s : State) : s.Spares (emitFlits id fuel s) := by
  induction fuel generalizing s with
  | zero => exact .refl s
  | succ fuel ih =>
    unfold emitFlits
    split
    · split
      · dsimp only
        split
        · exact .refl s
        · split
          · exact .refl s
          · exact (((spares_freeIx ..).trans (spares_addTx ..)).trans (spares_modJob ..)).trans (ih _)
      · exact .refl s
    · exact .refl s

theorem spares_releaseIf (b : Bool) (e : Option Nat) (s : State) : s.Spares (releaseIf b e s) := by
  unfold releaseIf
  split
  · split
    · exact spares_releaseAll [_] true s
    · exact .refl s
  · exact .refl s

theorem spares_settleTile (id : Nat) (s : State) : s.Spares (settleTile id s) := by
  unfold settleTile
  split
  · exact .refl s
  · split
    · next n c d da kind =>
      split
      · exact spares_reapTile ..
      · split
        · exact .refl s
        · have moved := (spares_advanceRows id (dRows d + 1) s).trans (spares_emitFlits id (16 * dRows d + 1) _)
          generalize emitFlits id (16 * dRows d + 1) (advanceRows id (dRows d + 1) s) = t at moved ⊢
          dsimp only
          split
          · exact moved
          · split
            · split
              · exact moved.trans (spares_streamFault ..)
              · exact moved
            · exact ((moved.trans (spares_releaseIf ..)).trans (spares_releaseIf ..)).trans (spares_releaseIf ..)
    · exact .refl s

theorem spares_tileXferError (k id addr : Nat) (s : State) : s.Spares (tileXferError k id addr s) := by
  unfold tileXferError
  split
  · split
    · split
      · exact spares_settleTile ..
      · exact spares_streamFault ..
    · exact .refl s
  · exact .refl s

/-! ### Transfers that end in error, and tiles of a Gallery that break -/

theorem spares_atomError (t : Fin 16) (id : Nat) (posted : Bool) (s : State) : s.Spares (atomError t id posted s) := by
  have logged := spares_logEvt .ush 1 (defaultLog 0x1B t.val s.ush.pushSeq.toNat) s
  unfold atomError
  dsimp only
  split
  · split
    · exact .refl s
    · split
      · exact logged.trans (spares_modThread ..)
      · exact logged.trans (spares_abortFor ..)
  · split
    · exact spares_preciseFault ..
    · exact .refl s

theorem spares_xferError (x : Xfer) (s : State) : s.Spares (xferError x s) := by
  unfold xferError
  split
  · dsimp only
    split
    · exact (spares_dropReqs ..).trans (spares_tileXferError ..)
    · exact spares_tileXferError ..
  · exact ((spares_modJob ..).trans (spares_reapLanding ..)).trans (spares_engineFault ..)
  · exact spares_atomError ..

theorem spares_reapGal (id : Nat) (s : State) : s.Spares (reapGal id s) := by
  unfold reapGal
  split
  · split
    · exact (spares_releaseAll ..).trans (spares_dropJob ..)
    · exact .refl s
  · exact .refl s

theorem spares_breakTile (g : Fin 4) (id : Nat) (code : ErrCode) (s : State) : s.Spares (breakTile g id code s) := by
  unfold breakTile
  split
  · exact .refl s
  · have answers := State.Spares.foldl (fun s q => spares_sendVc2 g (.err 0 q code) s) (s.flitsOf id) s
    refine (((answers.trans ?_).trans (spares_dropReqs ..)).trans (spares_modJob ..)).trans (spares_reapGal ..)
    exact spares_modGal ⟨rfl, rfl, fun _ m => List.mem_of_mem_filter m, fun _ m => m⟩

theorem spares_relayFail (out : Fin 4) (r : RelayAck) (code : ErrCode) (s : State) : s.Spares (relayFail out r code s) := by
  have ends (u : State) : u.Spares (if u.gal[r.arr].tiles.any (fun t => t.job == r.job) then breakTile r.arr r.job code u
      else emptyRelaySlot r u) := by
    split
    · exact spares_breakTile ..
    · unfold emptyRelaySlot
      split
      · exact spares_setSlot ..
      · exact .refl u
  have answers (t : State) : t.Spares (if (t.flitsOf r.job).contains r.of_ then t else sendVc2 r.arr (.err 0 r.of_ code) t) := by
    split
    · exact .refl t
    · exact spares_sendVc2 ..
  exact ((spares_jobEvent ..).trans (answers _)).trans (ends _)

end Sys2Proof.Machine


/-! ## Responses of the fabric, and the loss of its link -/

namespace Sys2Proof.Machine

/-! ### The lost link -/

/-- Transfers that end in error, one behind another. -/
theorem spares_xferErrors (out : List Xfer) (s : State) : s.Spares (out.foldl (fun s x => xferError x s) s) :=
  .foldl (fun s x => spares_xferError x s) out s

theorem flag_zero {h : PageHdr} (set : h.evt.getLsbD 0 = true) : h.evt.toNat % 2 = 1 := by
  rw [BitVec.getLsbD, Nat.testBit_zero] at set
  exact of_decide_eq_true set

theorem jobEvent_flag_set (p : Page) {b : Nat} (small : b < 32) (c d : Nat) (s : State) :
    ((jobEvent p b c d s).hdrOf p).evt.getLsbD b = true := by
  have one : (BitVec.ofNat 32 (2 ^ b)).getLsbD b = true := by
    rw [BitVec.getLsbD_ofNat, Nat.testBit_two_pow_self]
    simpa using small
  rw [jobEvent_flag, BitVec.getLsbD_or, one, Bool.or_true]

theorem fabDown_of_up {s : State} (up : s.fab.link = .up) (alive : s.alive = true) :
    (fabDown s).fab.link = .down ∧ (fabDown s).evt.valid = true ∧ ((fabDown s).hdrOf .fab).evt.toNat % 2 = 1 ∧
      (fabDown s).mem = s.mem ∧ ∀ y ∈ (fabDown s).fab.xfers, y.tag = none := by
  obtain ⟨t, down⟩ : ∃ t, t = modFab (fun f => { f with link := .down, xfers := f.xfers.filter fun x => x.tag.isNone && !x.done }) s :=
    ⟨_, rfl⟩
  have ends : fabDown s = (s.fab.xfers.filter fun x => x.tag.isSome).foldl (fun s x => xferError x s) (jobEvent .fab 0 0x23 0 t) := by
    rw [down]
    exact if_neg (by simp [up, alive])
  rw [ends]
  have event := spares_jobEvent .fab 0 0x23 0 t
  have errors := spares_xferErrors (s.fab.xfers.filter fun x => x.tag.isSome) (jobEvent .fab 0 0x23 0 t)
  have whole := event.trans errors
  refine ⟨whole.link.trans (by rw [down]; rfl), errors.valid (jobFatal_valid ..),
    flag_zero (errors.flags .fab 0 (jobEvent_flag_set .fab (by decide) 0x23 0 t)), whole.mem.trans (by rw [down]; rfl), fun y m => ?_⟩
  refine (whole.xfers y m).elim (fun kept => ?_) id
  rw [down] at kept
  have waits := (List.mem_filter.mp kept).2
  simp only [Bool.and_eq_true, Option.isNone_iff_eq_none] at waits
  exact waits.1

/-! ### Bytes that arrive for a tile -/

theorem State.Asks.job? {s t : State} {job : Nat} {lines : List LineReq} (h : s.Asks t job lines) {id : Nat} {j : Job}
    (found : s.job? id = some j) : ∃ left, t.job? id = some { j with left := left } := by
  obtain ⟨new, rfl, -⟩ := h
  have jobs : (s.requesting job new).job? id =
      (s.job? id).map fun j => if j.id = job then { j with left := j.left + new.length } else j := by
    unfold State.job? State.requesting
    rw [List.find?_map]
    refine congrArg (Option.map _) (congrArg (List.find? · s.jobs) (funext fun j => ?_))
    simp only [Function.comp_apply]
    split <;> rfl
  rw [jobs, found]
  by_cases own : j.id = job
  · exact ⟨j.left + new.length, congrArg some (if_pos own)⟩
  · exact ⟨j.left, congrArg some (if_neg own)⟩

/-- Bytes that arrive for a tile whose destination is memory are requested as writes, piece by piece. -/
theorem asks_tileBytes {s : State} {id : Nat} {j : Job} {n c : Fin 4} {d : Desc} {a : Nat} (found : s.job? id = some j)
    (kind : j.kind = .tile n c d a) (local_ : dDstKind d = 0) (tag dst : Nat) (bs : List (Nat × List (BitVec 8))) :
    s.Asks (bs.foldl (fun s b => tileBytes id tag (dst + b.1) b.2 s) s) id
      (bs.flatMap fun b => writeLines id tag (.strm n) (tileEntries d j.entries).2.1 (dst + b.1) b.2) := by
  refine asks_foldl (.refl s id) (fun u new asked b => ?_) bs
  obtain ⟨left, still⟩ := asked.job? found
  have bytes : tileBytes id tag (dst + b.1) b.2 u = addWrite id tag (.strm n) (tileEntries d j.entries).2.1 (dst + b.1) b.2 u := by
    unfold tileBytes
    rw [still]
    dsimp only
    rw [kind]
    exact if_pos local_
  rw [bytes]
  exact asks_addWrite ..

theorem flatMap_writeLines {id tag dst : Nat} {unit : MemUnit} {entry : Option Nat} {bs : List (Nat × List (BitVec 8))} :
    (bs.flatMap fun b => writeLines id tag unit entry (dst + b.1) b.2).flatMap (fun q => q.wr.getD []) =
      bs.flatMap fun b => cellsAt (dst + b.1) b.2 := by
  rw [List.flatMap_assoc]
  exact List.flatMap_congr fun b _ => writeLines_cells ..

/-! ### Answers -/

/-- The thread that waits for an atomic takes its result and goes on. -/
theorem atomResult_of_waits {s : State} {t : Fin 16} {id : Nat} (waits : (s.thread t).st = .waitData (.atom id)) (rd : Fin 32)
    (v : BitVec 64) (at_ : Nat) : atomResult t id rd v at_ s =
      modThread t (fun th => { (th.setReg rd v).resume with pc := th.pc + 4, notBefore := at_ }) s := by
  have value : (if (s.thread t).st = .waitData (.atom id) then
      { ((s.thread t).setReg rd v).resume with pc := (s.thread t).pc + 4, notBefore := at_ } else s.thread t) =
      { ((s.thread t).setReg rd v).resume with pc := (s.thread t).pc + 4, notBefore := at_ } := if_pos waits
  exact congrArg (fun th => { s with ush := { s.ush with threads := s.ush.threads.set t th } }) value

/-- `s` once `k` lines of the read `x` under `tag` have come, before their bytes go anywhere. -/
def State.readCame (s : State) (tag : Fin 512) (x : Xfer) (k : Nat) : State :=
  let s := fabReceived (s.holderThread x.holder) k s
  let got := x.got + k
  if got ≥ linesOf x.addr.toNat x.len then
    (if x.sent ≥ x.slots then dropXfer tag s else modTagged tag (fun y => { y with tag := none, got := got, done := true }) s)
  else modTagged tag (fun y => { y with got := got }) s

theorem readCame_frame (s : State) (tag : Fin 512) (x : Xfer) (k : Nat) :
    s.readCame tag x k = { s with
      energy := (s.readCame tag x k).energy,
      fab := { s.fab with xfers := (s.readCame tag x k).fab.xfers, received := s.fab.received + BitVec.ofNat 32 k } } := by
  unfold State.readCame
  dsimp only
  split
  · split <;> rfl
  · rfl

theorem readCame_of_whole {s : State} {tag : Fin 512} {x : Xfer} {k : Nat} (whole : linesOf x.addr.toNat x.len ≤ x.got + k)
    (spent : x.slots ≤ x.sent) : (s.readCame tag x k).fab.xfers = s.fab.xfers.filter fun y => y.tag != some tag := by
  unfold State.readCame
  dsimp only
  rw [if_pos whole, if_pos spent]
  rfl

theorem fabReadData_of_tile {s : State} {tag : Fin 512} {x : Xfer} {data : List (BitVec 1024)} {dst id : Nat} {n c : Fin 4}
    (own : s.xferOf tag = some x) (read : x.kind = .read dst) (holder : x.holder = .strm n c id) :
    fabReadData tag data s = settleTile id ((lineBytes x.addr.toNat x.len x.got data).foldl
      (fun s b => tileBytes id 0 (dst + b.1) b.2 s) (s.readCame tag x data.length)) := by
  unfold fabReadData
  rw [own]
  dsimp only
  rw [read]
  dsimp only
  simp only [holder, State.readCame] <;> rfl

end Sys2Proof.Machine

namespace Sys2Proof
open Sys2Proof.Machine

/-- Settles O38: each response by what its row comes to, and the lost link by what errors leave alone (`State.Spares`). -/
theorem fabricResponses : Obligations.FabricResponses := by
  refine ⟨fun s up alive => ⟨_, rfl, fabDown_of_up up alive⟩, fun tag s x own alive => ?_⟩
  intro fewer
  have answers (f : State → State) : (if s.alive then f s else s) = f s := if_pos alive
  refine ⟨?data, ?ack, ?atom, ?err⟩
  case data =>
    intro data dst n c id j d a read holder job kind local_
    have came := readCame_frame s tag x data.length
    have found : (s.readCame tag x data.length).job? id = some j := by rw [came]; exact job
    have asks := asks_tileBytes found kind local_ 0 dst (lineBytes x.addr.toNat x.len x.got data)
    obtain ⟨t, after⟩ : ∃ t, t = (lineBytes x.addr.toNat x.len x.got data).foldl
      (fun s b => tileBytes id 0 (dst + b.1) b.2 s) (s.readCame tag x data.length) := ⟨_, rfl⟩
    rw [← after] at asks
    obtain ⟨new, reqs, lines⟩ := asks.reqs
    have fab : t.fab = (s.readCame tag x data.length).fab := by rw [asks.frame]
    have energy : t.energy = (s.readCame tag x data.length).energy := by rw [asks.frame]
    refine ⟨t, new, ?_, reqs.trans (by rw [came]), (flatMap_unnumbered lines fun _ => rfl).trans flatMap_writeLines,
      forall_unnumbered lines (fun q mem => ?_) fun _ own => own, fun whole spent => ?_, ?_⟩
    · rw [after, ← fabReadData_of_tile own read holder]
      exact congrArg Host.Outcome.next (answers (fabReadData tag data))
    · obtain ⟨b, -, mem⟩ := List.mem_flatMap.mp mem
      obtain ⟨of, -, -, -, wr⟩ := mem_writeLines mem
      exact ⟨of, wr⟩
    · exact (congrArg Fab.xfers fab).trans (readCame_of_whole whole spent)
    · refine asks.frame.trans ?_
      rw [fab, energy]
      generalize s.readCame tag x data.length = u at came
      rw [came]
  case ack =>
    intro n c id src adv holder write
    refine congrArg Host.Outcome.next ((answers (fabAcked tag)).trans ?_)
    unfold fabAcked
    rw [own]
    dsimp only
    rw [write, holder] <;> rfl
  case atom =>
    intro t id rd p a v holder kind waits
    have answered : fabAtomAnswer tag v s = modThread t (fun th => { (th.setReg rd v).resume with
        pc := th.pc + 4, notBefore := s.now }) (dropXfer tag s) := by
      unfold fabAtomAnswer
      rw [own]
      dsimp only
      rw [holder]
      exact atomResult_of_waits (s := dropXfer tag s) waits rd v s.now
    have thread : (fabAtomAnswer tag v s).thread t = { ((s.thread t).setReg rd v).resume with
        pc := (s.thread t).pc + 4, notBefore := s.now } := by
      rw [answered, modThread_thread, if_pos rfl]
      rfl
    refine ⟨fabAtomAnswer tag v s, congrArg Host.Outcome.next (answers (fabAtomAnswer tag v)), fun r => ?_, ?_⟩
    · rw [thread]
      exact Thread.setReg_reg (s.thread t) rd r v
    · have value : { ((s.thread t).setReg rd v).resume with pc := (s.thread t).pc + 4, notBefore := s.now } =
          { (s.thread t).resume with
            regs := ((s.thread t).setReg rd v).resume.regs, pc := (s.thread t).pc + 4, notBefore := s.now } := by
        rw [setReg_eq] <;> rfl
      rw [thread, ← value, answered]
      rfl
  case err =>
    intro code t id rd holder waits
    obtain ⟨u, counted⟩ : ∃ u, u = dropXfer tag (countEvt .fab 3 (modFab (fun f => { f with
      err := f.err.set (errIx code) (satInc f.err[errIx code]) }) s)) := ⟨_, rfl⟩
    have same : SameUsher s u := by rw [counted]; constructor <;> simp [dropXfer, modFab]
    have answered : fabErrAnswer tag code s = preciseFault t 0x0A u := by
      have still : (countEvt .fab 3 (modFab (fun f => { f with
          err := f.err.set (errIx code) (satInc f.err[errIx code]) }) s)).xferOf tag = some x := by
        unfold State.xferOf
        rw [countEvt_fab]
        exact own
      have thread : (u.thread t).st = .waitData (.atom id) := (congrArg Thread.st (same.thread t)).trans waits
      unfold fabErrAnswer
      dsimp only
      rw [still]
      dsimp only
      rw [← counted, xferError, holder]
      exact if_pos thread
    refine ⟨preciseFault t 0x0A u, ?_, preciseFault_faults same t 0x0A, ?_⟩
    · rw [← answered]
      exact congrArg Host.Outcome.next (answers (fabErrAnswer tag code))
    · have kept : (preciseFault t 0x0A u).fab.err = u.fab.err := by rw [(spares_preciseFault t 0x0A u).fab]
      rw [kept, counted]
      simp [dropXfer, modFab]

end Sys2Proof


/-! ## States of the links -/

namespace Sys2Proof.Machine

/-! ### What a Gallery is after a change -/

theorem gal_modGal_same (g : Fin 4) (f : Gal → Gal) (s : State) : (modGal g f s).gal[g] = f s.gal[g] :=
  Vector.getElem_set_self g.isLt

theorem gal_modGal_other {g k : Fin 4} (other : k ≠ g) (f : Gal → Gal) (s : State) : (modGal g f s).gal[k] = s.gal[k] :=
  Vector.getElem_set_ne g.isLt k.isLt fun same => other (Fin.ext same.symm)

theorem modGal_modGal (g : Fin 4) (f h : Gal → Gal) (s : State) : modGal g h (modGal g f s) = modGal g (fun x => h (f x)) s := by
  unfold modGal
  simp only [Fin.getElem_fin, Vector.getElem_set_self, Vector.set_set]

/-! ### The version of two capability words -/

theorem put_mod_two_pow {n lo : Nat} (above : n ≤ lo) (narrow : n ≤ 64) (v : Nat) : (put lo v).toNat % 2 ^ n = 0 := by
  rw [put, BitVec.toNat_ofNat, Nat.mod_mod_of_dvd _ (Nat.pow_dvd_pow 2 narrow), Nat.shiftLeft_eq]
  exact Nat.mod_eq_zero_of_dvd (Dvd.dvd.mul_left (Nat.pow_dvd_pow 2 above) v)

/-- This cluster's word names version 3, alone, on a Gallery. -/
theorem capLocal_gal_low (s : State) (g : Fin 4) : (capLocal s (.gal g)).toNat % 2 ^ 16 = 0x303 := by
  have low : (put 0 3 ||| put 8 3).toNat % 2 ^ 16 = 0x303 := by decide
  have high (lo v : Nat) (above : 16 ≤ lo) : (put lo v).toNat % 2 ^ 16 = 0 := put_mod_two_pow above (by decide) v
  unfold capLocal
  simp only [BitVec.toNat_or, Nat.or_mod_two_pow] at low ⊢
  rw [high 16 _ (by decide), high 19 _ (by decide), high 24 _ (by decide), high 32 _ (by decide), high 48 _ (by decide),
    high 51 _ (by decide), low]
  rfl

/-- The version that a Gallery and a peer with the word `w` can run. -/
theorem commonVersion_gal (s : State) (g : Fin 4) (w : BitVec 64) : commonVersion (capLocal s (.gal g)) w =
    if 3 ≤ w.toNat % 256 ∧ w.toNat / 256 % 256 ≤ 3 then some 3 else none := by
  have word := capLocal_gal_low s g
  generalize capLocal s (.gal g) = a at word
  have most : fld a 0 8 = 3 := by rw [fld_eq_div]; omega
  have least : fld a 8 8 = 3 := by rw [fld_eq_div]; omega
  have peer : fld w 0 8 = w.toNat % 256 := by rw [fld_eq_div]; simp
  have peer_least : fld w 8 8 = w.toNat / 256 % 256 := fld_eq_div ..
  unfold commonVersion
  rw [most, least, peer, peer_least]
  by_cases new : 3 ≤ w.toNat % 256
  · simp [new]
  · rw [if_neg (by omega), if_neg (by omega)]

/-! ### Training -/

/-- The fields of GAL_CTL and of FAB_CTL. -/
def galCtlMask : BitVec 64 := bitsMask 1 1 ||| bitsMask 8 8 ||| (bitsMask 0 1 ||| bitsMask 16 3)
def fabCtlMask : BitVec 64 := bitsMask 0 1 ||| bitsMask 16 3

theorem galCtl_fields (b : Build) (g : Fin 4) : (regFields b (Page.gal g) 0x40).all = galCtlMask := by
  simp [regFields_gal g (show 0x40 ≤ 0x40 by decide), galFields, Access3.all, galCtlMask]

/-- A field above the bit that a row names is that of the value written. -/
theorem fld_setBit_and {m : BitVec 64} {i lo len : Nat} (field : m.extractLsb' lo len = BitVec.allOnes len)
    (below : (put i 1).extractLsb' lo len = 0) (v : BitVec 64) : fld (setBit i v &&& m) lo len = v.toNat / 2 ^ lo % 2 ^ len := by
  rw [fld_and_field field, ← fld_eq_div, fld_eq_toNat_extractLsb', setBit, BitVec.extractLsb'_or, below,
    show (0 : BitVec len) = 0#len from rfl, BitVec.or_zero, ← fld_eq_toNat_extractLsb', fld_eq_div]

/-- A Gallery that starts to train, with recalibration as `on` and `period` say. -/
def Gal.trains (x : Gal) (on : Bool) (period : BitVec 8) (word : BitVec 64) : Gal :=
  { x with
    recalEn := on, recalPeriod := period, link := .training, version := 0, capPeer := 0, passed := 0, retired := 0, modulesLive := 0,
    recalMod := 0, failRun := 0, first := [.cap word], replay := [], txSeq := 0, rxSeq := 0,
    credits := noCredits, owed := noCredits }

theorem capLocal_modGal (g : Fin 4) (f : Gal → Gal) (s : State) (p : LinkPort) : capLocal (modGal g f s) p = capLocal s p := by
  unfold capLocal
  simp only [modGal_fab, modGal_build]

theorem retrain_gal {g : Fin 4} {expect : Nat} {s : State} (expected : expect = s.gal[g].link.code) (idle : s.ush.task ≠ .running) :
    retrain (.gal g) expect s = modGal g (fun x => x.trains x.recalEn x.recalPeriod (capLocal s (.gal g))) s := by
  have fresh : ¬(expect ≠ (s.linkOf (.gal g)).code ∨ s.ush.task = .running) := fun stale => stale.elim (fun ne => ne expected) idle
  unfold retrain
  dsimp only
  rw [if_neg fresh]
  unfold setLink
  dsimp only
  rw [modGal_modGal, capLocal_modGal]
  rfl

theorem galCtl_retrains {g : Fin 4} {v : BitVec 64} {s : State} (go : bitAt v 0 = true) (expected : fld v 16 3 = s.gal[g].link.code)
    (idle : s.ush.task ≠ .running) :
    galCtl g v s = modGal g (fun x => x.trains (bitAt v 1) (v.extractLsb' 8 8) (capLocal s (.gal g))) s := by
  have fresh : retrainStale s (.gal g) v = false := by
    simp [retrainStale, go, expected, State.linkOf, idle]
  have same : fld v 16 3 = (modGal g (fun x => { x with recalEn := bitAt v 1, recalPeriod := v.extractLsb' 8 8 }) s).gal[g].link.code := by
    rw [gal_modGal_same]
    exact expected
  unfold galCtl
  rw [fresh, if_neg Bool.false_ne_true]
  dsimp only
  rw [if_pos go, retrain_gal same idle, modGal_modGal, capLocal_modGal]
  rfl

theorem fabCtl_retrains {v : BitVec 64} {s : State} (go : bitAt v 0 = true) (expect : fld v 16 3 = s.fab.link.code)
    (idle : s.ush.task ≠ .running) : fabCtl v s = { s with fab := { s.fab with
      link := .training, version := 0, capPeer := 0, tx := s.fab.tx ++ [.cap (capLocal s .fab)] } } := by
  have same : ¬(fld v 16 3 ≠ (s.linkOf .fab).code ∨ s.ush.task = .running) :=
    fun stale => stale.elim (fun ne => ne expect) idle
  unfold fabCtl
  rw [if_pos go]
  unfold retrain
  dsimp only
  rw [if_neg same]
  rfl

/-! ### A Gallery that goes DOWN -/

theorem reapGal_gal (id : Nat) (s : State) : (reapGal id s).gal = s.gal := by
  unfold reapGal
  split
  · next j _ =>
    split
    · obtain ⟨range, land, released⟩ := releaseAll_frame j.entries false s
      rw [released]
      rfl
    · rfl
  · rfl

theorem sendVc2s_gal (g k : Fin 4) (code : ErrCode) (qs : List Nat) (s : State) :
    (qs.foldl (fun s q => sendVc2 g (.err 0 q code) s) s).gal[k].tiles = s.gal[k].tiles := by
  refine List.foldlRecOn qs _ (motive := fun t : State => t.gal[k].tiles = s.gal[k].tiles) rfl fun t same q _ => ?_
  rw [← same]
  by_cases own : k = g
  · rw [own, sendVc2, gal_modGal_same]
  · rw [sendVc2, gal_modGal_other own]

/-- The tile that breaks is the Gallery's no more. -/
theorem tiles_breakTile (g : Fin 4) (id : Nat) (code : ErrCode) (s : State) :
    (breakTile g id code s).gal[g].tiles = s.gal[g].tiles.filter fun y => y.job != id := by
  unfold breakTile
  split
  · next none_such =>
    refine (List.filter_eq_self.mpr fun y m => ?_).symm
    simpa using List.find?_eq_none.mp none_such y m
  · dsimp only
    rw [reapGal_gal, modJob_gal, dropReqs_gal, gal_modGal_same]
    exact congrArg (List.filter _) (sendVc2s_gal ..)

theorem tiles_breakTiles (g : Fin 4) (code : ErrCode) (ts : List GalTile) (s : State) :
    (ts.foldl (fun s t => breakTile g t.job code s) s).gal[g].tiles =
      s.gal[g].tiles.filter fun y => ts.all fun t => y.job != t.job := by
  induction ts generalizing s with
  | nil => simp
  | cons t ts ih =>
    rw [List.foldl_cons, ih, tiles_breakTile, List.filter_filter]
    simp only [List.all_cons, Bool.and_comm]

/-- What `s` becomes with Gallery `g` down: nothing waits on it, its event is noted, and a job-fatal record is held. -/
theorem galDown_of_up {g : Fin 4} {s : State} (up : s.gal[g].link = .up) (alive : s.alive = true) :
    (galDown g s).gal[g].link = .down ∧ (galDown g s).gal[g].rx = [] ∧ (galDown g s).gal[g].tiles = [] ∧
      (galDown g s).evt.valid = true ∧ ((galDown g s).hdrOf (Page.gal g)).evt.toNat % 2 = 1 ∧ (galDown g s).mem = s.mem := by
  obtain ⟨t, broken⟩ : ∃ t, t = s.gal[g].tiles.foldl (fun s t => breakTile g t.job .transport s) s := ⟨_, rfl⟩
  obtain ⟨u, down⟩ : ∃ u, u = modGal g (fun x => { x with
    link := .down, rx := [], vc2 := [], tx := [], first := [], replay := [], acks := [], reads := [], relayAcks := [],
    failRun := 0, modulesLive := 0, recalMod := 0, version := 0, refusing := false }) t := ⟨_, rfl⟩
  obtain ⟨acks, sent, ends⟩ : ∃ acks sent, galDown g s = List.foldl (fun s (p : Nat × Nat) => tileXferError 4 p.1 p.2 s)
      (List.foldl (fun s r => relayFail g r .transport s) (jobEvent (Page.gal g) 0 0x23 0 u) acks) sent := by
    refine ⟨s.gal[g].relayAcks ++ (jobEvent (Page.gal g) 0 0x23 0 u).relaysTo g, s.gal[g].acks.map (fun a => (a.job, a.addr)) ++
      s.gal[g].reads.map (fun r => (r.job, r.src)) ++ s.gal[g].tx.map fun f => (f.job, 0), ?_⟩
    rw [down, broken]
    exact if_neg (fun not => not.elim (by simp [alive]) fun off => off.1 up)
  have tile : u.gal[g] = { t.gal[g] with
      link := .down, rx := [], vc2 := [], tx := [], first := [], replay := [], acks := [], reads := [], relayAcks := [],
      failRun := 0, modulesLive := 0, recalMod := 0, version := 0, refusing := false } := by
    rw [down, gal_modGal_same]
  have none_left : u.gal[g].tiles = [] := by
    rw [tile, broken, tiles_breakTiles]
    refine List.filter_eq_nil_iff.mpr fun y m all => ?_
    simpa using List.all_eq_true.mp all y m
  have event := spares_jobEvent (Page.gal g) 0 0x23 0 u
  have rest : (jobEvent (Page.gal g) 0 0x23 0 u).Spares (galDown g s) := by
    rw [ends]
    exact (State.Spares.foldl (fun s r => spares_relayFail g r .transport s) acks _).trans
      (.foldl (fun s p => spares_tileXferError 4 p.1 p.2 s) sent _)
  have whole := event.trans rest
  have breaks : t.mem = s.mem := by
    rw [broken]
    exact (State.Spares.foldl (fun s t => spares_breakTile g t.job .transport s) s.gal[g].tiles s).mem
  refine ⟨(whole.gal g).link.trans (by rw [tile]), (whole.gal g).rx.trans (by rw [tile]),
    List.eq_nil_of_subset_nil (none_left ▸ (whole.gal g).tiles), rest.valid (jobFatal_valid ..),
    flag_zero (rest.flags (Page.gal g) 0 (jobEvent_flag_set (Page.gal g) (by decide) 0x23 0 u)), whole.mem.trans ?_⟩
  rw [down]
  exact breaks

/-! ### Modules -/

/-- Gallery `x` once module `k` is retired. -/
def Gal.retires (x : Gal) (k : Fin 4) : Gal :=
  { x with retired := x.retired ||| BitVec.ofNat 4 (2 ^ k.val), modulesLive := 3, recalMod := 0 }

theorem gal_retire (g k : Fin 4) (s : State) : (retire g k s).gal[g] = s.gal[g].retires k := by
  unfold retire
  rw [countEvt_gal, countEvt_gal, gal_modGal_same]
  rfl

end Sys2Proof.Machine

namespace Sys2Proof
open Sys2Proof.Machine

/-- Settles O41: each row by what it comes to; the Gallery that goes down by what the ends of its work leave alone
(`galDown_of_up`). -/
theorem linkStates : Obligations.LinkStates := by
  intro g s x
  have not_dead (alive : s.alive = true) : ¬(!s.alive) = true := by simp [alive]
  refine ⟨?retrain, ?fabRetrain, ?word, ?trained, ?absent, ?fabTrained, ?recal, ?recalDone, ?failure, ?lost⟩
  case retrain =>
    intro o v h expect idle
    have effect : galCtl g (setBit 0 v &&& galCtlMask) s = _ :=
      galCtl_retrains (bitAt_setBit_and (by decide) (by decide) v)
        ((fld_setBit_and (by decide) (by decide) v).trans expect) idle
    rw [bitAt_setBit_and_ne (by decide) (by decide)] at effect
    have row := regRow_effect h (by decide) (galCtl_fields s.build g) (by decide) (v := setBit 0 v)
      ((pageWrite_gal _ g _ _ s).trans effect)
    have gal (s' : State) : (Claims.answered o (Page.gal g) s').gal = s'.gal := by cases o <;> rfl
    refine ⟨_, row, ?_, ?_, ?_, ?_, fun k other => ?_⟩
    · rw [gal, gal_modGal_same]; rfl
    · rw [gal, gal_modGal_same]; rfl
    · rw [gal, gal_modGal_same]; rfl
    · rw [gal, gal_modGal_same]; rfl
    · rw [gal, gal_modGal_other other]
  case fabRetrain =>
    intro o v h expect idle
    exact regRow_effect h (by decide) (m := fabCtlMask) (by simp [regFields, woOnly, Access3.all, fabCtlMask]) (by decide)
      (fabCtl_retrains (bitAt_setBit_and (by decide) (by decide) v)
        ((fld_setBit_and (by decide) (by decide) v).trans expect) idle)
  case word =>
    intro w training alive n
    have live : ¬(!s.alive ∨ (s.linkOf (.gal g) ≠ .training ∧ s.linkOf (.gal g) ≠ .up)) :=
      fun off => off.elim (not_dead alive) fun off => off.1 training
    have common := commonVersion_gal s g w
    refine ⟨fun new least => ?_, fun old => ?_⟩
    · have both : commonVersion (capLocal s (.gal g)) w = some 3 := common.trans (if_pos ⟨by omega, by omega⟩)
      have three : n = 3 := by omega
      refine congrArg Host.Outcome.next ((if_neg live : capArrive (.gal g) w s = _).trans ?_)
      rw [both, three, ← extractLsb'_eq_ofNat] <;> rfl
    · have none_ : commonVersion (capLocal s (.gal g)) w = none := common.trans (if_neg (by omega))
      refine ⟨capArrive (.gal g) w s, rfl, ?_⟩
      rw [show capArrive (.gal g) w s = _ from if_neg live, none_]
      refine (congrArg (fun v : Vector Gal 4 => v[g].link) (countEvt_gal ..)).trans ?_
      exact congrArg Gal.link (gal_modGal_same g ..)
  case trained =>
    intro rep training alive version cross
    have trains : trained (.gal g) (.up 4 rep) s = _ := if_neg fun off => off.elim (not_dead alive) fun off => off training
    refine congrArg Host.Outcome.next (trains.trans ?_)
    refine (if_neg (show s.versionOf (.gal g) ≠ 0 from version)).trans ?_
    have die : ¬(!(modGal g (fun x => { x with link := .up, owed := Vector.replicate 3 16 }) s).build.crossDie[g]) = true := by
      rw [modGal_build, cross]
      decide
    refine (if_neg die).trans ((if_neg (by decide)).trans ((if_neg (by decide)).trans ?_))
    rw [modGal_modGal]
    rfl
  case absent =>
    intro training alive
    exact congrArg Host.Outcome.next (if_neg fun off => off.elim (not_dead alive) fun off => off training)
  case fabTrained =>
    intro training alive version m rep
    have trains : trained .fab (.up m rep) s = _ := if_neg fun off => off.elim (not_dead alive) fun off => off training
    exact congrArg Host.Outcome.next (trains.trans (if_neg version))
  case recal =>
    intro alive on up live idle due
    have starts : (s.alive && x.recalEn && x.link = .up && x.modulesLive == 4 && x.recalMod == 0 && x.recalAt == 0) = true := by
      simp [alive, on, up, live, idle, due]
    exact congrArg Host.Outcome.next (if_pos starts)
  case recalDone =>
    intro rep alive recal
    have ends (ok : Bool) : recalDone g ok rep s = _ := if_neg fun off => off.elim (not_dead alive) recal
    refine ⟨⟨_, congrArg Host.Outcome.next (ends true), ?_⟩, _, congrArg Host.Outcome.next (ends false), ?_⟩
    · rw [if_pos rfl, gal_modGal_same]
      exact ⟨rfl, rfl, rfl, rfl, rfl⟩
    · rw [if_neg Bool.false_ne_true, gal_retire]
      exact ⟨rfl, rfl, rfl⟩
  case failure =>
    intro k alive up cross inService
    have fails : moduleFailed g k s = _ := if_neg fun off => off.elim (not_dead alive) fun off => off.elim (fun down => down up)
      fun off => off.elim (by simp [cross]) fun off => Bool.eq_false_iff.mp inService off
    refine ⟨fun whole idle => ⟨retire g k s, ?_, ?_⟩, fun second => ⟨galDown g s, ?_, ?_⟩⟩
    · exact congrArg Host.Outcome.next (fails.trans (if_neg fun off => off.elim (fun some => some whole) fun off => off.1 idle))
    · rw [gal_retire]
      refine ⟨up, rfl, ?_⟩
      exact (congrArg (· ||| BitVec.ofNat 4 (2 ^ k.val)) whole).trans BitVec.zero_or
    · exact congrArg Host.Outcome.next (fails.trans (if_pos (.inl second)))
    · obtain ⟨down, -, -, valid, -⟩ := galDown_of_up up alive
      exact ⟨down, valid⟩
  case lost =>
    intro up alive
    exact ⟨_, rfl, galDown_of_up up alive⟩

end Sys2Proof


/-! ## What answers, credits, replays and pass-throughs do -/

namespace Sys2Proof.Machine

/-! ### What arrives in its turn -/

section

variable {g : Fin 4} {s : State} {h : FlitHdr} (up : s.gal[g].link = .up) (alive : s.alive = true) (turn : h.seq = s.gal[g].rxSeq)
include up alive turn

theorem galTake_of_bad (bad : h.crcOk = false) (of_ : Option Nat) (k : State → State) : galTake g h of_ k s = crcFail g s := by
  have comes : ¬(s.gal[g].link ≠ .up ∨ (!s.alive) = true ∨ h.seq ≠ s.gal[g].rxSeq) := by simp [alive, turn]; exact up
  unfold galTake
  rw [if_neg comes, bad]
  rfl

/-- The flit that was to arrive next, whole: what it is for follows. -/
theorem galTake_of_good (good : h.crcOk = true) (of_ : Option Nat) (k : State → State) : galTake g h of_ k s =
    k ((modGal g Claims.took s).spend .flit (of_.bind (s.flitThread g)) 1) := by
  have comes : ¬(s.gal[g].link ≠ .up ∨ (!s.alive) = true ∨ h.seq ≠ s.gal[g].rxSeq) := by simp [alive, turn]; exact up
  unfold galTake
  rw [if_neg comes, good]
  rfl

end

/-- A change of Gallery `g` behind an answer that came in its turn. -/
theorem modGal_of_answer (g : Fin 4) (t : Option (Fin 16)) (f : Gal → Gal) (s : State) :
    modGal g f (oweCredit g 2 ((modGal g Claims.took s).spend .flit t 1)) = { s with
      energy := (s.spend .flit t 1).energy, gal := s.gal.set g (f (Claims.owes 2 (Claims.took s.gal[g]))) } := by
  have order : (modGal g Claims.took s).spend .flit t 1 = modGal g Claims.took (s.spend .flit t 1) := rfl
  rw [order, oweCredit, modGal_modGal, modGal_modGal]
  rfl

theorem gal_of_answer (g : Fin 4) (t : Option (Fin 16)) (s : State) :
    (oweCredit g 2 ((modGal g Claims.took s).spend .flit t 1)).gal[g] = Claims.owes 2 (Claims.took s.gal[g]) := by
  have order : (modGal g Claims.took s).spend .flit t 1 = modGal g Claims.took (s.spend .flit t 1) := rfl
  rw [order, oweCredit, modGal_modGal, gal_modGal_same]
  rfl

/-! ### A relay flit that ends in error -/

theorem mem_vc2_sendVc2s (g : Fin 4) (code : ErrCode) {qs : List Nat} {q : Nat} (own : q ∈ qs) (s : State) :
    .err 0 q code ∈ (qs.foldl (fun s q => sendVc2 g (.err 0 q code) s) s).gal[g].vc2 := by
  induction qs generalizing s with
  | nil => simp at own
  | cons p qs ih =>
    rw [List.foldl_cons]
    obtain rfl | later := List.mem_cons.mp own
    · refine ((State.Spares.foldl (fun s q => spares_sendVc2 g (.err 0 q code) s) qs _).gal g).vc2 ?_
      rw [sendVc2, gal_modGal_same]
      exact List.mem_append_right _ List.mem_cons_self
    · exact ih later _

/-- Each flit of a tile that breaks is answered. -/
theorem mem_vc2_breakTile {g : Fin 4} {id q : Nat} {s : State} (tile : ∃ t ∈ s.gal[g].tiles, t.job = id) (own : q ∈ s.flitsOf id)
    (code : ErrCode) : .err 0 q code ∈ (breakTile g id code s).gal[g].vc2 := by
  obtain ⟨t, found⟩ : ∃ t, s.gal[g].tiles.find? (fun t => t.job == id) = some t := by
    obtain ⟨t, mem, job⟩ := tile
    exact Option.isSome_iff_exists.mp (List.find?_isSome.mpr ⟨t, mem, beq_iff_eq.mpr job⟩)
  unfold breakTile
  rw [found]
  dsimp only
  rw [reapGal_gal, modJob_gal, dropReqs_gal, gal_modGal_same]
  exact mem_vc2_sendVc2s g code own s

theorem relayFail_of_open {out : Fin 4} {r : RelayAck} {s : State} (tile : ∃ t ∈ s.gal[r.arr].tiles, t.job = r.job) (code : ErrCode) :
    (relayFail out r code s).evt.valid = true ∧ .err 0 r.of_ code ∈ (relayFail out r code s).gal[r.arr].vc2 ∧
      (∀ t ∈ (relayFail out r code s).gal[r.arr].tiles, t.job ≠ r.job) ∧
      ((relayFail out r code s).hdrOf (Page.gal out)).evt.toNat / 4 % 2 = 1 ∧ (relayFail out r code s).mem = s.mem := by
  obtain ⟨t, event⟩ : ∃ t, t = jobEvent (Page.gal out) 2 0x24 0 s := ⟨_, rfl⟩
  obtain ⟨u, answered⟩ : ∃ u, u = if (t.flitsOf r.job).contains r.of_ then t else sendVc2 r.arr (.err 0 r.of_ code) t := ⟨_, rfl⟩
  have gal : t.gal = s.gal := by rw [event]; simp [jobEvent, jobFatal]
  have same (k : Fin 4) : t.gal[k] = s.gal[k] := congrArg (fun v : Vector Gal 4 => v[k]) gal
  have answers : t.Spares u := by
    rw [answered]
    split
    · exact .refl t
    · exact spares_sendVc2 ..
  have tiles : u.gal[r.arr].tiles = s.gal[r.arr].tiles := by
    rw [answered]
    split
    · rw [same]
    · rw [sendVc2, gal_modGal_same, same]
  have open_ : ∃ t ∈ u.gal[r.arr].tiles, t.job = r.job := tiles ▸ tile
  have fails : relayFail out r code s = breakTile r.arr r.job code u := by
    obtain ⟨y, mem, job⟩ := open_
    unfold relayFail
    dsimp only
    rw [← event, ← answered]
    exact if_pos (List.any_eq_true.mpr ⟨y, mem, by simpa using job⟩)
  rw [fails]
  have breaks := spares_breakTile r.arr r.job code u
  have rest := answers.trans breaks
  refine ⟨rest.valid (by rw [event]; exact jobFatal_valid ..), ?_, fun y mem => ?_, ?_, rest.mem.trans ?_⟩
  · by_cases known : (t.flitsOf r.job).contains r.of_ = true
    · rw [if_pos known] at answered
      exact mem_vc2_breakTile open_ (answered ▸ List.contains_iff_mem.mp known) code
    · refine (breaks.gal r.arr).vc2 ?_
      rw [answered, if_neg known, sendVc2, gal_modGal_same]
      exact List.mem_append_right _ List.mem_cons_self
  · rw [tiles_breakTile] at mem
    simpa using (List.mem_filter.mp mem).2
  · have flag := rest.flags (Page.gal out) 2 (by rw [event]; exact jobEvent_flag_set (Page.gal out) (by decide) 0x24 0 s)
    rwa [← bitAt, bitAt_eq_true_iff] at flag
  · rw [event]
    exact (spares_jobEvent ..).mem

/-! ### Pass-throughs -/

/-- A capability word that has passed one cluster more. -/
def passedOn (w : BitVec 64) : BitVec 64 := (w &&& ~~~(put 20 15)) ||| put 20 ((fld w 20 4 + 1) % 16)

theorem passedOn_toNat (w : BitVec 64) : (passedOn w).toNat / 2 ^ 20 % 16 = (w.toNat / 2 ^ 20 + 1) % 16 ∧
    (passedOn w).toNat % 2 ^ 20 = w.toNat % 2 ^ 20 ∧ (passedOn w).toNat / 2 ^ 24 = w.toNat / 2 ^ 24 := by
  have field : fld w 20 4 = w.toNat / 2 ^ 20 % 16 := fld_eq_div ..
  obtain ⟨k, count⟩ : ∃ k, k = (w.toNat / 2 ^ 20 + 1) % 16 := ⟨_, rfl⟩
  have small : k < 16 := by omega
  have word : (passedOn w).toNat = w.toNat &&& 0xFFFFFFFFFF0FFFFF ||| k * 2 ^ 20 := by
    have added : (put 20 k).toNat = k * 2 ^ 20 := by
      rw [put, BitVec.toNat_ofNat, Nat.shiftLeft_eq]
      omega
    have same : (fld w 20 4 + 1) % 16 = k := by omega
    rw [passedOn, same, BitVec.toNat_or, BitVec.toNat_and, added]
    rfl
  have below := w.isLt
  refine ⟨?_, ?_, ?_⟩
  · rw [word, ← count, ← Nat.shiftRight_eq_div_pow, Nat.shiftRight_or_distrib, Nat.shiftRight_and_distrib, Nat.or_mod_two_pow (n := 4),
      Nat.and_mod_two_pow]
    simp [Nat.shiftRight_eq_div_pow]
    omega
  · rw [word, Nat.or_mod_two_pow, Nat.and_mod_two_pow]
    have mask : 0xFFFFFFFFFF0FFFFF % 2 ^ 20 = 2 ^ 20 - 1 := by decide
    rw [mask, Nat.and_two_pow_sub_one_eq_mod, Nat.mul_mod_left, Nat.or_zero, Nat.mod_mod]
  · rw [word, ← Nat.shiftRight_eq_div_pow, Nat.shiftRight_or_distrib, Nat.shiftRight_and_distrib, Nat.shiftRight_eq_div_pow,
      Nat.shiftRight_eq_div_pow, Nat.shiftRight_eq_div_pow]
    have mask : 0xFFFFFFFFFF0FFFFF / 2 ^ 24 = 2 ^ 40 - 1 := by decide
    have none_ : k * 2 ^ 20 / 2 ^ 24 = 0 := by omega
    rw [mask, none_, Nat.and_two_pow_sub_one_eq_mod, Nat.or_zero]
    omega

/-! ### Answers to stream flits -/

section

variable {g : Fin 4} {s : State} {q : Nat} {a : SentFlit} (ack : s.gal[g].acks.find? (fun a => a.seq == q) = some a)
include ack

theorem flitThread_of_ack {j : Job} (job : s.job? a.job = some j) : (some q).bind (s.flitThread g) = j.thread := by
  rw [Option.bind_some, State.flitThread, ack]
  exact congrArg (Option.bind · Job.thread) job

theorem galAcked_of_tile {j : Job} {n c : Fin 4} {d : Desc} {k : Nat} (job : s.job? a.job = some j) (kind : j.kind = .tile n c d k)
    (t : Option (Fin 16)) : galAcked g q ((modGal g Claims.took s).spend .flit t 1) = settleTile a.job (countMoved n a.bytes { s with
      energy := (s.spend .flit t 1).energy,
      gal := s.gal.set g { Claims.owes 2 (Claims.took s.gal[g]) with acks := s.gal[g].acks.filter fun a => a.seq != q } }) := by
  have found : (oweCredit g 2 ((modGal g Claims.took s).spend .flit t 1)).gal[g].acks.find? (fun a => a.seq == q) = some a := by
    rw [gal_of_answer]
    exact ack
  unfold galAcked
  dsimp only
  rw [found]
  dsimp only
  rw [modGal_of_answer]
  split
  · next i hit =>
    obtain rfl : i = j := Option.some.inj (hit.symm.trans job)
    rw [kind] <;> rfl
  · next miss => cases miss.symm.trans job

theorem galErrAnswer_of_tile (code : ErrCode) (t : Option (Fin 16)) :
    galErrAnswer g q code ((modGal g Claims.took s).spend .flit t 1) = tileXferError 4 a.job a.addr { s with
      energy := (s.spend .flit t 1).energy,
      gal := s.gal.set g { Claims.owes 2 (Claims.took s.gal[g]) with acks := s.gal[g].acks.filter fun a => a.seq != q } } := by
  have found : (oweCredit g 2 ((modGal g Claims.took s).spend .flit t 1)).gal[g].acks.find? (fun a => a.seq == q) = some a := by
    rw [gal_of_answer]
    exact ack
  unfold galErrAnswer
  dsimp only
  rw [found]
  dsimp only
  rw [modGal_of_answer]
  rfl

end

/-- `s` once an error has answered relay flit `q`. -/
def State.relayAnswered (s : State) (g : Fin 4) (q : Nat) (t : Option (Fin 16)) : State := { s with
  energy := (s.spend .flit t 1).energy,
  gal := s.gal.set g { Claims.owes 2 (Claims.took s.gal[g]) with relayAcks := s.gal[g].relayAcks.filter fun r => r.seq != q } }

theorem galErrAnswer_of_relay {g : Fin 4} {s : State} {q : Nat} {r : RelayAck} (code : ErrCode)
    (no_ack : s.gal[g].acks.find? (fun a => a.seq == q) = none) (relay : s.gal[g].relayAcks.find? (fun r => r.seq == q) = some r)
    (t : Option (Fin 16)) :
    galErrAnswer g q code ((modGal g Claims.took s).spend .flit t 1) = relayFail g r code (s.relayAnswered g q t) := by
  have gal := gal_of_answer g t s
  have none_ : (oweCredit g 2 ((modGal g Claims.took s).spend .flit t 1)).gal[g].acks.find? (fun a => a.seq == q) = none := by
    rw [gal]
    exact no_ack
  have found : (oweCredit g 2 ((modGal g Claims.took s).spend .flit t 1)).gal[g].relayAcks.find? (fun r => r.seq == q) = some r := by
    rw [gal]
    exact relay
  unfold galErrAnswer
  dsimp only
  rw [none_]
  dsimp only
  rw [found]
  dsimp only
  rw [modGal_of_answer]
  rfl

theorem tiles_relayAnswered (s : State) (g k : Fin 4) (q : Nat) (t : Option (Fin 16)) :
    (s.relayAnswered g q t).gal[k].tiles = s.gal[k].tiles := by
  have change : s.relayAnswered g q t = modGal g (fun x => { Claims.owes 2 (Claims.took x) with
      relayAcks := x.relayAcks.filter fun r => r.seq != q }) (s.spend .flit t 1) := rfl
  rw [change]
  by_cases own : k = g
  · rw [own, gal_modGal_same]
    rfl
  · rw [gal_modGal_other own]
    rfl

end Sys2Proof.Machine

namespace Sys2Proof
open Sys2Proof.Machine

/-- Settles O40: answers by what follows a flit in its turn; a relay flit's error by `relayFail_of_open`. -/
theorem galleryAnswers : Obligations.GalleryAnswers := by
  intro g s x
  refine ⟨fun h q up alive turn good => ?answers, fun vc => rfl, fun q up alive => ?replay, fun pass => ?pass⟩
  case answers =>
    intro y
    refine ⟨fun a j n c d k ack job kind => ?_, fun r code no_ack relay tile => ?_⟩
    · intro u
      have thread := flitThread_of_ack ack job
      refine ⟨congrArg Host.Outcome.next ((galTake_of_good up alive turn good (some q) _).trans ?_),
        fun code => congrArg Host.Outcome.next ((galTake_of_good up alive turn good (some q) _).trans ?_)⟩
      · rw [thread]
        exact galAcked_of_tile ack job kind j.thread
      · rw [thread]
        exact galErrAnswer_of_tile ack code j.thread
    · have answer := (galTake_of_good up alive turn good (some q) (galErrAnswer g q code)).trans
        (galErrAnswer_of_relay code no_ack relay _)
      have still : ∃ t ∈ (s.relayAnswered g q ((some q).bind (s.flitThread g))).gal[r.arr].tiles, t.job = r.job := by
        rw [tiles_relayAnswered]
        exact tile
      exact ⟨_, congrArg Host.Outcome.next answer, relayFail_of_open still code⟩
  case replay =>
    have comes (f : State) : (if s.gal[g].link ≠ .up ∨ (!s.alive) = true then s else f) = f :=
      if_neg fun off => off.elim (fun down => down up) (by simp [alive])
    exact ⟨congrArg Host.Outcome.next (comes _), congrArg Host.Outcome.next (comes _)⟩
  case pass =>
    intro h y goes
    have passes (p : PassItem) : passForward g p s = _ := if_neg (not_not.mpr pass)
    have sends (p : PassItem) : Host.Outcome.next (if s.gal[g + 2].busy then
        modGal (g + 2) (fun x => { x with first := x.first ++ [.pass p] }) s
        else (modGal (g + 2) (Gal.drive (.pass p)) s).spend .flit none 1) = goes p := by
      refine congrArg Host.Outcome.next ?_
      split <;> rfl
    refine ⟨fun f => (congrArg Host.Outcome.next (passes _)).trans (sends (.flit f)),
      fun w => ⟨passedOn w, (congrArg Host.Outcome.next (passes _)).trans (sends (.capWord (passedOn w))), passedOn_toNat w⟩⟩

end Sys2Proof


/-! ## Write flits that arrive on a Gallery -/

namespace Sys2Proof.Machine

/-! ### A flit that goes to memory -/

/-- Gallery `g` of a state with other Galleries, and another energy. -/
def State.withGal (s : State) (gal : Vector Gal 4) (energy : Vector Nat 85) : State := { s with gal := gal, energy := energy }

theorem flitFits_withGal (s : State) (gal : Vector Gal 4) (energy : Vector Nat 85) (t : GalTile) (f : WriteFlit) :
    flitFits (s.withGal gal energy) t f = flitFits s t f := rfl

theorem galArrive_of_bad {g : Fin 4} {s : State} {f : WriteFlit} (up : s.gal[g].link = .up) (alive : s.alive = true)
    (room : s.gal[g].rx.length < 16) (turn : f.hdr.seq = s.gal[g].rxSeq) (bad : f.hdr.crcOk = false) (few : s.gal[g].failRun < 7) :
    galArrive g f s = { s with gal := s.gal.set g { s.gal[g] with
      failRun := s.gal[g].failRun + 1, first := .replayReq s.gal[g].rxSeq :: s.gal[g].first } } := by
  have takes := galTake_of_bad up alive turn bad none fun s => galDrain g (modGal g (fun x => { x with rx := x.rx ++ [f] }) s)
  have asks : askReplay g (modGal g (fun x => { x with failRun := x.failRun + 1 }) s) = { s with gal := s.gal.set g { s.gal[g] with
      failRun := s.gal[g].failRun + 1, first := .replayReq s.gal[g].rxSeq :: s.gal[g].first } } := by
    rw [askReplay, modGal_modGal]
    rfl
  have gal : (askReplay g (modGal g (fun x => { x with failRun := x.failRun + 1 }) s)).gal[g].failRun = s.gal[g].failRun + 1 := by
    rw [askReplay, modGal_modGal, gal_modGal_same]
  refine (if_neg (by omega) : galArrive g f s = _).trans (takes.trans ?_)
  unfold crcFail
  dsimp only
  rw [if_neg (by rw [gal]; omega), asks]

/-- The state in which flit `f` waits at the head of Gallery `g`, whose buffer was empty. -/
def State.arrived (s : State) (g : Fin 4) (f : WriteFlit) : State :=
  s.withGal (s.gal.set g { Claims.took s.gal[g] with rx := [f], refusing := false }) (s.spend .flit none 1).energy

theorem gal_arrived (s : State) (g : Fin 4) (f : WriteFlit) :
    (s.arrived g f).gal[g] = { Claims.took s.gal[g] with rx := [f], refusing := false } :=
  Vector.getElem_set_self g.isLt

/-- What is done with the flit at the head of Gallery `g`, once the tile it belongs to is open. -/
def serveHead (g : Fin 4) (s : State) : State :=
  match s.gal[g].openTile?, s.gal[g].rx with
  | some t, f :: _ =>
    (match flitFits s t f with
    | .window => refuseWindow g f 1 (breakTile g t.job .window s)
    | .rule => refuseFlit g f .window (breakTile g t.job .window s)
    | .at_ a => if t.relay.isSome then s else writeFlit g t f a s)
  | _, _ => s

theorem galDrain_of_head {g : Fin 4} {s : State} {f : WriteFlit} {r : List WriteFlit} (head : s.gal[g].rx = f :: r)
    (kept : (s.gal[g].refusing && !f.first) = false) :
    galDrain g s = serveHead g (headTile g f (modGal g (fun x => { x with refusing := false }) s)) := by
  unfold galDrain
  rw [head]
  dsimp only
  rw [kept]
  rfl

theorem serveHead_of_plain {g : Fin 4} {s : State} {t : GalTile} {f : WriteFlit} {r : List WriteFlit} {a : Nat}
    (tile : s.gal[g].openTile? = some t) (head : s.gal[g].rx = f :: r) (fits : flitFits s t f = .at_ a) (plain : t.relay = none) :
    serveHead g s = writeFlit g t f a s := by
  unfold serveHead
  rw [tile, head]
  dsimp only
  rw [fits, plain]
  rfl

theorem serveHead_of_relay {g : Fin 4} {s : State} {t : GalTile} {f : WriteFlit} {r : List WriteFlit} {a : Nat} {e : Fin 16}
    (tile : s.gal[g].openTile? = some t) (head : s.gal[g].rx = f :: r) (fits : flitFits s t f = .at_ a) (relay : t.relay = some e) :
    serveHead g s = s := by
  unfold serveHead
  rw [tile, head]
  dsimp only
  rw [fits, relay]
  rfl

/-- A flit that arrives in its turn, whole, at an empty buffer, and is not refused with its tile. -/
theorem galArrive_of_good {g : Fin 4} {s : State} {f : WriteFlit} (up : s.gal[g].link = .up) (alive : s.alive = true)
    (room : s.gal[g].rx.length < 16) (turn : f.hdr.seq = s.gal[g].rxSeq) (good : f.hdr.crcOk = true) (empty : s.gal[g].rx = [])
    (kept : s.gal[g].refusing = false ∨ f.first = true) : galArrive g f s = serveHead g (headTile g f (s.arrived g f)) := by
  have takes := galTake_of_good up alive turn good none fun s => galDrain g (modGal g (fun x => { x with rx := x.rx ++ [f] }) s)
  refine (if_neg (by omega) : galArrive g f s = _).trans (takes.trans ?_)
  obtain ⟨t, came⟩ : ∃ t, t = modGal g (fun x => { Claims.took x with rx := x.rx ++ [f] }) (s.spend .flit none 1) := ⟨_, rfl⟩
  have one : modGal g (fun x => { x with rx := x.rx ++ [f] }) ((modGal g Claims.took s).spend .flit none 1) = t := by
    rw [came, show (modGal g Claims.took s).spend .flit none 1 = modGal g Claims.took (s.spend .flit none 1) from rfl, modGal_modGal]
    rfl
  have gal : t.gal[g] = { Claims.took s.gal[g] with rx := s.gal[g].rx ++ [f] } := by
    rw [came, gal_modGal_same]
    rfl
  have head : modGal g (fun x => { x with refusing := false }) t = s.arrived g f := by
    have same : s.arrived g f = s.withGal (s.gal.set g { Claims.took s.gal[g] with rx := s.gal[g].rx ++ [f], refusing := false })
        (s.spend .flit none 1).energy := by
      rw [empty]
      rfl
    rw [came, modGal_modGal, same]
    rfl
  have stays : (t.gal[g].refusing && !f.first) = false := by
    rw [gal]
    obtain off | first := kept
    · rw [show ({ Claims.took s.gal[g] with rx := s.gal[g].rx ++ [f] } : Gal).refusing = s.gal[g].refusing from rfl, off]
      rfl
    · rw [first]
      exact Bool.and_false _
  refine (congrArg (galDrain g) one).trans ((galDrain_of_head (f := f) (r := []) ?_ stays).trans ?_)
  · rw [gal, empty]
    rfl
  · rw [head]

end Sys2Proof.Machine


/-! ## Flits of open tiles, and tiles that open -/

namespace Sys2Proof.Machine

/-- The requests of flit `f` of tile `t` at `a`. -/
def flitLines (t : GalTile) (f : WriteFlit) (a : Nat) : List LineReq :=
  writeLines t.job f.hdr.seq .gallery (some t.entry) a ((leBytes f.data.toNat 256).take (flitSize f))

/-- Gallery `x` once flit `f` of tile `t` has left its head for memory. -/
def Gal.wrote (x : Gal) (t : GalTile) (f : WriteFlit) : Gal :=
  Claims.owes 0 { x with tiles := Claims.noted x.tiles t.job f, rx := x.rx.drop 1 }

theorem writeFlit_eq (g : Fin 4) (t : GalTile) (f : WriteFlit) (a : Nat) (s : State) :
    ∃ new jobs nextId, new.map LineReq.unnumbered = flitLines t f a ∧
      writeFlit g t f a s = { s with
        reqs := s.reqs ++ new, jobs := jobs, nextId := nextId, gal := s.gal.set g (s.gal[g].wrote t f) } := by
  have asks := asks_addWrite t.job f.hdr.seq .gallery (some t.entry) a ((leBytes f.data.toNat 256).take (flitSize f)) s
  obtain ⟨u, added⟩ : ∃ u, u = addWrite t.job f.hdr.seq .gallery (some t.entry) a ((leBytes f.data.toNat 256).take (flitSize f)) s :=
    ⟨_, rfl⟩
  rw [← added] at asks
  obtain ⟨new, reqs, lines⟩ := asks.reqs
  refine ⟨new, u.jobs, u.nextId, lines, ?_⟩
  unfold writeFlit dropHead oweCredit
  rw [← added, modGal_modGal, modGal_modGal, asks.frame, reqs]
  rfl

theorem flitLines_own {t : GalTile} {f : WriteFlit} {a : Nat} {new : List LineReq}
    (lines : new.map LineReq.unnumbered = flitLines t f a) : ∀ q ∈ new,
      q.job = t.job ∧ q.tag = f.hdr.seq ∧ q.unit = .gallery ∧ q.entry = some t.entry ∧ q.wr.isSome = true :=
  forall_unnumbered lines (fun _ mem => mem_writeLines mem) fun _ own => own

theorem flitLines_cells {t : GalTile} {f : WriteFlit} {a : Nat} {new : List LineReq}
    (lines : new.map LineReq.unnumbered = flitLines t f a) : (new.flatMap fun q => q.wr.getD []) =
      cellsAt a ((leBytes f.data.toNat 256).take (flitSize f)) :=
  (flatMap_unnumbered lines fun _ => rfl).trans (writeLines_cells ..)

/-- A flit that finds its tile open leaves the Gallery as it found it, but for what the flit itself does. -/
theorem wrote_arrived {x : Gal} {f : WriteFlit} (empty : x.rx = []) (taking : x.refusing = false) (t : GalTile) :
    Gal.wrote { Claims.took x with rx := [f], refusing := false } t f =
      Claims.owes 0 { Claims.took x with tiles := Claims.noted x.tiles t.job f } := by
  cases x
  dsimp only at empty taking
  subst empty taking
  rfl

theorem writeFlits_open {g : Fin 4} {s : State} {f : WriteFlit} (up : s.gal[g].link = .up) (alive : s.alive = true)
    (room : s.gal[g].rx.length < 16) (turn : f.hdr.seq = s.gal[g].rxSeq) (good : f.hdr.crcOk = true) (empty : s.gal[g].rx = [])
    (taking : s.gal[g].refusing = false) {t : GalTile} {a : Nat} (tile : s.gal[g].openTile? = some t) (plain : t.relay = none)
    (fresh : f.first = true → t.bytes = 0) (fits : flitFits s t f = .at_ a) :
    ∃ s' new, exec (.galWriteFlit g f) s = .next s' ∧ s'.reqs = s.reqs ++ new ∧
      (new.flatMap fun q => q.wr.getD []) = cellsAt a ((leBytes f.data.toNat 256).take (flitSize f)) ∧
      (∀ q ∈ new, q.job = t.job ∧ q.tag = f.hdr.seq ∧ q.unit = .gallery ∧ q.entry = some t.entry ∧ q.wr.isSome = true) ∧
      s'.gal = s.gal.set g (Claims.owes 0 { Claims.took s.gal[g] with tiles := Claims.noted s.gal[g].tiles t.job f }) ∧
      s' = { s with reqs := s'.reqs, jobs := s'.jobs, nextId := s'.nextId, gal := s'.gal, energy := s'.energy } := by
  have arrives := galArrive_of_good up alive room turn good empty (.inl taking)
  have gal := gal_arrived s g f
  have open_ : (s.arrived g f).gal[g].openTile? = some t := by rw [gal]; exact tile
  have stays : headTile g f (s.arrived g f) = s.arrived g f := by
    have begun : (f.first && t.bytes != 0) = false := by
      cases first : f.first
      · rfl
      · simp [fresh first]
    unfold headTile
    rw [open_]
    dsimp only
    rw [begun]
    rfl
  rw [stays, serveHead_of_plain open_ (congrArg Gal.rx gal) (fits : flitFits (s.arrived g f) t f = .at_ a) plain] at arrives
  obtain ⟨new, jobs, nextId, lines, writes⟩ := writeFlit_eq g t f a (s.arrived g f)
  have done := arrives.trans writes
  refine ⟨galArrive g f s, new, rfl, by rw [done]; rfl, flitLines_cells lines, flitLines_own lines, ?_, by rw [done]; rfl⟩
  rw [done, gal, wrote_arrived empty taking]
  exact Vector.set_set ..

/-! ### A tile that opens -/

theorem admission_holds {s : State} {p : LinkPort} {src : Identity} {o n : Nat} {need : Need} {adv : Option Advance} {w : Fin 64}
    (admits : admission s p src o n need adv = .ok w) : (s.window w).holds o n = true := by
  unfold admission at admits
  dsimp only at admits
  split at admits
  · split at admits <;> cases admits
  · next v found =>
    have hit := List.find?_some found
    simp only [Bool.and_eq_true] at hit
    split at admits
    · cases admits
    · split at admits
      · cases admits
      · split at admits
        · cases admits
        · injection admits with same
          rw [← same]
          exact hit.2.1

theorem galAdmit_ok {s : State} {g : Fin 4} {o n : Nat} {adv : Option Advance} {w : Fin 64} {a : Nat}
    (admits : galAdmit s g o n adv = .ok (w, a)) : (s.window w).holds o n = true ∧ (s.window w).target? o = .mem a := by
  unfold galAdmit at admits
  split at admits
  · cases admits
  · next v admitted =>
    split at admits
    · next b leads =>
      injection admits with same
      injection same with window address
      subst window address
      exact ⟨admission_holds admitted, leads⟩
    · cases admits

/-- What a ring gates does not depend on its slots. -/
theorem gateOf_of_rings {s t : State} {slots : Fin 64 → List Slot} (same : ∀ m, t.ring m = { s.ring m with slots := slots m })
    (a n : Nat) : gateOf t a n = gateOf s a n := by
  unfold gateOf
  simp only [same] <;> rfl

theorem flitSlot_of_rings {s t : State} {slots : Fin 64 → List Slot} (same : ∀ m, t.ring m = { s.ring m with slots := slots m })
    (a n : Nat) : flitSlot t a n = flitSlot s a n := by
  unfold flitSlot
  rw [gateOf_of_rings same]
  simp only [same] <;> rfl

theorem flitSlot_buffer {s : State} {a n : Nat} {l : Fin 64} {k : Nat} (slot : flitSlot s a n = some (l, k)) :
    (s.ring l).kind = false := by
  unfold flitSlot at slot
  split at slot
  · split at slot
    · next buffer =>
      injection slot with same
      injection same with ring _
      subst ring
      simp only [Bool.and_eq_true, Bool.not_eq_true'] at buffer
      exact buffer.1
    · cases slot
  · cases slot

/-- A slot of a buffer ring that lets a write take its entry does so whatever else waits. -/
theorem tagPermits_buffer {s t : State} {l : Fin 64} {k : Nat} (buffer : (s.ring l).kind = false) (ring : t.ring l = s.ring l)
    (permits : tagPermits s l k true = true) : tagPermits t l k true = true := by
  unfold tagPermits at permits ⊢
  dsimp only at permits ⊢
  rw [ring]
  rw [buffer] at permits ⊢
  exact permits

/-- The tile that the first flit `f` opens in slot `k` of ring `l`, with the window `w`. -/
def State.newTile (s : State) (g : Fin 4) (f : WriteFlit) (w l : Fin 64) (k : Nat) : GalTile :=
  ⟨s.nextId, l, k, s.relayOf g l, s.nextId + 1, s.window w, 0, f.dcnt, f.hdr.seq, false⟩

/-- The Galleries once that tile is open. -/
def State.galOpened (s : State) (g : Fin 4) (f : WriteFlit) (w l : Fin 64) (k : Nat) : Vector Gal 4 :=
  (newFill l k s).gal.set g { (newFill l k s).gal[g] with tiles := (newFill l k s).gal[g].tiles ++ [s.newTile g f w l k] }

theorem gal_newFill (l : Fin 64) (k : Nat) (s : State) (g : Fin 4) : ∃ acks, (newFill l k s).gal[g] = { s.gal[g] with relayAcks := acks } :=
  ⟨_, Vector.getElem_map _ g.isLt⟩

theorem gal_galOpened (s : State) (g : Fin 4) (f : WriteFlit) (w l : Fin 64) (k : Nat) : ∃ acks, (s.galOpened g f w l k)[g] =
    { s.gal[g] with tiles := s.gal[g].tiles ++ [s.newTile g f w l k], relayAcks := acks } := by
  obtain ⟨acks, filled⟩ := gal_newFill l k s g
  refine ⟨acks, (Vector.getElem_set_self g.isLt).trans ?_⟩
  rw [filled]

theorem tagTake_buffer {s : State} {l : Fin 64} (buffer : (s.ring l).kind = false) (k : Nat) : tagTake l k true s =
    setSlot l k (fun x => { x with tag := .writing, entry := 0, taken := 0, done := 0 }) s := by
  unfold tagTake
  dsimp only
  rw [buffer]
  rfl

theorem openTile_of_fits {g : Fin 4} {f : WriteFlit} {s : State} {w l : Fin 64} {a k : Nat} (has : s.flitLacks g f = false)
    (admits : galAdmit s g f.addr.toNat (flitSize f) f.dcnt = .ok (w, a)) (slot : flitSlot s a (flitSize f) = some (l, k))
    (permits : tagPermits s l k true = true) (room : s.rangeFull = false) :
    ∃ slots ush jobs, openTile g f s = { s with
      range := s.range ++ [⟨s.nextId, (s.ring l).slotAddr k, (s.ring l).slotAddr k + (s.ring l).slotBytes - 1, true, .gallery,
        some (l, k), true⟩],
      nextId := s.nextId + 2, ush := ush, jobs := jobs, gal := s.galOpened g f w l k,
      land := { s.land with rings := s.land.rings.set l { s.ring l with slots := slots } } } := by
  have buffer := flitSlot_buffer slot
  obtain ⟨u, filled⟩ : ∃ u, u = newFill l k s := ⟨_, rfl⟩
  have taken := tagTake_buffer (s := u) (l := l) (by rw [filled]; exact buffer) k
  have opens : openTile g f s =
      let e := takeEntry ((s.ring l).slotAddr k) ((s.ring l).slotAddr k + (s.ring l).slotBytes - 1) true .gallery (some (l, k))
        (tagTake l k true u)
      let j := addJob (.galTile g w) [e.1] 0 none none e.2
      modGal g (fun x => { x with
        tiles := x.tiles ++ [⟨e.1, l, k, s.relayOf g l, j.1, s.window w, 0, f.dcnt, f.hdr.seq, false⟩] }) j.2 := by
    unfold openTile
    rw [has, if_neg Bool.false_ne_true, admits]
    dsimp only
    rw [slot]
    dsimp only
    rw [if_pos (by rw [permits, room]; rfl), filled]
  rw [opens, taken, filled]
  exact ⟨_, _, _, rfl⟩

/-- The first flit of a tile that its window admits fits the tile it opens. -/
theorem flitFits_newTile {s t : State} {slots : Fin 64 → List Slot} (same : ∀ m, t.ring m = { s.ring m with slots := slots m })
    {g : Fin 4} {f : WriteFlit} {w l : Fin 64} {a k : Nat}
    (admits : galAdmit s g f.addr.toNat (flitSize f) f.dcnt = .ok (w, a)) (slot : flitSlot s a (flitSize f) = some (l, k)) :
    flitFits t (s.newTile g f w l k) f = .at_ a := by
  obtain ⟨holds, leads⟩ := galAdmit_ok admits
  have inside : (!(s.newTile g f w l k).win.holds f.addr.toNat (flitSize f)) = false := congrArg not holds
  have target : (s.newTile g f w l k).win.target? f.addr.toNat = .mem a := leads
  unfold flitFits
  dsimp only
  rw [if_neg (Bool.eq_false_iff.mp inside), target]
  exact if_pos ((flitSlot_of_rings same ..).trans slot)

theorem openTile?_append {x : Gal} {ts : List GalTile} {y : GalTile} (tiles : x.tiles = ts ++ [y])
    (closed : ts.find? (fun t => !t.lastSeen) = none) (open_ : y.lastSeen = false) : x.openTile? = some y := by
  rw [Gal.openTile?, tiles, List.find?_append, closed]
  simp [open_]

/-- Flit `f` is noted by the tile it opened, and by no other. -/
theorem noted_append {ts : List GalTile} {y : GalTile} (others : ∀ z ∈ ts, z.job ≠ y.job) (f : WriteFlit) :
    Claims.noted (ts ++ [y]) y.job f =
      ts ++ [{ y with bytes := y.bytes + flitSize f, seq := f.hdr.seq, lastSeen := f.last }] := by
  have kept : ts.map (fun z => if z.job = y.job then { z with bytes := z.bytes + flitSize f, seq := f.hdr.seq, lastSeen := f.last }
      else z) = ts := (List.map_congr_left (g := id) fun z m => if_neg (others z m)).trans (List.map_id ts)
  rw [Claims.noted, List.map_append, kept]
  simp

theorem writeFlits_first {g : Fin 4} {s : State} {f : WriteFlit} (up : s.gal[g].link = .up) (alive : s.alive = true)
    (room : s.gal[g].rx.length < 16) (turn : f.hdr.seq = s.gal[g].rxSeq) (good : f.hdr.crcOk = true) (empty : s.gal[g].rx = [])
    (closed : s.gal[g].openTile? = none) (first : f.first = true) (older : ∀ y ∈ s.gal[g].tiles, y.job < s.nextId)
    (has : s.flitLacks g f = false) {w l : Fin 64} {a k : Nat}
    (admits : galAdmit s g f.addr.toNat (flitSize f) f.dcnt = .ok (w, a)) (slot : flitSlot s a (flitSize f) = some (l, k))
    (permits : tagPermits s l k true = true) (entries : s.rangeFull = false) :
    ∃ s' y, exec (.galWriteFlit g f) s = .next s' ∧ s'.gal[g].tiles = s.gal[g].tiles ++ [y] ∧ y.ring = l ∧ y.slot = k ∧
      y.relay = s.relayOf g l ∧ y.win = s.window w ∧ y.dcnt = f.dcnt ∧ y.entry = s.nextId ∧
      s'.range = s.range ++ [⟨s.nextId, (s.ring l).slotAddr k, (s.ring l).slotAddr k + (s.ring l).slotBytes - 1, true, .gallery,
        some (l, k), true⟩] ∧ s'.mem = s.mem := by
  have arrives := galArrive_of_good up alive room turn good empty (.inr first)
  obtain ⟨u, came⟩ : ∃ u, u = s.arrived g f := ⟨_, rfl⟩
  rw [← came] at arrives
  have gal : u.gal[g] = { Claims.took s.gal[g] with rx := [f], refusing := false } := by rw [came]; exact gal_arrived s g f
  have cap : u.gal[g].capPeer = s.gal[g].capPeer := by
    rw [gal]
    rfl
  have has' : u.flitLacks g f = false := by
    rw [State.flitLacks, State.galFeature, cap]
    exact has
  have admits' : galAdmit u g f.addr.toNat (flitSize f) f.dcnt = .ok (w, a) := by
    have same : galAdmit u g f.addr.toNat (flitSize f) f.dcnt = galAdmit s g f.addr.toNat (flitSize f) f.dcnt := by
      unfold galAdmit
      rw [peerOf, cap, came]
      rfl
    rw [same, admits]
  have slot' : flitSlot u a (flitSize f) = some (l, k) := by rw [came]; exact slot
  have permits' : tagPermits u l k true = true := tagPermits_buffer (flitSlot_buffer slot) (by rw [came]; rfl) permits
  obtain ⟨slots, ush, jobs, opens⟩ := openTile_of_fits has' admits' slot' permits' (by rw [came]; exact entries)
  have head : headTile g f u = openTile g f u := by
    have none_ : u.gal[g].openTile? = none := by rw [gal]; exact closed
    unfold headTile
    rw [none_]
    exact if_pos first
  obtain ⟨o, opened⟩ : ∃ o, o = openTile g f u := ⟨_, rfl⟩
  obtain ⟨y, new⟩ : ∃ y, y = u.newTile g f w l k := ⟨_, rfl⟩
  rw [head, ← opened] at arrives
  rw [← opened] at opens
  obtain ⟨acks, after⟩ := gal_galOpened u g f w l k
  have tile : o.gal[g] = { Claims.took s.gal[g] with
      rx := [f], refusing := false, tiles := s.gal[g].tiles ++ [y], relayAcks := acks } := by
    rw [opens]
    refine after.trans ?_
    rw [gal, new]
    rfl
  have open_ : o.gal[g].openTile? = some y := by
    rw [tile]
    exact openTile?_append (ts := s.gal[g].tiles) rfl closed (by rw [new]; rfl)
  have waits : o.gal[g].rx = f :: [] := by rw [tile]
  have rings (m : Fin 64) : o.ring m = { u.ring m with slots := if m = l then slots else (u.ring m).slots } := by
    rw [opens]
    by_cases own : m = l
    · rw [if_pos own, own]
      exact Vector.getElem_set_self l.isLt
    · rw [if_neg own]
      exact Vector.getElem_set_ne l.isLt m.isLt fun same => own (Fin.ext same.symm)
  have fits : flitFits o y f = .at_ a := by
    rw [new]
    exact flitFits_newTile rings admits' slot'
  have range : o.range = s.range ++ [⟨s.nextId, (s.ring l).slotAddr k, (s.ring l).slotAddr k + (s.ring l).slotBytes - 1, true,
      .gallery, some (l, k), true⟩] := by rw [opens, came]; rfl
  have mem : o.mem = s.mem := by rw [opens, came]; rfl
  have relay_ : y.relay = s.relayOf g l := by
    rw [new, State.newTile, State.relayOf]
    simp only [gal]
    rfl
  have named : y.ring = l ∧ y.slot = k ∧ y.win = s.window w ∧ y.dcnt = f.dcnt ∧ y.entry = s.nextId ∧ y.job = s.nextId + 1 := by
    rw [new, came]
    exact ⟨rfl, rfl, rfl, rfl, rfl, rfl⟩
  obtain ⟨ring, at_, window, counter, entry, job⟩ := named
  cases plain : y.relay with
  | some e =>
    rw [serveHead_of_relay open_ waits fits plain] at arrives
    refine ⟨galArrive g f s, y, rfl, ?_, ring, at_, relay_, window, counter, entry, ?_, ?_⟩
    · rw [arrives, tile]
    · rw [arrives, range]
    · rw [arrives, mem]
  | none =>
    rw [serveHead_of_plain open_ waits fits plain] at arrives
    obtain ⟨lines, jobs, nextId, -, writes⟩ := writeFlit_eq g y f a o
    rw [writes] at arrives
    refine ⟨galArrive g f s, { y with bytes := y.bytes + flitSize f, seq := f.hdr.seq, lastSeen := f.last }, rfl, ?_, ring, at_,
      relay_, window, counter, entry, ?_, ?_⟩
    · rw [arrives]
      refine (congrArg Gal.tiles (Vector.getElem_set_self g.isLt) : _ = (o.gal[g].wrote y f).tiles).trans ?_
      rw [tile]
      exact noted_append (fun z m same => absurd (older z m) (by omega)) f
    · rw [arrives]
      exact range
    · rw [arrives]
      exact mem

end Sys2Proof.Machine


/-! ## Relay flits -/

namespace Sys2Proof.Machine

/-- The Galleries `outs` of `s`, each once, send a flit: each is then what `send` makes of it. -/
def sendOn (send : Gal → Gal) (outs : List (Fin 4)) (s : State) : State :=
  outs.foldl (fun s o => State.spend .flit none 1 (modGal o send s)) s

theorem sendOn_withGal (send : Gal → Gal) (outs : List (Fin 4)) (s : State) :
    sendOn send outs s = s.withGal (sendOn send outs s).gal (sendOn send outs s).energy :=
  List.foldlRecOn outs _ (motive := fun t : State => t = s.withGal t.gal t.energy) rfl fun t same o _ => by
    rw [same]
    rfl

theorem gal_sendOn (send : Gal → Gal) {outs : List (Fin 4)} (once : outs.Nodup) (s : State) (k : Fin 4) :
    (sendOn send outs s).gal[k] = if k ∈ outs then send s.gal[k] else s.gal[k] := by
  induction outs generalizing s with
  | nil => rfl
  | cons o outs ih =>
    obtain ⟨away, rest⟩ := List.nodup_cons.mp once
    have step : (sendOn send (o :: outs) s).gal[k] = if k ∈ outs then send (modGal o send s).gal[k] else (modGal o send s).gal[k] :=
      ih rest (State.spend .flit none 1 (modGal o send s))
    rw [step]
    by_cases own : k = o
    · rw [own, if_neg away, if_pos List.mem_cons_self, gal_modGal_same]
    · have same : (k ∈ o :: outs) ↔ k ∈ outs := by simp [own]
      simp only [gal_modGal_other own, same]

/-- Gallery `x` once it has sent relay flit `f` of tile `t`, which came on Gallery `g`, on to `addr`. -/
def Gal.relays (x : Gal) (g : Fin 4) (t : GalTile) (f : WriteFlit) (addr : BitVec 32) : Gal :=
  let y := Gal.send (.write { f with addr := addr, dcnt := none }) x
  { y with relayAcks := y.relayAcks ++ [⟨x.txSeq, g, f.hdr.seq, t.job, some (t.ring, t.slot)⟩] }

theorem relayForward_of_takes {g : Fin 4} {s : State} {t : GalTile} {e : Fin 16} {f : WriteFlit} {a : Nat}
    (clocked : s.clocked = true) (head : s.relayHead g = some (t, e, f, a))
    (takes : ∀ o ∈ relayOuts s.gal[g].relay[e], o ≠ g ∧ s.galFeature o 16 = true ∧ s.relayTakes o = true ∧ s.gal[o].hasTokens = true) :
    relayForward g s = writeFlit g t f a
      (sendOn (·.relays g t f (f.addr + s.gal[g].delta[e].extractLsb' 0 32)) (relayOuts s.gal[g].relay[e]) s) := by
  have supported : (relayOuts s.gal[g].relay[e]).find? (fun o => s.gal[o].link = .up && !s.galFeature o 16) = none :=
    List.find?_eq_none.mpr fun o m => by simp [(takes o m).2.1]
  have all : ((relayOuts s.gal[g].relay[e]).all fun o => s.relayTakes o && s.gal[o].hasTokens) = true :=
    List.all_eq_true.mpr fun o m => by rw [(takes o m).2.2.1, (takes o m).2.2.2]; rfl
  unfold relayForward
  rw [head]
  dsimp only
  rw [supported]
  dsimp only
  rw [all, clocked]
  rfl

/-- What a Gallery that relays a flit becomes: the flit at its pins under its own number, and its credit spent. -/
theorem relays_fields (x : Gal) (g : Fin 4) (t : GalTile) (f : WriteFlit) (addr : BitVec 32) :
    (x.relays g t f addr).pins = [.write { f with hdr := { f.hdr with seq := x.txSeq }, addr := addr, dcnt := none }] ∧
      (x.relays g t f addr).credits = x.credits.set 0 (x.credits[0] - 1) ∧ (x.relays g t f addr).sent = x.sent + 1 ∧
      (x.relays g t f addr).txSeq = x.txSeq + 1 ∧
      (x.relays g t f addr).relayAcks = x.relayAcks ++ [⟨x.txSeq, g, f.hdr.seq, t.job, some (t.ring, t.slot)⟩] := by
  have pay (y : Gal) : y.pay = { y with tokens := y.pay.tokens, half := y.pay.half } := by
    unfold Gal.pay
    split <;> rfl
  unfold Gal.relays Gal.send Gal.drive
  dsimp only [OutFlit.withSeq, OutFlit.vc]
  rw [pay]
  exact ⟨rfl, rfl, rfl, rfl, rfl⟩

/-- A relay flit goes on and is written. -/
theorem relayFlits : Claims.RelayFlits := by
  intro g s t e f a clocked head x takes
  have outs_once : (relayOuts x.relay[e]).Nodup := (List.nodup_finRange 4).filter _
  have away : g ∉ relayOuts x.relay[e] := fun m => (takes g m).1 rfl
  have forwards := relayForward_of_takes clocked head takes
  obtain ⟨u, sent⟩ : ∃ u, u = sendOn (·.relays g t f (f.addr + x.delta[e].extractLsb' 0 32)) (relayOuts x.relay[e]) s := ⟨_, rfl⟩
  have gal (k : Fin 4) : u.gal[k] = if k ∈ relayOuts x.relay[e] then s.gal[k].relays g t f (f.addr + x.delta[e].extractLsb' 0 32)
      else s.gal[k] := by
    rw [sent]
    exact gal_sendOn _ outs_once s k
  have here : u.gal[g] = x := (gal g).trans (if_neg away)
  have frame : u = s.withGal u.gal u.energy := by
    rw [sent]
    exact sendOn_withGal ..
  obtain ⟨new, jobs, nextId, lines, writes⟩ := writeFlit_eq g t f a u
  have done : relayForward g s = writeFlit g t f a u := by rw [forwards, sent]
  have other {o : Fin 4} (o_g : o ≠ g) : (relayForward g s).gal[o] = u.gal[o] := by
    rw [done, writes]
    exact Vector.getElem_set_ne g.isLt o.isLt fun same => o_g (Fin.ext same.symm)
  have own : (relayForward g s).gal[g] = x.wrote t f := by
    rw [done, writes, here]
    exact Vector.getElem_set_self g.isLt
  refine ⟨relayForward g s, new, rfl, ?_, flitLines_cells lines, by rw [own]; rfl, by rw [own]; rfl, fun o m => ?_,
    fun o o_g out => ?_⟩
  · rw [done, writes, frame]
    rfl
  · have low : x.delta[e].extractLsb' 0 32 = BitVec.ofNat 32 x.delta[e].toNat := by
      rw [extractLsb'_eq_ofNat, Nat.pow_zero, Nat.div_one]
    rw [other (takes o m).1, gal o, if_pos m, low]
    exact relays_fields ..
  · rw [other o_g, gal o, if_neg out]

end Sys2Proof.Machine


/-! ## Reads that arrive on a Gallery -/

namespace Sys2Proof.Machine

/-- `s` once a flit has arrived in its turn on Gallery `g`, to the account of thread `t`. -/
def State.flitTook (s : State) (g : Fin 4) (t : Option (Fin 16)) : State := (modGal g Claims.took s).spend .flit t 1

theorem gal_flitTook (s : State) (g : Fin 4) (t : Option (Fin 16)) : (s.flitTook g t).gal = s.gal.set g (Claims.took s.gal[g]) := rfl

theorem peerOf_flitTook (s : State) (g : Fin 4) (t : Option (Fin 16)) : peerOf (s.flitTook g t).gal[g] = peerOf s.gal[g] :=
  (congrArg peerOf (gal_modGal_same g Claims.took s)).trans rfl

theorem refuse_frame (p : LinkPort) (src : Identity) (o reason : Nat) (s : State) :
    (refuse p src o reason s).gal = s.gal ∧ (refuse p src o reason s).win.refused = s.win.refused + 1 ∧
      (refuse p src o reason s).reqs = s.reqs ∧ (refuse p src o reason s).mem = s.mem := by
  unfold refuse
  refine ⟨?_, ?_, ?_, ?_⟩ <;> simp

/-- `s` once the lines of a response to read `r`, which has number `q`, have come on Gallery `g`. -/
def State.linesCame (s : State) (g : Fin 4) (q : Nat) (r : GalRead) (k : Nat) (t : Option (Fin 16)) : State :=
  let y := Claims.owes 2 (Claims.took s.gal[g])
  let left := if linesOf r.src r.len ≤ r.got + k then s.gal[g].reads.filter (fun z => z.seq != q)
    else s.gal[g].reads.map fun z => if z.seq = q then { z with got := z.got + k } else z
  s.withGal (s.gal.set g { y with reads := left }) (s.spend .flit t 1).energy

section

variable {g : Fin 4} {s : State} {h : FlitHdr} (up : s.gal[g].link = .up) (alive : s.alive = true) (turn : h.seq = s.gal[g].rxSeq)
  (good : h.crcOk = true)
include up alive turn good

theorem readRequest_takes {a : BitVec 32} {n : Nat} (bytes : 1 ≤ n) (room : s.galReads g < 16) :
    exec (.galReadRequest g h.crcOk h.seq a n) s = .next (serveRead g h.seq a n (s.flitTook g none)) := by
  have takes := galTake_of_good (h := ⟨h.crcOk, h.seq⟩) up alive turn good none (serveRead g h.seq a n)
  exact congrArg Host.Outcome.next ((if_neg (by omega) : (if n = 0 ∨ s.galReads g ≥ 16 then s else _) = _).trans takes)

theorem readRequest_served {a : BitVec 32} {n y : Nat} {w : Fin 64} (bytes : 1 ≤ n) (room : s.galReads g < 16)
    (admits : admission s (.gal g) (peerOf s.gal[g]) a.toNat n .rd none = .ok w)
    (leads : (s.window w).target? a.toNat = .mem y) (hall : inHall y n = true) :
    ∃ s' new, exec (.galReadRequest g h.crcOk h.seq a n) s = .next s' ∧ s'.reqs = s.reqs ++ new ∧
      new.map (fun q => (q.addr, q.len)) = lineChunks y n ∧
      (∃ j, s'.jobs.getLast? = some j ∧ j.kind = .inRead (.gal g) (peerOf s.gal[g]) h.seq y n w) ∧
      s' = { s with reqs := s'.reqs, jobs := s'.jobs, nextId := s'.nextId, energy := s'.energy, gal := s.gal.set g (Claims.took s.gal[g]) } := by
  obtain ⟨t, took⟩ : ∃ t, t = s.flitTook g none := ⟨_, rfl⟩
  obtain ⟨j, added⟩ : ∃ j, j = addJob (.inRead (galPort g) (peerOf s.gal[g]) h.seq y n w) [] 0 none none t := ⟨_, rfl⟩
  have serves : serveRead g h.seq a n t = addRead j.1 0 .inbound none y n j.2 := by
    have peer : peerOf t.gal[g] = peerOf s.gal[g] := by rw [took]; exact peerOf_flitTook s g none
    have ok : admission t (galPort g) (peerOf t.gal[g]) a.toNat n .rd none = .ok w := by rw [peer, took]; exact admits
    have target : (t.window w).target? a.toNat = .mem y := by rw [took]; exact leads
    unfold serveRead
    dsimp only
    rw [ok]
    dsimp only
    rw [target]
    dsimp only
    rw [if_pos hall, peer, ← added]
  have row := readRequest_takes up alive turn good (a := a) bytes room
  rw [← took, serves] at row
  have asks := asks_addRead j.1 0 .inbound none y n j.2
  obtain ⟨u, reads⟩ : ∃ u, u = addRead j.1 0 .inbound none y n j.2 := ⟨_, rfl⟩
  rw [← reads] at asks row
  obtain ⟨new, reqs, lines⟩ := asks.reqs
  obtain ⟨left, last⟩ := asks.lastJob (j := ⟨t.nextId, .inRead (galPort g) (peerOf s.gal[g]) h.seq y n w, [], 0, 0, 0, none, [], 0, none,
    none, false, 0, 0⟩) (by rw [added]; exact List.getLast?_concat)
  refine ⟨u, new, row, reqs.trans (by rw [added, took]; rfl), (map_unnumbered lines fun _ => rfl).trans (askLines_pieces ..),
    ⟨_, last, rfl⟩, asks.frame.trans ?_⟩
  have energy : u.energy = j.2.energy := by rw [asks.frame]
  rw [energy, added, took]
  rfl

theorem readRequest_refused {a : BitVec 32} {n r : Nat} (bytes : 1 ≤ n) (room : s.galReads g < 16)
    (admits : admission s (.gal g) (peerOf s.gal[g]) a.toNat n .rd none = .error r) :
    ∃ s', exec (.galReadRequest g h.crcOk h.seq a n) s = .next s' ∧ s'.win.refused = s.win.refused + 1 ∧
      s'.gal = s.gal.set g (Claims.owes 1 { Claims.took s.gal[g] with vc2 := s.gal[g].vc2 ++ [.err 0 h.seq .window] }) ∧
      s'.reqs = s.reqs ∧ s'.mem = s.mem := by
  obtain ⟨t, took⟩ : ∃ t, t = s.flitTook g none := ⟨_, rfl⟩
  obtain ⟨u, refused⟩ : ∃ u, u = refuse (galPort g) (peerOf t.gal[g]) a.toNat r t := ⟨_, rfl⟩
  have serves : serveRead g h.seq a n t = galAnswer g [.err 0 h.seq .window] u := by
    have peer : peerOf t.gal[g] = peerOf s.gal[g] := by rw [took]; exact peerOf_flitTook s g none
    have ok : admission t (galPort g) (peerOf t.gal[g]) a.toNat n .rd none = .error r := by rw [peer, took]; exact admits
    unfold serveRead
    dsimp only
    rw [ok, refused]
  have row := readRequest_takes up alive turn good (a := a) bytes room
  rw [← took, serves] at row
  obtain ⟨gal, counts, reqs, mem⟩ := refuse_frame (galPort g) (peerOf t.gal[g]) a.toNat r t
  rw [← refused] at gal counts reqs mem
  refine ⟨galAnswer g [.err 0 h.seq .window] u, row, counts.trans (by rw [took]; rfl), ?_, reqs.trans (by rw [took]; rfl),
    mem.trans (by rw [took]; rfl)⟩
  have answers : galAnswer g [.err 0 h.seq .window] u = sendVc2 g (.err 0 h.seq .window) (oweCredit g 1 u) := rfl
  have whole : (galAnswer g [.err 0 h.seq .window] u).gal = (modGal g (fun x => Claims.owes 1 { x with
      vc2 := x.vc2 ++ [.err 0 h.seq .window] }) t).gal := by
    rw [answers, sendVc2, oweCredit, modGal_modGal]
    unfold modGal
    dsimp only
    rw [gal]
    rfl
  rw [whole, took, State.flitTook, show (modGal g Claims.took s).spend .flit none 1 = modGal g Claims.took (s.spend .flit none 1) from rfl,
    modGal_modGal]
  rfl

theorem readResponse_of_read {q : Nat} {data : List (BitVec 1024)} {r : GalRead}
    (read : s.gal[g].reads.find? (fun r => r.seq == q) = some r) (some_line : 1 ≤ data.length) (two : data.length ≤ 2) :
    ∃ u, u = s.linesCame g q r data.length ((some q).bind (s.flitThread g)) ∧
      exec (.galReadResponse g h q data) s = .next (settleTile r.job ((lineBytes r.src r.len r.got data).foldl
        (fun s b => tileBytes r.job 0 (r.dst + b.1) b.2 s) u)) := by
  refine ⟨_, rfl, ?_⟩
  have takes := galTake_of_good up alive turn good (some q) (readAnswer g q data)
  have lines : ¬data.isEmpty = true := by
    cases data with
    | nil => simp at some_line
    | cons line rest => simp
  refine congrArg Host.Outcome.next ((if_neg lines : (if data.isEmpty then s else _) = _).trans (takes.trans ?_))
  have found : (oweCredit g 2 ((modGal g Claims.took s).spend .flit ((some q).bind (s.flitThread g)) 1)).gal[g].reads.find?
      (fun r => r.seq == q) = some r := by
    rw [gal_of_answer]
    exact read
  unfold readAnswer
  dsimp only
  rw [found]
  dsimp only
  rw [List.take_of_length_le two, modGal_of_answer] <;> rfl

end

/-- Reads that come, are refused, or are answered. -/
theorem galleryReads : Claims.GalleryReads := by
  intro g s h up alive turn good x
  refine ⟨fun a n w y bytes room admits leads hall => readRequest_served up alive turn good bytes room admits leads hall,
    fun a n r bytes room admits => readRequest_refused up alive turn good bytes room admits, fun a => rfl, fun q => rfl, ?_⟩
  intro q data r j n c d k read job kind local_ some_line two y
  obtain ⟨u, came, row⟩ := readResponse_of_read up alive turn good read some_line two
  have found : u.job? r.job = some j := by rw [came]; exact job
  have asks := asks_tileBytes found kind local_ 0 r.dst (lineBytes r.src r.len r.got data)
  obtain ⟨t, after⟩ : ∃ t, t = (lineBytes r.src r.len r.got data).foldl (fun s b => tileBytes r.job 0 (r.dst + b.1) b.2 s) u := ⟨_, rfl⟩
  rw [← after] at asks row
  obtain ⟨new, reqs, lines⟩ := asks.reqs
  have energy : t.energy = u.energy := by rw [asks.frame]
  refine ⟨t, new, row, reqs.trans (by rw [came]; rfl), (flatMap_unnumbered lines fun _ => rfl).trans flatMap_writeLines,
    asks.frame.trans ?_⟩
  rw [energy, came]
  rfl

end Sys2Proof.Machine

namespace Sys2Proof
open Sys2Proof.Machine

/-- Settles O39: write flits by what follows a flit in its turn, relay flits and reads likewise. -/
theorem galleryArrivals : Obligations.GalleryArrivals := by
  refine ⟨fun g s f up alive room => ?_, relayFlits, galleryReads⟩
  intro x
  refine ⟨fun t a turn good empty taking tile plain fresh fits =>
      writeFlits_open up alive room turn good empty taking tile plain fresh fits,
    fun w a l k turn good empty closed first older has admits slot permits entries =>
      writeFlits_first up alive room turn good empty closed first older has admits slot permits entries,
    fun turn bad few => congrArg Host.Outcome.next (galArrive_of_bad up alive room turn bad few), fun late => ?_⟩
  have dropped : galTake g f.hdr none (fun s => galDrain g (modGal g (fun x => { x with rx := x.rx ++ [f] }) s)) s = s :=
    if_pos (.inr (.inr late))
  exact congrArg Host.Outcome.next ((if_neg (by omega) : galArrive g f s = _).trans dropped)

end Sys2Proof
